-- ==== Sys2Proof/Config.lean ====
section
/-! DEFINITION. What the manual fixes for the part (capacities, fixed intervals) and what it leaves open (the free choices). -/

namespace Sys2Proof

/-- Places of the egress queue (R176). -/
abbrev Config.egressPlaces : Nat := 32

/-- The most FORWARD records the egress queue holds (R176). -/
abbrev Config.egressForwardPlaces : Nat := 24

/-- Places of the port B reply queue (R181, R184). -/
abbrev Config.replyPlaces : Nat := 4

/-- Places of the Presentation Stack (R98). -/
abbrev Config.stackPlaces : Nat := 4

/-- Places of the Deferred Ring (R98). -/
abbrev Config.ringPlaces : Nat := 16

/-- The lifetime of a port B reply frame, in ms (R184). -/
abbrev Config.replyLifetime : Nat := 250

/-- The plausibility tick, in ms (R43). -/
abbrev Config.plausibilityInterval : Nat := 100

/-- The filter tick, in ms (R56). -/
abbrev Config.filterInterval : Nat := 10

/-- Microsteps driven toward the zero stop at each filter tick of a HOMING channel (R63). -/
abbrev Config.homingStep : Nat := 32

/-- The margin beyond MaxPos that homing drives before it has failed (R63). -/
abbrev Config.homingMargin : Nat := 64

/-- The top of the crew counters, in seconds (R120). -/
abbrev Config.crewTop : Nat := 86400

/-- The largest unsigned 32-bit number: the top of a rest run (R120) and of a carried sum (R42, R46). -/
abbrev Config.word32Top : Nat := 4294967295

/-- How deep writes of slot 127 nest within one event. Each nested write follows a class status that was clear and is
set (R166), no status is cleared inside such a nest, and there are sixteen classes: one outermost write and at most
sixteen inside it. Assumption log entry 6. -/
abbrev Config.publishDepth : Nat := 17

/-- DESIGN CHOICE (a free value, assumption log entry 5): which order the blocks that read one slot take one event of
it in. The manual lets either be taken first (R104, R163). The n-th event with several such readers takes, for each
reader, an arbitrary place among those after it; nothing constrains the choice. -/
opaque Config.readerChoice : Nat → Nat → Nat

end Sys2Proof
end

