-- ==== Sys2Proof/Word.lean ====
section
/-! DEFINITION. The fixed-width words of the HN9160's formats (spec/11_formats_and_electrical_summary.md, R185):
bytes, 16-bit tags and class sets, and 32-bit numbers. A slot's value is a signed 32-bit integer (R17), held as a
`Word32` and read with `toInt`; the ms, monotonic and UTC counters are unsigned 32-bit counts that wrap (R146 to R148). -/

namespace Sys2Proof

/-- One byte of a frame, a link record or a table entry. -/
abbrev Byte := BitVec 8

/-- A 16-bit number: a request's tag (R187) or a set of the sixteen fault classes (R170). -/
abbrev Word16 := BitVec 16

/-- A 32-bit number: a slot's value (R17), a counter (R146, R147, R148), an id, a card token. -/
abbrev Word32 := BitVec 32

end Sys2Proof
end

