-- ==== Sys2Proof/Syntax.lean ====
section
/-! DEFINITION. The commands of the HN9160: one constructor of `Instr` for each row of spec/opcode_table.json, with the
operands that the row's rule gives the event. -/

namespace Sys2Proof

/-- The two bus ports (R1). -/
inductive Port where
  | a
  | b
  deriving DecidableEq, Repr

/-- The id kind of a frame (R1), in the encoding order of R185. -/
inductive IdKind where
  | standard
  | extended
  deriving DecidableEq, Repr

/-- A frame's id with its id kind: 11 bits for STANDARD, 29 bits for EXTENDED (R1). -/
inductive FrameId where
  | standard (id : BitVec 11)
  | extended (id : BitVec 29)
  deriving DecidableEq, Repr

/-- A frame arrival (R1): the port, the id with its kind, the remote-request indication and the data bytes; the data
length is the number of data bytes. -/
structure Frame where
  port : Port
  id : FrameId
  remote : Bool
  data : List Byte
  deriving DecidableEq, Repr

/-- Where the reply to a service request goes: the MANAGE entry's reply id, sent with the entry's id kind (R4, R11, R181). -/
structure ReplyAddress where
  kind : IdKind
  id : Word32
  deriving DecidableEq, Repr

/-- The commands, in the table's order. Expiries, ticks and sense reports are events at the part; requests are the
host's (with their tag, R187) or the workshop tool's (with the reply address of the MANAGE entry, R181). -/
inductive Instr where
  | coldStart
  | resetInputAssert
  | resetInputRelease
  | ignitionSenseChange (level : Bool)
  | ignitionOn
  | ignitionOff
  | frameArrival (frame : Frame)
  | portBFrameStart
  | monotonicAdvance
  | linkTransfer (upstream : List Byte)
  | load (tag : Word16) (table index : Byte) (entry : List Byte)
  | read (tag : Word16) (table index : Byte)
  | setField (tag : Word16) (table index field : Byte) (value : Word32)
  | readField (tag : Word16) (table index field : Byte)
  | state (tag : Word16) (target index : Byte)
  | clearFaults (tag : Word16) (classes : Word16)
  | intakeSectionReset (tag : Word16)
  | signalsSectionReset (tag : Word16)
  | speedSectionReset (tag : Word16)
  | gaugesSectionReset (tag : Word16)
  | telltalesSectionReset (tag : Word16)
  | presentationSectionReset (tag : Word16)
  | crewSectionReset (tag : Word16)
  | faultsSectionReset (tag : Word16)
  | start (tag : Word16)
  | warmReset (tag : Word16)
  | serviceSetField (reply : ReplyAddress) (table index field : Byte) (value : Word32)
  | serviceReadField (reply : ReplyAddress) (table index field : Byte)
  | serviceClearFaults (reply : ReplyAddress) (classes : Word16)
  | readFaults (reply : ReplyAddress)
  | silenceExpiry (port : Port)
  | holdExpiry (slot : Fin 120)
  | staleExpiry (slot : Fin 120)
  | plausibilityTick
  | filterTick
  | stallReport (channel : Fin 6)
  | onDebounceExpiry (telltale : Fin 64)
  | offDebounceExpiry (telltale : Fin 64)
  | lampNoCurrent (channel : Fin 32)
  | lampCurrentPresent (channel : Fin 32)
  | lampOverCurrent (channel : Fin 32)
  | bulbCheckExpiry
  | chimeOnExpiry
  | chimeOffExpiry
  | chimeNoCurrent
  | chimeCurrentPresent
  | settleExpiry
  | quietExpiry
  | replyFrameSend
  | replyFrameSent
  | replyFrameNotSent
  | replyExpiry (place : Fin 4)
  | msCounterAdvance
  | keepAliveRemoval
  deriving DecidableEq, Repr

end Sys2Proof
end

