-- ==== Sys2Proof/WellFormed.lean ====
section
/-! DEFINITION. Which commands can stand at the part's pins: the bounds that an operand's type does not already give. -/

namespace Sys2Proof

/-- An id fits its id kind: at most 0x7FF for STANDARD and 0x1FFFFFFF for EXTENDED (R1, R3). -/
def IdKind.fits (k : IdKind) (id : Word32) : Bool :=
  match k with
  | .standard => decide (id.toNat ≤ 0x7FF)
  | .extended => decide (id.toNat ≤ 0x1FFFFFFF)

/-- A frame carries 0 to 8 data bytes (R1). -/
def Frame.wellFormed (f : Frame) : Bool := decide (f.data.length ≤ 8)

/-- A reply address is a MANAGE entry's, whose reply id fits its id kind (R3). -/
def ReplyAddress.wellFormed (r : ReplyAddress) : Bool := r.kind.fits r.id

/-- A command that can stand at the part: a frame of at most 8 bytes (R1), an upstream record of 64 bytes (R186), a
LOAD whose entry leaves room for its first five bytes in a payload of at most 60 (R186, R187), a service request whose
reply id fits its kind (R3). -/
def Instr.wellFormed : Instr → Bool
  | .frameArrival f => f.wellFormed
  | .linkTransfer u => decide (u.length = 64)
  | .load _ _ _ e => decide (e.length ≤ 55)
  | .serviceSetField r _ _ _ _ => r.wellFormed
  | .serviceReadField r _ _ _ => r.wellFormed
  | .serviceClearFaults r _ => r.wellFormed
  | .readFaults r => r.wellFormed
  | _ => true

end Sys2Proof
end

