-- ==== Sys2Proof/Decode.lean ====
section
/-! DEFINITION. The command that a word spells by the bits of spec/opcode_table.json. The HN9160 is a block: no row of the
table gives bits (its commands are events at pins, frames and records), so no word spells a command. Requests that do
arrive as bytes are read by Machine/Management.lean and Machine/Service.lean. -/

namespace Sys2Proof

/-- No row of the opcode table gives bits, so no word of any width spells a command. -/
def decodeTableWord (_nbits _w : Nat) : Option Instr := none

end Sys2Proof
end

