-- ==== Sys2Proof/Machine/State.lean ====
section
/-! DEFINITION. The state of the HN9160 as plain data: the ten tables, then the live state of each block, as the chapters of
spec/ list it, the pins, and the queue of waiting commands. Reset values stand at the end. -/

namespace Sys2Proof.Machine

/-! ### Values that several chapters use -/

/-- A countdown paced by the ms counter: stopped, or the ms left; 0 left means its expiry is due (R146). -/
abbrev Timer := Option Nat

/-- A slot's quality (R17), in the encoding order of R185. -/
inductive Quality where
  | unknown
  | fresh
  | held
  | stale
  | notAvailable
  | error
  deriving DecidableEq, Repr

/-- What every slot holds (R17). -/
structure Slot where
  value : Word32
  quality : Quality
  clamped : Bool
  age : Nat
  deriving DecidableEq, Repr

/-- The states of the part (R151), in that table's order. -/
inductive PartState where
  | unconfigured
  | waking
  | homing
  | run
  | standby
  | sleep
  deriving DecidableEq, Repr

/-- The two crew positions (R118). -/
inductive CrewPosition where
  | driver
  | coDriver
  deriving DecidableEq, Repr

/-- A driver's activity (R120), in the encoding order of R185. -/
inductive Activity where
  | rest
  | available
  | work
  | drive
  | unknown
  deriving DecidableEq, Repr

/-- The sixteen fault classes (R163), in the order of their numbers. -/
inductive FaultClass where
  | timeLost
  | frameShort
  | portSilent
  | speedConflict
  | gaugeHomingFail
  | gaugeStall
  | lampOpen
  | lampShort
  | presentDropped
  | tallyMismatch
  | linkCheck
  | linkOverrun
  | mgmtRefused
  | signalStale
  | chimeFault
  | tachoCode
  deriving DecidableEq, Repr

/-- Which counter a tally names (R137). -/
inductive TallyCounter where
  | continuous
  | daily
  deriving DecidableEq, Repr

/-- The reply statuses of R177 and R187; BUSY stands only as a detail of MGMT_REFUSED. -/
inductive ReplyStatus where
  | ok
  | partialClear
  | badTable
  | badIndex
  | badField
  | notPermitted
  | range
  | order
  | notStationary
  | busy
  deriving DecidableEq, Repr

/-- The detail of a fault occurrence, by class (R163, R188): one byte, or the items of FRAME_SHORT, SPEED_CONFLICT,
TALLY_MISMATCH and TACHO_CODE. -/
inductive FaultDetail where
  | item (value : Byte)
  | frameShort (port : Port) (id : FrameId) (mapIndex : Nat)
  | sum (total : Nat)
  | tally (position : CrewPosition) (counter : TallyCounter) (own s : Nat)
  | tacho (position : CrewPosition) (value : Word32)
  deriving DecidableEq, Repr

/-- The two stamps of an occurrence (R166): monotonic seconds, and UTC when it is valid. -/
structure Stamp where
  mono : Word32
  utc : Option Word32
  deriving DecidableEq, Repr

/-! ### The ten tables (chapter 0, section 5) -/

/-- The ports an intake entry claims (R3). -/
inductive PortSet where
  | a
  | b
  | both
  deriving DecidableEq, Repr

/-- What an intake entry does with a frame (R4). -/
inductive IntakeAction where
  | decode
  | manage
  deriving DecidableEq, Repr

/-- The forward modes (R9). -/
inductive ForwardMode where
  | never
  | always
  | onChange
  deriving DecidableEq, Repr

/-- An Intake Table entry (R3). -/
structure IntakeEntry where
  valid : Bool
  ports : PortSet
  idKind : IdKind
  idValue : Word32
  idMask : Word32
  action : IntakeAction
  mapFirst : Nat
  mapCount : Nat
  forwardMode : ForwardMode
  replyId : Word32
  deriving DecidableEq, Repr

/-- The roundings of a Signal Map entry (R19, R27). -/
inductive Rounding where
  | convergent
  | halfUp
  deriving DecidableEq, Repr

/-- A Signal Map entry (R19): the four selector places, of which the first `gatherCount` are in use (R191). -/
structure MapEntry where
  valid : Bool
  gatherCount : Nat
  selectors : Vector (Fin 8) 4
  bitOffset : Nat
  bitLength : Nat
  signed : Bool
  naCodes : Bool
  factor : BitVec 16
  shift : Nat
  offset : Word32
  rounding : Rounding
  destination : Fin 120
  calibration : Bool
  deriving DecidableEq, Repr

/-- A Slot Config entry (R30). -/
structure SlotConfig where
  min : Word32
  max : Word32
  holdTime : Nat
  staleTime : Nat
  watch : Bool
  deriving DecidableEq, Repr

/-- One breakpoint of a curve (R52). -/
structure CurvePoint where
  x : Word32
  y : Nat
  deriving DecidableEq, Repr

/-- A Curve Table entry (R52): eight places, of which the first `pointCount` are in use. -/
structure Curve where
  valid : Bool
  pointCount : Nat
  points : Vector CurvePoint 8
  deriving DecidableEq, Repr

/-- A gauge's stale policy (R54). -/
inductive StalePolicy where
  | hold
  | park
  deriving DecidableEq, Repr

/-- A Gauge Table entry (R54). -/
structure GaugeEntry where
  valid : Bool
  source : Fin 128
  curve : Fin 12
  damping : Nat
  vmax : Nat
  maxPos : Nat
  park : Nat
  stalePolicy : StalePolicy
  deriving DecidableEq, Repr

/-- A telltale's comparison (R76, R77). -/
inductive TelltaleOp where
  | gt
  | lt
  | eq
  | ne
  | anyBits
  | noBits
  deriving DecidableEq, Repr

/-- A telltale's unusable policy (R78). -/
inductive UnusablePolicy where
  | forceOn
  | forceOff
  | hold
  deriving DecidableEq, Repr

/-- A lamp mode (R89). -/
inductive LampMode where
  | steady
  | slow
  | fast
  deriving DecidableEq, Repr

/-- A telltale's latch (R76). -/
inductive Latch where
  | none
  | untilIgnitionOff
  deriving DecidableEq, Repr

/-- A Telltale Table entry (R76). -/
structure TelltaleEntry where
  valid : Bool
  source : Fin 128
  op : TelltaleOp
  threshold : Word32
  hysteresis : Nat
  unusablePolicy : UnusablePolicy
  onDebounce : Nat
  offDebounce : Nat
  lamp : Option (Fin 32)
  lampMode : LampMode
  latch : Latch
  priority : Nat
  message : Nat
  backup : Nat
  acknowledgeable : Bool
  chime : Option (Fin 8)
  standbyVisible : Bool
  bulbCheck : Bool
  deriving DecidableEq, Repr

/-- A Chime Pattern Table entry (R108); the times are in ms. -/
structure ChimePattern where
  tone : Nat
  onTime : Nat
  offTime : Nat
  repeats : Nat
  priority : Nat
  deriving DecidableEq, Repr

/-- The four input slots of one crew position (R118). -/
structure CrewInputs where
  activity : Option (Fin 120)
  token : Option (Fin 120)
  tallyContinuous : Option (Fin 120)
  tallyDaily : Option (Fin 120)
  deriving DecidableEq, Repr

/-- The Crew Config entry (R118). -/
structure CrewConfig where
  driver : CrewInputs
  coDriver : CrewInputs
  timeSlot : Option (Fin 120)
  contLimit : Nat
  dayLimit : Nat
  breakPartA : Nat
  breakPartB : Nat
  breakFull : Nat
  dailyRest : Nat
  tallyTolerance : Nat
  detachedKeep : Nat
  snapshotInterval : Nat
  silentActivity : Activity
  deriving DecidableEq, Repr

/-- The System Config entry (R160). -/
structure SystemConfig where
  portSilence : Nat
  primarySpeed : Option (Fin 120)
  secondarySpeed : Option (Fin 120)
  conflictEnter : Nat
  conflictLeave : Nat
  ackSlot : Option (Fin 128)
  parkingBrake : Option (Fin 128)
  bulbCheck : Nat
  wakeSettle : Nat
  quietTime : Nat
  deriving DecidableEq, Repr

/-- A class's severity (R164). -/
inductive Severity where
  | severe
  | advisory
  deriving DecidableEq, Repr

/-- A Fault Policy entry (R164). -/
structure FaultPolicy where
  masked : Bool
  severity : Severity
  serviceClearable : Bool
  deriving DecidableEq, Repr

/-- The ten tables the part holds (chapter 0, section 5), kept through every reset but cold start. -/
structure Tables where
  intake : Vector IntakeEntry 96
  map : Vector MapEntry 192
  slotConfig : Vector SlotConfig 120
  curve : Vector Curve 12
  gauge : Vector GaugeEntry 6
  telltale : Vector TelltaleEntry 64
  chime : Vector ChimePattern 8
  crew : CrewConfig
  system : SystemConfig
  policy : Vector FaultPolicy 16
  deriving DecidableEq, Repr

/-! ### The live state of each block -/

/-- One port's silence timer and silence episode (R13). -/
structure Silence where
  timer : Timer
  episode : Bool
  deriving DecidableEq, Repr

/-- The Frame Intake's live state (R10, R13). -/
structure Intake where
  forwardMemory : Vector (Option (List Byte)) 96
  silenceA : Silence
  silenceB : Silence
  deriving DecidableEq, Repr

/-- The Signal Store: 128 slots, and the hold and stale timers of slots 0 to 119 (R17, R32, R33). -/
structure Store where
  slots : Vector Slot 128
  hold : Vector Timer 120
  stale : Vector Timer 120
  deriving DecidableEq, Repr

/-- The arbitration states (R45). -/
inductive ArbitrationState where
  | learning
  | agree
  | conflict
  deriving DecidableEq, Repr

/-- The selections (R47). -/
inductive Selection where
  | primary
  | secondary
  | none
  deriving DecidableEq, Repr

/-- The pair ring: eight places, the write position, the count and the last sum (R42). -/
structure PairRing where
  places : Vector (Word32 × Word32) 8
  position : Fin 8
  count : Nat
  lastSum : Option Nat
  deriving DecidableEq, Repr

/-- Speed Arbitration's live state (chapter 3). -/
structure Speed where
  ring : PairRing
  state : ArbitrationState
  selection : Selection
  tick : Timer
  deriving DecidableEq, Repr

/-- The channel states (R55). -/
inductive ChannelState where
  | unhomed
  | homing
  | tracking
  | parking
  | parked
  | disabled
  deriving DecidableEq, Repr

/-- A channel's motion record (R55). `moved` says that the channel's most recent filter tick since it last entered
TRACKING was a moving tick, which R65 reads. -/
structure Channel where
  state : ChannelState
  target : Nat
  filter : Nat
  position : Nat
  stallCount : Nat
  homingDistance : Nat
  stallCheck : Bool
  moved : Bool
  deriving DecidableEq, Repr

/-- The Gauge Unit's live state: six channels and the shared filter tick (R55, R56). -/
structure Gauges where
  channels : Vector Channel 6
  tick : Timer
  deriving DecidableEq, Repr

/-- The telltale states (R79). -/
inductive TelltaleState where
  | off
  | rising
  | on
  | falling
  | latched
  deriving DecidableEq, Repr

/-- Which presentation a telltale has at the Message Unit (R79). -/
inductive Held where
  | none
  | main
  | backup
  deriving DecidableEq, Repr

/-- A telltale record (R79). -/
structure Telltale where
  state : TelltaleState
  condition : Bool
  debounce : Timer
  acknowledged : Bool
  held : Held
  deriving DecidableEq, Repr

/-- The lamp channel states (R88). -/
inductive LampState where
  | idle
  | lit
  | open
  | shortProtect
  deriving DecidableEq, Repr

/-- The Telltale Unit's live state (chapter 5); the bulb check runs while its timer does. -/
structure Telltales where
  records : Vector Telltale 64
  lamps : Vector LampState 32
  bulbCheck : Timer
  deriving DecidableEq, Repr

/-- A presentation record (R98). -/
structure Presentation where
  telltale : Fin 64
  priority : Nat
  message : Nat
  acknowledgeable : Bool
  deriving DecidableEq, Repr

/-- The acknowledge detector's last-seen indication (R105). -/
inductive LastSeen where
  | none
  | zero
  | nonZero
  deriving DecidableEq, Repr

/-- The status of a chime request (R109). -/
inductive RequestStatus where
  | active
  | spent
  deriving DecidableEq, Repr

/-- A chime request, held at its telltale's index (R109); `remaining` is none when UNLIMITED. -/
structure ChimeRequest where
  pattern : Fin 8
  remaining : Option Nat
  status : RequestStatus
  deriving DecidableEq, Repr

/-- The phases of a burst (R111). -/
inductive ChimePhase where
  | on
  | off
  deriving DecidableEq, Repr

/-- The chime arbiter (R110): the playing telltale, the phase, the ms left in it, and the tone read when the ON phase
started (R108). -/
inductive Arbiter where
  | idle
  | playing (telltale : Fin 64) (phase : ChimePhase) (left : Nat) (tone : Nat)
  deriving DecidableEq, Repr

/-- The chime output's load state (R114). -/
inductive LoadState where
  | normal
  | open
  deriving DecidableEq, Repr

/-- The Message Unit's live state (chapter 6): the stack bottom first, the ring oldest first. -/
structure Messages where
  current : Option Presentation
  stack : List Presentation
  ring : List Presentation
  lastSeen : LastSeen
  requests : Vector (Option ChimeRequest) 64
  arbiter : Arbiter
  load : LoadState
  deriving DecidableEq, Repr

/-- Where a crew record's card stands; a detached record carries its detached-at (R120). -/
inductive CardPlace where
  | attached (position : CrewPosition)
  | detached (since : Word32)
  deriving DecidableEq, Repr

/-- Whether an earlier rest run counts as the first part of a split break (R120). -/
inductive BreakState where
  | none
  | partA
  deriving DecidableEq, Repr

/-- A Crew Record (R120). -/
structure CrewRecord where
  token : Word32
  place : CardPlace
  activity : Activity
  continuous : Nat
  daily : Nat
  run : Nat
  breakState : BreakState
  provisional : Bool
  contSeen : Bool
  daySeen : Bool
  deriving DecidableEq, Repr

/-- The Crew Unit's live state: four places and the snapshot counter (R120, R142). -/
structure Crew where
  places : Vector (Option CrewRecord) 4
  snapshotCounter : Nat
  deriving DecidableEq, Repr

/-- The statuses of the quiet timer (R158). -/
inductive QuietTimer where
  | stopped
  | running (left : Nat)
  | elapsed
  deriving DecidableEq, Repr

/-- The state of Time Base and Ignition Control (chapter 8), with the conditions the Gauge Unit and the Telltale Unit
last reported (R71, R156, R158). -/
structure TimeBase where
  part : PartState
  ms : Word32
  mono : Word32
  sleepMark : Word32
  utc : Word32
  utcValid : Bool
  filteredIgnition : Bool
  ignitionFilter : Bool
  started : Bool
  settle : Timer
  quiet : QuietTimer
  homingDone : Bool
  bulbCheckEnded : Bool
  atRest : Bool
  deriving DecidableEq, Repr

/-- The first fault capture (R167). -/
structure Capture where
  faultClass : FaultClass
  detail : FaultDetail
  stamp : Stamp
  deriving DecidableEq, Repr

/-- The Fault Unit's live state (chapter 9). -/
structure Faults where
  status : Vector Bool 16
  capture : Option Capture
  overflow : Bool
  deriving DecidableEq, Repr

/-- One position of a CREW_SNAPSHOT (R141). -/
structure SnapshotPosition where
  present : Bool
  token : Word32
  activity : Activity
  contLeft : Nat
  dayLeft : Nat
  breakState : BreakState
  provisional : Bool
  deriving DecidableEq, Repr

/-- A record of the egress queue, by kind (R176, R188). -/
inductive EgressRecord where
  | forward (entry : Fin 96) (port : Port) (id : FrameId) (data : List Byte)
  | present (current : Option Presentation) (depth ring : Nat)
  | notice (faultClass : FaultClass) (detail : FaultDetail) (stamp : Stamp) (status : Vector Bool 16) (overflow : Bool)
  | reply (code : Byte) (tag : Word16) (status : ReplyStatus) (data : List Byte)
  | crewSnapshot (mono : Word32) (driver coDriver : SnapshotPosition)
  deriving DecidableEq, Repr

/-- The display link (chapter 10): the egress queue, oldest first, and the 64 bytes that the latest transfer sent
downstream (none before the first transfer). -/
structure Link where
  egress : List EgressRecord
  sent : Option (List Byte)
  deriving DecidableEq, Repr

/-- A reply frame of port B (R181, R184): where it is sent, its data bytes. -/
structure ReplyFrame where
  address : ReplyAddress
  data : List Byte
  deriving DecidableEq, Repr

/-- A place of the port B reply queue: the frame and the ms left to its expiry (R184). -/
structure QueuedReply where
  frame : ReplyFrame
  left : Nat
  deriving DecidableEq, Repr

/-- Port B's transmitter (R184): idle, or sending a frame, which is still the queue's head or has expired meanwhile. -/
inductive PortTransmit where
  | idle
  | sending (frame : ReplyFrame) (atHead : Bool)
  deriving DecidableEq, Repr

/-- The port B reply side of Link and Management (R184). -/
structure PortB where
  queue : List QueuedReply
  transmit : PortTransmit
  deriving DecidableEq, Repr

/-- The whole machine. `keepAlive`, `resetHeld` and `rawIgnition` are the keep-alive supply, the reset input and the raw
ignition level; `choices` is the model's own count of free choices made (assumption log entry 5); `pending` is the queue
of commands that wait, first in first out. -/
structure State where
  keepAlive : Bool
  resetHeld : Bool
  rawIgnition : Bool
  time : TimeBase
  tables : Tables
  intake : Intake
  store : Store
  speed : Speed
  gauges : Gauges
  telltales : Telltales
  messages : Messages
  crew : Crew
  faults : Faults
  link : Link
  portB : PortB
  choices : Nat
  pending : List Instr
  deriving DecidableEq, Repr

/-- The faults a step can stop with: none. No rule of spec/ stops the part; every event that a rule does not let take
effect leaves the state as it is (assumption log entry 2), and every fault the manual names is an occurrence at the
Fault Unit, which stops nothing (R163). Safe: no run ends here. -/
inductive Fault where
  deriving DecidableEq, Repr

/-- The refusals of a step. -/
inductive Refusal where
  /-- Raised by `exec` for a command that has no meaning yet; no arm raises it. Safe. -/
  | notModelled (mnemonic : String)
  deriving DecidableEq, Repr

/-! ### Cold start values (R16, R38, R41, R73, R95, R108, R115, R118, R143, R160, R161, R164, R172, R184) -/

/-- An Intake Table entry at cold start (R16). -/
def IntakeEntry.cold : IntakeEntry :=
  { valid := false, ports := .a, idKind := .standard, idValue := 0, idMask := 0, action := .decode, mapFirst := 0,
    mapCount := 0, forwardMode := .never, replyId := 0 }

/-- A Signal Map entry at cold start (R38). -/
def MapEntry.cold : MapEntry :=
  { valid := false, gatherCount := 1, selectors := Vector.replicate 4 0, bitOffset := 0, bitLength := 1, signed := false,
    naCodes := false, factor := 0, shift := 0, offset := 0, rounding := .convergent, destination := 0,
    calibration := false }

/-- A Slot Config entry at cold start (R38). -/
def SlotConfig.cold : SlotConfig :=
  { min := 0x80000000, max := 0x7FFFFFFF, holdTime := 0, staleTime := 0, watch := false }

/-- A Curve Table entry at cold start: point 1 is (1, 0), every other point (0, 0) (R73). -/
def Curve.cold : Curve :=
  { valid := false, pointCount := 2, points := (Vector.replicate 8 ⟨0, 0⟩).set 1 ⟨1, 0⟩ }

/-- A Gauge Table entry at cold start (R73). -/
def GaugeEntry.cold : GaugeEntry :=
  { valid := false, source := 0, curve := 0, damping := 0, vmax := 1, maxPos := 1, park := 0, stalePolicy := .hold }

/-- A Telltale Table entry at cold start (R95). -/
def TelltaleEntry.cold : TelltaleEntry :=
  { valid := false, source := 0, op := .gt, threshold := 0, hysteresis := 0, unusablePolicy := .forceOff,
    onDebounce := 0, offDebounce := 0, lamp := .none, lampMode := .steady, latch := .none, priority := 0, message := 0,
    backup := 0, acknowledgeable := false, chime := .none, standbyVisible := false, bulbCheck := false }

/-- A Chime Pattern Table entry at cold start (R108). -/
def ChimePattern.cold : ChimePattern :=
  { tone := 0, onTime := 100, offTime := 100, repeats := 1, priority := 0 }

/-- A crew position's input slots at cold start (R118). -/
def CrewInputs.cold : CrewInputs :=
  { activity := .none, token := .none, tallyContinuous := .none, tallyDaily := .none }

/-- Crew Config at cold start (R118). -/
def CrewConfig.cold : CrewConfig :=
  { driver := .cold, coDriver := .cold, timeSlot := .none, contLimit := 16200, dayLimit := 32400, breakPartA := 900,
    breakPartB := 1800, breakFull := 2700, dailyRest := 39600, tallyTolerance := 120, detachedKeep := 86400,
    snapshotInterval := 60, silentActivity := .rest }

/-- System Config at cold start (R160). -/
def SystemConfig.cold : SystemConfig :=
  { portSilence := 2000, primarySpeed := .none, secondarySpeed := .none, conflictEnter := 400, conflictLeave := 160,
    ackSlot := .none, parkingBrake := .none, bulbCheck := 3000, wakeSettle := 100, quietTime := 5000 }

/-- The Fault Policy entry of class number `n` at cold start: unmasked; classes 2, 3, 4, 5, 7 and 14 SEVERE; classes 6,
8, 9 and 13 service-clearable (R164). -/
def FaultPolicy.cold (n : Fin 16) : FaultPolicy :=
  { masked := false,
    severity := if n.val ∈ [2, 3, 4, 5, 7, 14] then .severe else .advisory,
    serviceClearable := decide (n.val ∈ [6, 8, 9, 13]) }

/-- The tables at cold start. -/
def Tables.cold : Tables :=
  { intake := Vector.replicate 96 .cold, map := Vector.replicate 192 .cold, slotConfig := Vector.replicate 120 .cold,
    curve := Vector.replicate 12 .cold, gauge := Vector.replicate 6 .cold, telltale := Vector.replicate 64 .cold,
    chime := Vector.replicate 8 .cold, crew := .cold, system := .cold, policy := Vector.ofFn FaultPolicy.cold }

/-- A silence timer stopped, its episode closed (R16). -/
def Silence.cold : Silence := { timer := .none, episode := false }

/-- The Frame Intake at cold start (R16). -/
def Intake.cold : Intake :=
  { forwardMemory := Vector.replicate 96 .none, silenceA := .cold, silenceB := .cold }

/-- A slot never written: value 0, UNKNOWN, age 65535 (R38). -/
def Slot.cold : Slot := { value := 0, quality := .unknown, clamped := false, age := 65535 }

/-- A slot just written with value 0 and quality `q`, as a derived slot's owner writes it at cold start (R37). -/
def Slot.writtenZero (q : Quality) : Slot := { value := 0, quality := q, clamped := false, age := 0 }

/-- The Signal Store at cold start once the owners have written slots 120 to 126: ROAD_SPEED NOT_AVAILABLE and
SPEED_SOURCE 2 (R51), slots 122 to 125 NOT_AVAILABLE (R143), IGNITION 0 (R161). Slot 127 is written after TIME_LOST. -/
def Store.cold : Store :=
  { slots := (((((((Vector.replicate 128 Slot.cold).set 120 (.writtenZero .notAvailable)).set 121
      { Slot.writtenZero .fresh with value := 2 }).set 122 (.writtenZero .notAvailable)).set 123
      (.writtenZero .notAvailable)).set 124 (.writtenZero .notAvailable)).set 125
      (.writtenZero .notAvailable)).set 126 (.writtenZero .fresh),
    hold := Vector.replicate 120 .none, stale := Vector.replicate 120 .none }

/-- An empty pair ring (R42). -/
def PairRing.cold : PairRing :=
  { places := Vector.replicate 8 (0, 0), position := 0, count := 0, lastSum := .none }

/-- Speed Arbitration at cold start (R51). -/
def Speed.cold : Speed := { ring := .cold, state := .learning, selection := .none, tick := .none }

/-- A channel at cold start (R73). -/
def Channel.cold : Channel :=
  { state := .unhomed, target := 0, filter := 0, position := 0, stallCount := 0, homingDistance := 0,
    stallCheck := false, moved := false }

/-- The Gauge Unit at cold start (R73). -/
def Gauges.cold : Gauges := { channels := Vector.replicate 6 .cold, tick := .none }

/-- A telltale that is OFF and holds nothing (R95). -/
def Telltale.cold : Telltale :=
  { state := .off, condition := false, debounce := .none, acknowledged := false, held := .none }

/-- The Telltale Unit at cold start (R95). -/
def Telltales.cold : Telltales :=
  { records := Vector.replicate 64 .cold, lamps := Vector.replicate 32 .idle, bulbCheck := .none }

/-- The Message Unit at cold start (R115). -/
def Messages.cold : Messages :=
  { current := .none, stack := [], ring := [], lastSeen := .none, requests := Vector.replicate 64 .none,
    arbiter := .idle, load := .normal }

/-- The Crew Unit at cold start (R143). -/
def Crew.cold : Crew := { places := Vector.replicate 4 .none, snapshotCounter := 0 }

/-- Time Base and Ignition Control at cold start; the filter interval runs if the raw level is on (R161). -/
def TimeBase.cold (rawIgnition : Bool) : TimeBase :=
  { part := .unconfigured, ms := 0, mono := 0, sleepMark := 0, utc := 0, utcValid := false, filteredIgnition := false,
    ignitionFilter := rawIgnition, started := false, settle := .none, quiet := .stopped, homingDone := false,
    bulbCheckEnded := false, atRest := false }

/-- The Fault Unit's empty values (R172). -/
def Faults.cold : Faults := { status := Vector.replicate 16 false, capture := .none, overflow := false }

/-- The display link with an empty queue (R184). -/
def Link.cold : Link := { egress := [], sent := .none }

/-- Port B with an empty reply queue (R184). -/
def PortB.cold : PortB := { queue := [], transmit := .idle }

/-- Every block at its cold start values, before TIME_LOST is raised (R161, R172), keeping what stands outside the part:
the reset input, the raw ignition level, the choice count and the waiting commands. -/
def State.cold (keepAlive resetHeld rawIgnition : Bool) (choices : Nat) (pending : List Instr) : State :=
  { keepAlive := keepAlive, resetHeld := resetHeld, rawIgnition := rawIgnition, time := .cold rawIgnition,
    tables := .cold, intake := .cold, store := .cold, speed := .cold, gauges := .cold, telltales := .cold,
    messages := .cold, crew := .cold, faults := .cold, link := .cold, portB := .cold, choices := choices,
    pending := pending }

/-- The stamp of the cold start's TIME_LOST: monotonic 0, UTC not valid (R161, R172). -/
def Stamp.cold : Stamp := { mono := 0, utc := .none }

/-- The fault status at the end of cold start: TIME_LOST alone (R172). -/
def Faults.statusTimeLost : Vector Bool 16 := (Vector.replicate 16 false).set 0 true

/-- The machine right after reset: a cold start with the keep-alive supply and no reset input, ignition off, taken to its
end, TIME_LOST included. TIME_LOST is set and captured with detail 0, its NOTICE waits in the egress queue, and slot 127 is
written 0 (R161, R172). No command waits. -/
def State.reset : State :=
  { State.cold true false false 0 [] with
    store := { Store.cold with slots := Store.cold.slots.set 127 (.writtenZero .fresh) },
    faults := { status := Faults.statusTimeLost, capture := some ⟨.timeLost, .item 0, .cold⟩, overflow := false },
    link := { egress := [.notice .timeLost (.item 0) .cold Faults.statusTimeLost false], sent := .none } }

end Sys2Proof.Machine
end

