-- ==== Sys2Proof/Machine/Flags.lean ====
section
/-! DEFINITION. The indications that the manual computes from state: usability, which states of the part allow what, active
telltales, lamp demand, governing telltale, flash phases, READY, the two gauge conditions, the SEVERE count. Each is
computed where it is read, so it can never disagree with the state it is computed from. -/

namespace Sys2Proof.Machine

/-- A slot is usable when its quality is FRESH or HELD (R17). -/
def Slot.usable (x : Slot) : Bool := x.quality == .fresh || x.quality == .held

/-- The part takes events of an awake state: keep-alive is present, the reset input is released and the state is not
SLEEP (R151, R161, R162). -/
def State.awake (s : State) : Bool := s.keepAlive && !s.resetHeld && !(s.time.part == .sleep)

/-- The states in which a monotonic advance is an accounting tick (R125, R151). -/
def PartState.accounts : PartState → Bool
  | .waking | .homing | .run | .standby => true
  | .unconfigured | .sleep => false

/-- HOMING or RUN: the states in which forwarding is decided and every valid telltale is active (R9, R80). -/
def PartState.driving : PartState → Bool
  | .homing | .run => true
  | .unconfigured | .waking | .standby | .sleep => false

/-- The slot of the Signal Store with a decoded slot's number (R17). -/
def decodedSlot (k : Fin 120) : Fin 128 := ⟨k.val, by omega⟩

/-- A slot as it stands. -/
def State.slot (s : State) (k : Fin 128) : Slot := s.store.slots[k]

/-- A source slot named by a speed or crew field is usable; NONE is unusable (R41, R122). -/
def State.namedUsable (s : State) (k : Option (Fin 120)) : Bool :=
  match k with
  | none => false
  | some k => (s.slot (decodedSlot k)).usable

/-! ### Telltales and lamps -/

/-- A telltale is active in a state of the part (R80). -/
def activeIn (part : PartState) (e : TelltaleEntry) : Bool :=
  e.valid && (part.driving || (part == .standby && e.standbyVisible))

/-- A telltale is active (R80). -/
def State.telltaleActive (s : State) (i : Fin 64) : Bool := activeIn s.time.part s.tables.telltale[i]

/-- ON, FALLING or LATCHED: the warning is shown (R79, R88). -/
def TelltaleState.shown : TelltaleState → Bool
  | .on | .falling | .latched => true
  | .off | .rising => false

/-- A valid entry names the lamp channel (R88). -/
def State.namesLamp (s : State) (i : Fin 64) (ch : Fin 32) : Bool :=
  (s.tables.telltale[i]).valid && (s.tables.telltale[i]).lamp == some ch

/-- A telltale that names the channel is ON, FALLING or LATCHED (R88). -/
def State.lampShownBy (s : State) (i : Fin 64) (ch : Fin 32) : Bool :=
  s.namesLamp i ch && (s.telltales.records[i]).state.shown

/-- The running bulb check demands the channel (R88, R93). -/
def State.bulbDemands (s : State) (ch : Fin 32) : Bool :=
  s.telltales.bulbCheck.isSome &&
    (List.finRange 64).any fun i => s.namesLamp i ch && (s.tables.telltale[i]).bulbCheck

/-- The channel is demanded (R88). -/
def State.lampDemanded (s : State) (ch : Fin 32) : Bool :=
  s.bulbDemands ch || (List.finRange 64).any fun i => s.lampShownBy i ch

/-- The channel is driven: demanded and not SHORT_PROTECT (R88), and not during a reset hold, when lamp outputs are left
undriven (R162), nor in SLEEP (R159). -/
def State.lampDriven (s : State) (ch : Fin 32) : Bool :=
  s.awake && s.lampDemanded ch && !(s.telltales.lamps[ch] == .shortProtect)

/-- The telltale that governs the channel: of those shown, the highest priority, then the lowest index (R89). -/
def State.governing (s : State) (ch : Fin 32) : Option (Fin 64) :=
  (List.finRange 64).foldl
    (fun best i =>
      if s.lampShownBy i ch then
        match best with
        | none => some i
        | some b => if (s.tables.telltale[b]).priority < (s.tables.telltale[i]).priority then some i else some b
      else best)
    none

/-- The mode a demanded channel is driven in: STEADY for the bulb check, else the governing telltale's (R89). -/
def State.lampMode (s : State) (ch : Fin 32) : LampMode :=
  if s.bulbDemands ch then .steady
  else match s.governing ch with
    | none => .steady
    | some i => (s.tables.telltale[i]).lampMode

/-- The lit phase of a mode at a value of the ms counter (R89). -/
def LampMode.lit (m : LampMode) (ms : Word32) : Bool :=
  match m with
  | .steady => true
  | .slow => decide (ms.toNat % 1000 ≤ 499)
  | .fast => decide (ms.toNat % 250 ≤ 124)

/-- The channel's output is switched on: driven and in the lit phase of its mode (R89). DESIGN CHOICE (assumption log entry 36):
R89 lets a change of governing telltale change the mode from the next phase comparison, and gives that comparison no moment; here
the output follows the new mode at once. -/
def State.lampOutput (s : State) (ch : Fin 32) : Bool := s.lampDriven ch && (s.lampMode ch).lit s.time.ms

/-! ### Chime, gauges, link, faults -/

/-- The frequency in Hz of the square wave of a tone: 400 Hz for tone 0, 100 Hz more for each further one (R108). -/
def toneFrequency (tone : Nat) : Nat := 400 + 100 * tone

/-- The chime output: silent, or driven with the square wave of the tone that sounds, given by its frequency in Hz (R108, R111). DESIGN
CHOICE (assumption log entry 38): R162 does not name the chime among the outputs left undriven in a reset hold; here it is silent in
a hold, as in SLEEP. -/
def State.chimeOutput (s : State) : Option Nat :=
  if s.awake then
    match s.messages.arbiter with
    | .playing _ .on _ tone => some (toneFrequency tone)
    | .playing _ .off _ _ | .idle => none
  else none

/-- A channel's motor is driven: HOMING, TRACKING or PARKING (R55), and not during a reset hold (R162). -/
def State.motorDriven (s : State) (ch : Fin 6) : Bool :=
  s.awake && match (s.gauges.channels[ch]).state with
    | .homing | .tracking | .parking => true
    | .unhomed | .parked | .disabled => false

/-- Homing done: every channel whose entry is valid is TRACKING or DISABLED (R71). -/
def State.homingDoneNow (s : State) : Bool :=
  (List.finRange 6).all fun ch =>
    !(s.tables.gauge[ch]).valid || (s.gauges.channels[ch]).state == .tracking ||
      (s.gauges.channels[ch]).state == .disabled

/-- At rest: every channel is PARKED or DISABLED (R71). -/
def State.atRestNow (s : State) : Bool :=
  (List.finRange 6).all fun ch =>
    (s.gauges.channels[ch]).state == .parked || (s.gauges.channels[ch]).state == .disabled

/-- The READY line: active while the egress queue holds a record, inactive in SLEEP and during a reset hold (R174). -/
def State.ready (s : State) : Bool := s.awake && !s.link.egress.isEmpty

/-- A class counts in slot 127: its status is set, and it is unmasked and SEVERE (R169). -/
def State.countsSevere (s : State) (c : Fin 16) : Bool :=
  s.faults.status[c] && !(s.tables.policy[c]).masked && (s.tables.policy[c]).severity == .severe

/-- The number that slot 127 is written with (R169). -/
def State.severeCount (s : State) : Nat := (List.finRange 16).countP s.countsSevere

/-- The workshop condition: ROAD_SPEED usable and 0, the parking-brake slot usable and not 0; NONE fails (R182). -/
def State.workshopCondition (s : State) : Bool :=
  (s.slot 120).usable && (s.slot 120).value == 0 &&
    match s.tables.system.parkingBrake with
    | none => false
    | some k => (s.slot k).usable && !((s.slot k).value == 0)

end Sys2Proof.Machine
end

