-- ==== Sys2Proof/Machine/Bytes.lean ====
section
/-! DEFINITION. Byte-order helpers: numbers carried least significant byte first (R185), and the link record's CRC-16 (R175). -/

namespace Sys2Proof.Machine

/-- A number in `w` bytes, least significant byte first (R185). -/
def natBytes : Nat → Nat → List Byte
  | 0, _ => []
  | w + 1, n => BitVec.ofNat 8 n :: natBytes w (n / 256)

/-- The number that bytes carry, least significant byte first (R185). -/
def bytesNat : List Byte → Nat
  | [] => 0
  | b :: bs => b.toNat + 256 * bytesNat bs

/-- The byte at an offset; 0 beyond the end. -/
def byteAt (l : List Byte) (i : Nat) : Byte := l.getD i 0

/-- The number carried in `w` bytes from an offset. -/
def numAt (l : List Byte) (i w : Nat) : Nat := bytesNat ((l.drop i).take w)

/-- A 32-bit number in four bytes. -/
def wordBytes (x : Word32) : List Byte := natBytes 4 x.toNat

/-- The 32-bit number in the four bytes from an offset. -/
def wordAt (l : List Byte) (i : Nat) : Word32 := BitVec.ofNat 32 (numAt l i 4)

/-- A flag's byte: 0 for false, 1 for true (R185). -/
def flagByte (b : Bool) : Byte := if b then 1 else 0

/-- The flag that a byte carries; none for a byte other than 0 or 1 (R185). -/
def byteFlag (b : Byte) : Option Bool :=
  if b = 0 then some false else if b = 1 then some true else none

/-- An enumeration value's code: its position in the list of the values, from 0 (R185). -/
def enumByte {α : Type} [DecidableEq α] (values : List α) (x : α) : Byte := BitVec.ofNat 8 (values.idxOf x)

/-- The enumeration value of a code; none for a code with no value (R185). -/
def byteEnum {α : Type} (values : List α) (b : Byte) : Option α := values[b.toNat]?

/-- A 1-byte slot, lamp channel or chime pattern field: 0xFF for NONE (R185). -/
def noneByte {n : Nat} (k : Option (Fin n)) : Byte :=
  match k with
  | none => 0xFF
  | some i => BitVec.ofNat 8 i.val

/-- The index below `n` that a byte carries; none outside the range. -/
def byteIndex (n : Nat) (b : Byte) : Option (Fin n) :=
  if h : b.toNat < n then some ⟨b.toNat, h⟩ else none

/-- The index or NONE that a 1-byte field carries: 0xFF for NONE (R185); none outside the range. -/
def byteNone (n : Nat) (b : Byte) : Option (Option (Fin n)) :=
  if b = 0xFF then some none else (byteIndex n b).map some

/-- The set of true places as a number, bit n for place n: R187 gives it for class sets. For the telltale sets of R189 it is the
model's choice (DESIGN CHOICE, assumption log entry 39). -/
def setNat {n : Nat} (f : Fin n → Bool) : Nat :=
  (List.finRange n).foldl (fun acc i => if f i then acc + 2 ^ i.val else acc) 0

/-- One step of the CRC-16 with polynomial 0x1021, not reflected (R175). -/
def crcBit (c : Word16) : Word16 := if c.msb then (c <<< 1) ^^^ 0x1021 else c <<< 1

/-- The CRC-16 taken over one more byte (R175). -/
def crcByte (c : Word16) (b : Byte) : Word16 :=
  (List.range 8).foldl (fun c _ => crcBit c) (c ^^^ (b.setWidth 16 <<< 8))

/-- The check of a link record's bytes: CRC-16, polynomial 0x1021, initial value 0xFFFF, no reflection, no final
inversion (R175). -/
def crc16 (l : List Byte) : Word16 := l.foldl crcByte 0xFFFF

/-- A 64-byte link record: kind, payload length, payload, zeros up to byte 61, and the check with its high byte first
(R175, R186). -/
def linkRecord (kind : Byte) (payload : List Byte) : List Byte :=
  let body := kind :: BitVec.ofNat 8 payload.length :: (payload ++ List.replicate (60 - payload.length) 0)
  let check := crc16 body
  body ++ [(check >>> 8).setWidth 8, check.setWidth 8]

end Sys2Proof.Machine
end

