-- ==== Sys2Proof/Machine/Constraints.lean ====
section
/-! DEFINITION. The constraints that every held table entry satisfies, table by table (R3, R4, R19, R30, R52, R54, R76,
R108, R118, R160, R164). Ranges that a field's type gives (a slot number, an enumeration) are not repeated here. -/

namespace Sys2Proof.Machine

/-- The constraints of an intake entry (R3) and those its action adds (R4). -/
def IntakeEntry.ok (e : IntakeEntry) : Bool :=
  e.idKind.fits e.idValue && e.idKind.fits e.idMask && e.idKind.fits e.replyId &&
  decide (e.mapFirst ≤ 191) && decide (e.mapCount ≤ 16) && decide (e.mapFirst + e.mapCount ≤ 192) &&
  (e.action == .decode || (e.ports == .b && e.mapCount == 0 && e.forwardMode == .never))

/-- The constraints of a Signal Map entry (R19). -/
def MapEntry.ok (e : MapEntry) : Bool :=
  decide (1 ≤ e.gatherCount) && decide (e.gatherCount ≤ 4) && decide (e.bitOffset ≤ 31) &&
  decide (1 ≤ e.bitLength) && decide (e.bitLength ≤ 32) && decide (e.bitOffset + e.bitLength ≤ 8 * e.gatherCount) &&
  (!e.naCodes || decide (2 ≤ e.bitLength)) && decide (e.shift ≤ 15)

/-- The constraints of a Slot Config entry (R30). -/
def SlotConfig.ok (e : SlotConfig) : Bool :=
  decide (e.min.toInt ≤ e.max.toInt) && decide (e.holdTime ≤ 65535) && decide (e.staleTime ≤ 65535) &&
  (e.staleTime == 0 || decide (e.holdTime ≤ e.staleTime))

/-- The range check of a curve entry, over all eight places (R52). -/
def Curve.inRange (c : Curve) : Bool :=
  decide (2 ≤ c.pointCount) && decide (c.pointCount ≤ 8) && (List.finRange 8).all fun i => decide (c.points[i].y ≤ 4095)

/-- The order check of a curve entry: x strictly increasing over the points in use (R52). -/
def Curve.inOrder (c : Curve) : Bool :=
  (List.finRange 7).all fun i =>
    !decide (i.val + 1 < c.pointCount) || decide ((c.points[i.val]).x.toInt < (c.points[i.val + 1]).x.toInt)

/-- The constraints of a gauge entry (R54). -/
def GaugeEntry.ok (e : GaugeEntry) : Bool :=
  decide (e.damping ≤ 7) && decide (1 ≤ e.vmax) && decide (e.vmax ≤ 255) && decide (1 ≤ e.maxPos) &&
  decide (e.maxPos ≤ 4095) && decide (e.park ≤ e.maxPos)

/-- The constraints of a telltale entry (R76). -/
def TelltaleEntry.ok (e : TelltaleEntry) : Bool :=
  decide (e.hysteresis ≤ 65535) && decide (e.onDebounce ≤ 65535) && decide (e.offDebounce ≤ 65535) &&
  decide (e.priority ≤ 7) && decide (e.message ≤ 65535) && decide (e.backup ≤ 65535)

/-- The constraints of a chime pattern (R108). -/
def ChimePattern.ok (e : ChimePattern) : Bool :=
  decide (e.tone ≤ 15) && decide (10 ≤ e.onTime) && decide (e.onTime ≤ 2550) && e.onTime % 10 == 0 &&
  decide (10 ≤ e.offTime) && decide (e.offTime ≤ 2550) && e.offTime % 10 == 0 && decide (e.repeats ≤ 255) &&
  decide (e.priority ≤ 7)

/-- A slot field that is NONE, or names a slot that none of the other slot fields names (R118). -/
def slotApart (k : Option (Fin 120)) (others : List (Option (Fin 120))) : Bool := k == none || !others.contains k

/-- The constraints of Crew Config (R118). -/
def CrewConfig.ok (e : CrewConfig) : Bool :=
  let d := e.driver
  let c := e.coDriver
  let shared := [d.activity, d.tallyContinuous, d.tallyDaily, c.activity, c.tallyContinuous, c.tallyDaily, e.timeSlot]
  decide (60 ≤ e.contLimit) && decide (e.contLimit ≤ e.dayLimit) && decide (60 ≤ e.dayLimit) &&
  decide (e.dayLimit ≤ 86400) && decide (1 ≤ e.breakPartA) && decide (e.breakPartA < e.breakPartB) &&
  decide (e.breakPartB < e.breakFull) && decide (e.breakFull ≤ e.dailyRest) && decide (e.dailyRest ≤ 86400) &&
  decide (e.tallyTolerance ≤ 3600) && decide (e.detachedKeep ≤ 2592000) && decide (e.snapshotInterval ≤ 3600) &&
  !(e.silentActivity == .drive) && slotApart d.token (c.token :: shared) && slotApart c.token (d.token :: shared)

/-- The constraints of System Config (R41, R160). -/
def SystemConfig.ok (e : SystemConfig) : Bool :=
  decide (e.portSilence ≤ 65535) && (e.primarySpeed == none || !(e.primarySpeed == e.secondarySpeed)) &&
  decide (1 ≤ e.conflictEnter) && decide (e.conflictEnter ≤ 4294967295) && decide (e.conflictLeave < e.conflictEnter) &&
  decide (e.bulbCheck ≤ 65535) && decide (e.wakeSettle ≤ 1000) && decide (e.quietTime ≤ 65535)

/-- Every entry of every table satisfies its constraints (R3, R19, R30, R52, R54, R76, R108, R118, R160). -/
abbrev Tables.ok (t : Tables) : Prop :=
  (∀ i : Fin 96, (t.intake[i]).ok = true) ∧ (∀ i : Fin 192, (t.map[i]).ok = true) ∧
  (∀ i : Fin 120, (t.slotConfig[i]).ok = true) ∧
  (∀ i : Fin 12, (t.curve[i]).inRange = true ∧ (t.curve[i]).inOrder = true) ∧ (∀ i : Fin 6, (t.gauge[i]).ok = true) ∧
  (∀ i : Fin 64, (t.telltale[i]).ok = true) ∧ (∀ i : Fin 8, (t.chime[i]).ok = true) ∧ t.crew.ok = true ∧
  t.system.ok = true

end Sys2Proof.Machine
end

