-- ==== Sys2Proof/Machine/Formats.lean ====
section
/-! DEFINITION. The byte layouts of chapter 11: enumeration codes (R185), table entries and their fields (R191), and the
payloads of the downstream records (R186, R188). -/

namespace Sys2Proof.Machine

/-! ### Enumeration codes: positions in the lists in which the manual tables the values (R185) -/

/-- The ports (R1). -/
def portCodes : List Port := [.a, .b]
/-- The id kinds (R1, R3). -/
def idKindCodes : List IdKind := [.standard, .extended]
/-- The port sets (R3, R185). -/
def portSetCodes : List PortSet := [.a, .b, .both]
/-- The actions (R3). -/
def actionCodes : List IntakeAction := [.decode, .manage]
/-- The forward modes (R3). -/
def forwardModeCodes : List ForwardMode := [.never, .always, .onChange]
/-- The roundings (R19). -/
def roundingCodes : List Rounding := [.convergent, .halfUp]
/-- The stale policies (R54). -/
def stalePolicyCodes : List StalePolicy := [.hold, .park]
/-- The comparisons (R76). -/
def opCodes : List TelltaleOp := [.gt, .lt, .eq, .ne, .anyBits, .noBits]
/-- The unusable policies (R76). -/
def unusablePolicyCodes : List UnusablePolicy := [.forceOn, .forceOff, .hold]
/-- The lamp modes (R76). -/
def lampModeCodes : List LampMode := [.steady, .slow, .fast]
/-- The latches (R76). -/
def latchCodes : List Latch := [.none, .untilIgnitionOff]
/-- The activities, as R185 encodes them wherever they appear. -/
def activityCodes : List Activity := [.rest, .available, .work, .drive, .unknown]
/-- The severities (R164). -/
def severityCodes : List Severity := [.severe, .advisory]
/-- The qualities (R17, R185). -/
def qualityCodes : List Quality := [.unknown, .fresh, .held, .stale, .notAvailable, .error]
/-- The channel states (R55). -/
def channelStateCodes : List ChannelState := [.unhomed, .homing, .tracking, .parking, .parked, .disabled]
/-- The telltale states (R79). -/
def telltaleStateCodes : List TelltaleState := [.off, .rising, .on, .falling, .latched]
/-- What a telltale holds at the Message Unit (R79). -/
def heldCodes : List Held := [.none, .main, .backup]
/-- The lamp channel states (R88). -/
def lampStateCodes : List LampState := [.idle, .lit, .open, .shortProtect]
/-- The crew positions (R118); DETACHED follows them in a crew place (R120). -/
def crewPositionCodes : List CrewPosition := [.driver, .coDriver]
/-- The break states (R120). -/
def breakStateCodes : List BreakState := [.none, .partA]
/-- The tally counters (R163). -/
def tallyCounterCodes : List TallyCounter := [.continuous, .daily]
/-- The arbitration states (R45). -/
def arbitrationCodes : List ArbitrationState := [.learning, .agree, .conflict]
/-- The selections, as SPEED_SOURCE numbers them (R48). -/
def selectionCodes : List Selection := [.primary, .secondary, .none]
/-- The part states, in the order of R151's table (DEDUCED, assumption log entry 12). -/
def partStateCodes : List PartState := [.unconfigured, .waking, .homing, .run, .standby, .sleep]
/-- The fault classes by number (R163). -/
def faultClassCodes : List FaultClass :=
  [.timeLost, .frameShort, .portSilent, .speedConflict, .gaugeHomingFail, .gaugeStall, .lampOpen, .lampShort,
    .presentDropped, .tallyMismatch, .linkCheck, .linkOverrun, .mgmtRefused, .signalStale, .chimeFault, .tachoCode]
/-- The reply statuses, and BUSY, by code (R187). -/
def replyStatusCodes : List ReplyStatus :=
  [.ok, .partialClear, .badTable, .badIndex, .badField, .notPermitted, .range, .order, .notStationary, .busy]

/-- A fault class's number (R163). -/
def FaultClass.number : FaultClass → Fin 16
  | .timeLost => 0 | .frameShort => 1 | .portSilent => 2 | .speedConflict => 3
  | .gaugeHomingFail => 4 | .gaugeStall => 5 | .lampOpen => 6 | .lampShort => 7
  | .presentDropped => 8 | .tallyMismatch => 9 | .linkCheck => 10 | .linkOverrun => 11
  | .mgmtRefused => 12 | .signalStale => 13 | .chimeFault => 14 | .tachoCode => 15

/-! ### Table entries (R191) -/

/-- An intake entry's bytes (R191). -/
def IntakeEntry.bytes (e : IntakeEntry) : List Byte :=
  [flagByte e.valid, enumByte portSetCodes e.ports, enumByte idKindCodes e.idKind] ++ wordBytes e.idValue ++
  wordBytes e.idMask ++ [enumByte actionCodes e.action, BitVec.ofNat 8 e.mapFirst, BitVec.ofNat 8 e.mapCount,
    enumByte forwardModeCodes e.forwardMode] ++ wordBytes e.replyId

/-- The intake entry that bytes carry, each field within its encoding (R185, R191). -/
def IntakeEntry.ofBytes (l : List Byte) : Option IntakeEntry := do
  let valid ← byteFlag (byteAt l 0)
  let ports ← byteEnum portSetCodes (byteAt l 1)
  let idKind ← byteEnum idKindCodes (byteAt l 2)
  let action ← byteEnum actionCodes (byteAt l 11)
  let forwardMode ← byteEnum forwardModeCodes (byteAt l 14)
  return { valid, ports, idKind, idValue := wordAt l 3, idMask := wordAt l 7, action,
           mapFirst := (byteAt l 12).toNat, mapCount := (byteAt l 13).toNat, forwardMode, replyId := wordAt l 15 }

/-- A Signal Map entry's bytes (R191). -/
def MapEntry.bytes (e : MapEntry) : List Byte :=
  [flagByte e.valid, BitVec.ofNat 8 e.gatherCount, BitVec.ofNat 8 (e.selectors[0]).val,
    BitVec.ofNat 8 (e.selectors[1]).val, BitVec.ofNat 8 (e.selectors[2]).val, BitVec.ofNat 8 (e.selectors[3]).val,
    BitVec.ofNat 8 e.bitOffset, BitVec.ofNat 8 e.bitLength, flagByte e.signed, flagByte e.naCodes] ++
  natBytes 2 e.factor.toNat ++ [BitVec.ofNat 8 e.shift] ++ wordBytes e.offset ++
  [enumByte roundingCodes e.rounding, BitVec.ofNat 8 e.destination.val, flagByte e.calibration]

/-- The Signal Map entry that bytes carry: selectors 0..7 in all four places (R191), a destination of 0..119 (R19). -/
def MapEntry.ofBytes (l : List Byte) : Option MapEntry := do
  let valid ← byteFlag (byteAt l 0)
  let s0 ← byteIndex 8 (byteAt l 2)
  let s1 ← byteIndex 8 (byteAt l 3)
  let s2 ← byteIndex 8 (byteAt l 4)
  let s3 ← byteIndex 8 (byteAt l 5)
  let signed ← byteFlag (byteAt l 8)
  let naCodes ← byteFlag (byteAt l 9)
  let rounding ← byteEnum roundingCodes (byteAt l 17)
  let destination ← byteIndex 120 (byteAt l 18)
  let calibration ← byteFlag (byteAt l 19)
  return { valid, gatherCount := (byteAt l 1).toNat, selectors := #v[s0, s1, s2, s3], bitOffset := (byteAt l 6).toNat,
           bitLength := (byteAt l 7).toNat, signed, naCodes, factor := BitVec.ofNat 16 (numAt l 10 2),
           shift := (byteAt l 12).toNat, offset := wordAt l 13, rounding, destination, calibration }

/-- A Slot Config entry's bytes (R191). -/
def SlotConfig.bytes (e : SlotConfig) : List Byte :=
  wordBytes e.min ++ wordBytes e.max ++ natBytes 2 e.holdTime ++ natBytes 2 e.staleTime ++ [flagByte e.watch]

/-- The Slot Config entry that bytes carry (R191). -/
def SlotConfig.ofBytes (l : List Byte) : Option SlotConfig := do
  let watch ← byteFlag (byteAt l 12)
  return { min := wordAt l 0, max := wordAt l 4, holdTime := numAt l 8 2, staleTime := numAt l 10 2, watch }

/-- One breakpoint's bytes (R191). -/
def CurvePoint.bytes (p : CurvePoint) : List Byte := wordBytes p.x ++ natBytes 2 p.y

/-- The breakpoint in the six bytes from an offset (R191). -/
def CurvePoint.ofBytes (l : List Byte) (i : Nat) : CurvePoint := { x := wordAt l i, y := numAt l (i + 4) 2 }

/-- A curve entry's bytes, all eight places (R191). -/
def Curve.bytes (c : Curve) : List Byte :=
  [flagByte c.valid, BitVec.ofNat 8 c.pointCount] ++ ((List.finRange 8).map fun i => (c.points[i]).bytes).flatten

/-- The curve entry that bytes carry (R191). -/
def Curve.ofBytes (l : List Byte) : Option Curve := do
  let valid ← byteFlag (byteAt l 0)
  return { valid, pointCount := (byteAt l 1).toNat,
           points := Vector.ofFn fun i : Fin 8 => CurvePoint.ofBytes l (2 + 6 * i.val) }

/-- A gauge entry's bytes (R191). -/
def GaugeEntry.bytes (e : GaugeEntry) : List Byte :=
  [flagByte e.valid, BitVec.ofNat 8 e.source.val, BitVec.ofNat 8 e.curve.val, BitVec.ofNat 8 e.damping,
    BitVec.ofNat 8 e.vmax] ++ natBytes 2 e.maxPos ++ natBytes 2 e.park ++ [enumByte stalePolicyCodes e.stalePolicy]

/-- The gauge entry that bytes carry (R191). -/
def GaugeEntry.ofBytes (l : List Byte) : Option GaugeEntry := do
  let valid ← byteFlag (byteAt l 0)
  let source ← byteIndex 128 (byteAt l 1)
  let curve ← byteIndex 12 (byteAt l 2)
  let stalePolicy ← byteEnum stalePolicyCodes (byteAt l 9)
  return { valid, source, curve, damping := (byteAt l 3).toNat, vmax := (byteAt l 4).toNat, maxPos := numAt l 5 2,
           park := numAt l 7 2, stalePolicy }

/-- A telltale entry's bytes (R191). -/
def TelltaleEntry.bytes (e : TelltaleEntry) : List Byte :=
  [flagByte e.valid, BitVec.ofNat 8 e.source.val, enumByte opCodes e.op] ++ wordBytes e.threshold ++
  natBytes 2 e.hysteresis ++ [enumByte unusablePolicyCodes e.unusablePolicy] ++ natBytes 2 e.onDebounce ++
  natBytes 2 e.offDebounce ++ [noneByte e.lamp, enumByte lampModeCodes e.lampMode, enumByte latchCodes e.latch,
    BitVec.ofNat 8 e.priority] ++ natBytes 2 e.message ++ natBytes 2 e.backup ++
  [flagByte e.acknowledgeable, noneByte e.chime, flagByte e.standbyVisible, flagByte e.bulbCheck]

/-- The telltale entry that bytes carry (R191). -/
def TelltaleEntry.ofBytes (l : List Byte) : Option TelltaleEntry := do
  let valid ← byteFlag (byteAt l 0)
  let source ← byteIndex 128 (byteAt l 1)
  let op ← byteEnum opCodes (byteAt l 2)
  let unusablePolicy ← byteEnum unusablePolicyCodes (byteAt l 9)
  let lamp ← byteNone 32 (byteAt l 14)
  let lampMode ← byteEnum lampModeCodes (byteAt l 15)
  let latch ← byteEnum latchCodes (byteAt l 16)
  let acknowledgeable ← byteFlag (byteAt l 22)
  let chime ← byteNone 8 (byteAt l 23)
  let standbyVisible ← byteFlag (byteAt l 24)
  let bulbCheck ← byteFlag (byteAt l 25)
  return { valid, source, op, threshold := wordAt l 3, hysteresis := numAt l 7 2, unusablePolicy,
           onDebounce := numAt l 10 2, offDebounce := numAt l 12 2, lamp, lampMode, latch,
           priority := (byteAt l 17).toNat, message := numAt l 18 2, backup := numAt l 20 2, acknowledgeable, chime,
           standbyVisible, bulbCheck }

/-- A chime pattern's bytes: the times in 10 ms units (R191). -/
def ChimePattern.bytes (e : ChimePattern) : List Byte :=
  [BitVec.ofNat 8 e.tone, BitVec.ofNat 8 (e.onTime / 10), BitVec.ofNat 8 (e.offTime / 10), BitVec.ofNat 8 e.repeats,
    BitVec.ofNat 8 e.priority]

/-- The chime pattern that bytes carry (R191). -/
def ChimePattern.ofBytes (l : List Byte) : Option ChimePattern :=
  some { tone := (byteAt l 0).toNat, onTime := 10 * (byteAt l 1).toNat, offTime := 10 * (byteAt l 2).toNat,
         repeats := (byteAt l 3).toNat, priority := (byteAt l 4).toNat }

/-- One position's four slot fields (R191). -/
def CrewInputs.bytes (e : CrewInputs) : List Byte :=
  [noneByte e.activity, noneByte e.token, noneByte e.tallyContinuous, noneByte e.tallyDaily]

/-- The four slot fields from an offset (R191). -/
def CrewInputs.ofBytes (l : List Byte) (i : Nat) : Option CrewInputs := do
  let activity ← byteNone 120 (byteAt l i)
  let token ← byteNone 120 (byteAt l (i + 1))
  let tallyContinuous ← byteNone 120 (byteAt l (i + 2))
  let tallyDaily ← byteNone 120 (byteAt l (i + 3))
  return { activity, token, tallyContinuous, tallyDaily }

/-- Crew Config's bytes (R191). -/
def CrewConfig.bytes (e : CrewConfig) : List Byte :=
  e.driver.bytes ++ e.coDriver.bytes ++ [noneByte e.timeSlot] ++ natBytes 4 e.contLimit ++ natBytes 4 e.dayLimit ++
  natBytes 4 e.breakPartA ++ natBytes 4 e.breakPartB ++ natBytes 4 e.breakFull ++ natBytes 4 e.dailyRest ++
  natBytes 2 e.tallyTolerance ++ natBytes 4 e.detachedKeep ++ natBytes 2 e.snapshotInterval ++
  [enumByte activityCodes e.silentActivity]

/-- The Crew Config entry that bytes carry (R191). -/
def CrewConfig.ofBytes (l : List Byte) : Option CrewConfig := do
  let driver ← CrewInputs.ofBytes l 0
  let coDriver ← CrewInputs.ofBytes l 4
  let timeSlot ← byteNone 120 (byteAt l 8)
  let silentActivity ← byteEnum activityCodes (byteAt l 41)
  return { driver, coDriver, timeSlot, contLimit := numAt l 9 4, dayLimit := numAt l 13 4, breakPartA := numAt l 17 4,
           breakPartB := numAt l 21 4, breakFull := numAt l 25 4, dailyRest := numAt l 29 4,
           tallyTolerance := numAt l 33 2, detachedKeep := numAt l 35 4, snapshotInterval := numAt l 39 2,
           silentActivity }

/-- System Config's bytes (R191). -/
def SystemConfig.bytes (e : SystemConfig) : List Byte :=
  natBytes 2 e.portSilence ++ [noneByte e.primarySpeed, noneByte e.secondarySpeed] ++ natBytes 4 e.conflictEnter ++
  natBytes 4 e.conflictLeave ++ [noneByte e.ackSlot, noneByte e.parkingBrake] ++ natBytes 2 e.bulbCheck ++
  natBytes 2 e.wakeSettle ++ natBytes 2 e.quietTime

/-- The System Config entry that bytes carry (R191). -/
def SystemConfig.ofBytes (l : List Byte) : Option SystemConfig := do
  let primarySpeed ← byteNone 120 (byteAt l 2)
  let secondarySpeed ← byteNone 120 (byteAt l 3)
  let ackSlot ← byteNone 128 (byteAt l 12)
  let parkingBrake ← byteNone 128 (byteAt l 13)
  return { portSilence := numAt l 0 2, primarySpeed, secondarySpeed, conflictEnter := numAt l 4 4,
           conflictLeave := numAt l 8 4, ackSlot, parkingBrake, bulbCheck := numAt l 14 2, wakeSettle := numAt l 16 2,
           quietTime := numAt l 18 2 }

/-- A Fault Policy entry's bytes (R191). -/
def FaultPolicy.bytes (e : FaultPolicy) : List Byte :=
  [flagByte e.masked, enumByte severityCodes e.severity, flagByte e.serviceClearable]

/-- The Fault Policy entry that bytes carry (R191). -/
def FaultPolicy.ofBytes (l : List Byte) : Option FaultPolicy := do
  let masked ← byteFlag (byteAt l 0)
  let severity ← byteEnum severityCodes (byteAt l 1)
  let serviceClearable ← byteFlag (byteAt l 2)
  return { masked, severity, serviceClearable }

/-! ### Tables and fields (chapter 0 section 5, R191) -/

/-- The tables, in the order of their ids (chapter 0, section 5). -/
inductive TableId where
  | intake
  | map
  | slotConfig
  | curve
  | gauge
  | telltale
  | chime
  | crewConfig
  | systemConfig
  | faultPolicy
  deriving DecidableEq, Repr

/-- The table ids 0 to 9. -/
def tableCodes : List TableId :=
  [.intake, .map, .slotConfig, .curve, .gauge, .telltale, .chime, .crewConfig, .systemConfig, .faultPolicy]

/-- How many entries a table has (chapter 0, section 5). -/
def TableId.size : TableId → Nat
  | .intake => 96 | .map => 192 | .slotConfig => 120 | .curve => 12 | .gauge => 6
  | .telltale => 64 | .chime => 8 | .crewConfig => 1 | .systemConfig => 1 | .faultPolicy => 16

/-- How many bytes an entry of a table takes in LOAD and READ (R191). -/
def TableId.entryLength : TableId → Nat
  | .intake => 19 | .map => 20 | .slotConfig => 13 | .curve => 50 | .gauge => 10
  | .telltale => 26 | .chime => 5 | .crewConfig => 42 | .systemConfig => 20 | .faultPolicy => 3

/-- A field's place in its entry: offset, bytes, and whether its range is signed (R187, R191). -/
structure FieldLayout where
  offset : Nat
  width : Nat
  signed : Bool
  deriving DecidableEq, Repr

/-- The fields of a table in the order of their ids (R191). -/
def TableId.fields : TableId → List FieldLayout
  | .intake => [⟨0, 1, false⟩, ⟨1, 1, false⟩, ⟨2, 1, false⟩, ⟨3, 4, false⟩, ⟨7, 4, false⟩, ⟨11, 1, false⟩,
      ⟨12, 1, false⟩, ⟨13, 1, false⟩, ⟨14, 1, false⟩, ⟨15, 4, false⟩]
  | .map => [⟨0, 1, false⟩, ⟨1, 1, false⟩, ⟨2, 1, false⟩, ⟨3, 1, false⟩, ⟨4, 1, false⟩, ⟨5, 1, false⟩,
      ⟨6, 1, false⟩, ⟨7, 1, false⟩, ⟨8, 1, false⟩, ⟨9, 1, false⟩, ⟨10, 2, true⟩, ⟨12, 1, false⟩, ⟨13, 4, true⟩,
      ⟨17, 1, false⟩, ⟨18, 1, false⟩, ⟨19, 1, false⟩]
  | .slotConfig => [⟨0, 4, true⟩, ⟨4, 4, true⟩, ⟨8, 2, false⟩, ⟨10, 2, false⟩, ⟨12, 1, false⟩]
  | .curve => [⟨0, 1, false⟩, ⟨1, 1, false⟩] ++
      ((List.range 8).map fun i => [⟨2 + 6 * i, 4, true⟩, ⟨6 + 6 * i, 2, false⟩]).flatten
  | .gauge => [⟨0, 1, false⟩, ⟨1, 1, false⟩, ⟨2, 1, false⟩, ⟨3, 1, false⟩, ⟨4, 1, false⟩, ⟨5, 2, false⟩,
      ⟨7, 2, false⟩, ⟨9, 1, false⟩]
  | .telltale => [⟨0, 1, false⟩, ⟨1, 1, false⟩, ⟨2, 1, false⟩, ⟨3, 4, true⟩, ⟨7, 2, false⟩, ⟨9, 1, false⟩,
      ⟨10, 2, false⟩, ⟨12, 2, false⟩, ⟨14, 1, false⟩, ⟨15, 1, false⟩, ⟨16, 1, false⟩, ⟨17, 1, false⟩, ⟨18, 2, false⟩,
      ⟨20, 2, false⟩, ⟨22, 1, false⟩, ⟨23, 1, false⟩, ⟨24, 1, false⟩, ⟨25, 1, false⟩]
  | .chime => [⟨0, 1, false⟩, ⟨1, 1, false⟩, ⟨2, 1, false⟩, ⟨3, 1, false⟩, ⟨4, 1, false⟩]
  | .crewConfig => [⟨0, 1, false⟩, ⟨1, 1, false⟩, ⟨2, 1, false⟩, ⟨3, 1, false⟩, ⟨4, 1, false⟩, ⟨5, 1, false⟩,
      ⟨6, 1, false⟩, ⟨7, 1, false⟩, ⟨8, 1, false⟩, ⟨9, 4, false⟩, ⟨13, 4, false⟩, ⟨17, 4, false⟩, ⟨21, 4, false⟩,
      ⟨25, 4, false⟩, ⟨29, 4, false⟩, ⟨33, 2, false⟩, ⟨35, 4, false⟩, ⟨39, 2, false⟩, ⟨41, 1, false⟩]
  | .systemConfig => [⟨0, 2, false⟩, ⟨2, 1, false⟩, ⟨3, 1, false⟩, ⟨4, 4, false⟩, ⟨8, 4, false⟩, ⟨12, 1, false⟩,
      ⟨13, 1, false⟩, ⟨14, 2, false⟩, ⟨16, 2, false⟩, ⟨18, 2, false⟩]
  | .faultPolicy => [⟨0, 1, false⟩, ⟨1, 1, false⟩, ⟨2, 1, false⟩]

/-- Whether a SET_FIELD value fits a field's width, taken as signed or unsigned (R185, R187). -/
def FieldLayout.fits (f : FieldLayout) (value : Word32) : Bool :=
  if f.signed then decide (-(2 ^ (8 * f.width - 1) : Int) ≤ value.toInt) && decide (value.toInt < 2 ^ (8 * f.width - 1))
  else decide (value.toNat < 2 ^ (8 * f.width))

/-- An entry's bytes with one field replaced by the low bytes of a value (R178). -/
def FieldLayout.splice (f : FieldLayout) (entry : List Byte) (value : Word32) : List Byte :=
  entry.take f.offset ++ natBytes f.width value.toNat ++ entry.drop (f.offset + f.width)

/-- A field of an entry as the 4-byte value of READ_FIELD, sign-extended where its range is signed (R185, R187). -/
def FieldLayout.value (f : FieldLayout) (entry : List Byte) : Word32 :=
  let n := numAt entry f.offset f.width
  if f.signed && decide (2 ^ (8 * f.width - 1) ≤ n) then BitVec.ofInt 32 ((n : Int) - 2 ^ (8 * f.width))
  else BitVec.ofNat 32 n

/-! ### Records (R186, R188, R189, R190) -/

/-- The kinds of a link record (R186). -/
inductive RecordKind where
  | empty
  | mgmtRequest
  | forward
  | present
  | notice
  | reply
  | crewSnapshot
  deriving DecidableEq, Repr

/-- The kind byte (R186). -/
def RecordKind.code : RecordKind → Byte
  | .empty => 0x00 | .mgmtRequest => 0x01 | .forward => 0x81 | .present => 0x82
  | .notice => 0x83 | .reply => 0x84 | .crewSnapshot => 0x85

/-- The kind of a queued record (R176). -/
def EgressRecord.kind : EgressRecord → RecordKind
  | .forward .. => .forward
  | .present .. => .present
  | .notice .. => .notice
  | .reply .. => .reply
  | .crewSnapshot .. => .crewSnapshot

/-- A frame id's kind (R1). -/
def frameIdKind : FrameId → IdKind
  | .standard _ => .standard
  | .extended _ => .extended

/-- A frame id as a number (R1). -/
def frameIdNumber : FrameId → Word32
  | .standard id => id.setWidth 32
  | .extended id => id.setWidth 32

/-- The detail of an occurrence, laid out by class (R188). -/
def FaultDetail.bytes : FaultDetail → List Byte
  | .item v => [v]
  | .frameShort p id m =>
    [enumByte portCodes p, enumByte idKindCodes (frameIdKind id)] ++ wordBytes (frameIdNumber id) ++ [BitVec.ofNat 8 m]
  | .sum n => natBytes 4 n
  | .tally p c own s => [enumByte crewPositionCodes p, enumByte tallyCounterCodes c] ++ natBytes 4 own ++ natBytes 4 s
  | .tacho p v => [enumByte crewPositionCodes p] ++ wordBytes v

/-- A UTC stamp's five bytes: the valid flag and the stamp, 0 when not valid (R188). -/
def utcBytes (u : Option Word32) : List Byte :=
  match u with
  | none => [0, 0, 0, 0, 0]
  | some x => 1 :: wordBytes x

/-- The status set of the sixteen classes in two bytes (R187, R188). -/
def statusBytes (status : Vector Bool 16) : List Byte := natBytes 2 (setNat fun i : Fin 16 => status[i])

/-- Bytes 0 to 4 of a PRESENT payload: telltale index or 0xFF, priority, message code, acknowledgeable (R188). -/
def presentationBytes (p : Option Presentation) : List Byte :=
  match p with
  | none => [0xFF, 0, 0, 0, 0]
  | some p => [BitVec.ofNat 8 p.telltale.val, BitVec.ofNat 8 p.priority] ++ natBytes 2 p.message ++
      [flagByte p.acknowledgeable]

/-- One position's twelve bytes of a CREW_SNAPSHOT (R188). -/
def SnapshotPosition.bytes (p : SnapshotPosition) : List Byte :=
  [flagByte p.present] ++ wordBytes p.token ++ [enumByte activityCodes p.activity] ++ natBytes 2 p.contLeft ++
  natBytes 2 p.dayLeft ++ [enumByte breakStateCodes p.breakState, flagByte p.provisional]

/-- A queued record's payload (R187, R188). -/
def EgressRecord.payload : EgressRecord → List Byte
  | .forward entry port id data =>
    [BitVec.ofNat 8 entry.val, enumByte portCodes port, enumByte idKindCodes (frameIdKind id)] ++ wordBytes (frameIdNumber id) ++
    [BitVec.ofNat 8 data.length] ++ data
  | .present current depth ring => presentationBytes current ++ [BitVec.ofNat 8 depth, BitVec.ofNat 8 ring]
  | .notice c detail stamp status overflow =>
    [BitVec.ofNat 8 c.number.val] ++ wordBytes stamp.mono ++ utcBytes stamp.utc ++ statusBytes status ++
    [flagByte overflow] ++ detail.bytes
  | .reply code tag status data => [code] ++ natBytes 2 tag.toNat ++ [enumByte replyStatusCodes status] ++ data
  | .crewSnapshot mono driver coDriver => wordBytes mono ++ driver.bytes ++ coDriver.bytes

/-- A queued record as the 64 bytes of its transfer (R175, R186). -/
def EgressRecord.bytes (r : EgressRecord) : List Byte := linkRecord r.kind.code r.payload

/-- The EMPTY record that a transfer sends when the queue holds nothing (R173). -/
def emptyRecord : List Byte := linkRecord RecordKind.empty.code []

end Sys2Proof.Machine
end

