-- ==== Sys2Proof/Machine/Ops.lean ====
section
/-! DEFINITION. The named operations that several blocks share: updates of one piece of state, offers to the egress queue
(R176) and fault occurrences (R166 to R168).

An occurrence may write slot 127, and the readers of slot 127 may in turn offer records and raise faults. So the
operations that can raise a fault take a parameter `publish : State → State`, which is "write slot 127 and let its readers
observe it" (R18, R169); Machine/Events.lean closes the circle. -/

namespace Sys2Proof.Machine

/-! ### Updates of one piece of state -/

/-- Write a slot of the Signal Store; the event it makes is the caller's. -/
def State.setSlot (s : State) (k : Fin 128) (x : Slot) : State :=
  { s with store := { s.store with slots := s.store.slots.set k x } }

/-- Set the hold and stale timers of a decoded slot (R32, R33). -/
def State.setSlotTimers (s : State) (k : Fin 120) (hold stale : Timer) : State :=
  { s with store := { s.store with hold := s.store.hold.set k hold, stale := s.store.stale.set k stale } }

/-- Replace a telltale record (R79). -/
def State.setTelltale (s : State) (i : Fin 64) (r : Telltale) : State :=
  { s with telltales := { s.telltales with records := s.telltales.records.set i r } }

/-- Set a lamp channel's state (R88). -/
def State.setLamp (s : State) (ch : Fin 32) (l : LampState) : State :=
  { s with telltales := { s.telltales with lamps := s.telltales.lamps.set ch l } }

/-- Replace a gauge channel's motion record (R55). -/
def State.setChannel (s : State) (ch : Fin 6) (c : Channel) : State :=
  { s with gauges := { s.gauges with channels := s.gauges.channels.set ch c } }

/-- Set a crew place (R120). -/
def State.setPlace (s : State) (p : Fin 4) (r : Option CrewRecord) : State :=
  { s with crew := { s.crew with places := s.crew.places.set p r } }

/-- Replace the egress queue (R176). -/
def State.setEgress (s : State) (q : List EgressRecord) : State := { s with link := { s.link with egress := q } }

/-! ### The egress queue (R176) -/

/-- A FORWARD record. -/
def EgressRecord.isForward (r : EgressRecord) : Bool := r.kind == .forward

/-- The kinds of which the newest record may replace the oldest one queued (R176). -/
def RecordKind.replaces : RecordKind → Bool
  | .present | .crewSnapshot => true
  | .empty | .mgmtRequest | .forward | .notice | .reply => false

/-- The queue after an offer, or none when the record is dropped (R176). -/
def egressAccept (q : List EgressRecord) (r : EgressRecord) : Option (List EgressRecord) :=
  if q.length < Config.egressPlaces ∧ (r.isForward → q.countP EgressRecord.isForward < Config.egressForwardPlaces) then
    some (q ++ [r])
  else if r.kind.replaces ∧ q.any (fun x => x.kind == r.kind) then
    some (q.eraseP (fun x => x.kind == r.kind) ++ [r])
  else none

/-! ### Fault occurrences (R165 to R168) -/

/-- The stamps of an occurrence: the monotonic counter, and UTC when it is valid (R166). -/
def State.stamp (s : State) : Stamp :=
  { mono := s.time.mono, utc := if s.time.utcValid then some s.time.utc else none }

/-- The fault state after steps 1 and 2 of an occurrence: the status set, and, unmasked, the capture filled or the
overflow flag set (R166, R167). -/
def Faults.record (f : Faults) (c : FaultClass) (d : FaultDetail) (stamp : Stamp) (masked : Bool) : Faults :=
  let status := f.status.set c.number true
  if masked then { f with status := status }
  else match f.capture with
    | none => { status := status, capture := some ⟨c, d, stamp⟩, overflow := f.overflow }
    | some _ => { f with status := status, overflow := true }

/-- An occurrence of class `c` (R166), followed by the chain of LINK_OVERRUN occurrences that a dropped NOTICE starts
(R168). `depth` bounds that chain: a second dropped NOTICE of LINK_OVERRUN finds its status set and offers nothing, so
a depth of 2 is never exhausted. -/
def occur (publish : State → State) : Nat → FaultClass → FaultDetail → State → State
  | depth, c, d, s =>
    let wasClear := !s.faults.status[c.number]
    let masked := (s.tables.policy[c.number]).masked
    let s₁ := { s with faults := s.faults.record c d s.stamp masked }
    let notice := EgressRecord.notice c d s.stamp s₁.faults.status s₁.faults.overflow
    let s₂ :=
      if wasClear && !masked then
        match egressAccept s₁.link.egress notice with
        | some q => s₁.setEgress q
        | none =>
          match depth with
          | 0 => s₁
          | n + 1 => occur publish n .linkOverrun (.item RecordKind.notice.code) s₁
      else s₁
    if wasClear then publish s₂ else s₂

/-- Store slot 127: the count of set, unmasked SEVERE classes, FRESH (R169). The event it makes is the caller's (`publish`). -/
def State.storeSevere (s : State) : State :=
  s.setSlot 127 { value := BitVec.ofNat 32 s.severeCount, quality := .fresh, clamped := false, age := 0 }

/-- Raise a fault class with its detail (R163, R166). -/
def raiseWith (publish : State → State) (c : FaultClass) (d : FaultDetail) (s : State) : State :=
  occur publish 2 c d s

/-- Offer a record to the egress queue; a dropped record raises LINK_OVERRUN with its kind as detail (R176). -/
def offerWith (publish : State → State) (r : EgressRecord) (s : State) : State :=
  match egressAccept s.link.egress r with
  | some q => s.setEgress q
  | none => raiseWith publish .linkOverrun (.item r.kind.code) s

end Sys2Proof.Machine
end

