-- ==== Sys2Proof/Machine/CrewRecord.lean ====
section
/-! DEFINITION. The Crew Unit's computations on its records (R124 to R134, R137, R138, R144): activity, accrual, credit, cards,
tallies, remaining time. None of these raises a fault, writes a slot or sends a record. -/

namespace Sys2Proof.Machine

/-- The other position (R130). -/
def CrewPosition.other : CrewPosition → CrewPosition
  | .driver => .coDriver
  | .coDriver => .driver

/-- The input slots of a position (R118). -/
def CrewConfig.inputs (c : CrewConfig) : CrewPosition → CrewInputs
  | .driver => c.driver
  | .coDriver => c.coDriver

/-- The record stands attached at a position (R120). -/
def CrewRecord.attachedAt (r : CrewRecord) (x : CrewPosition) : Bool := r.place == .attached x

/-- The place of the first record that satisfies a test. -/
def Crew.find (c : Crew) (p : CrewRecord → Bool) : Option (Fin 4) :=
  (List.finRange 4).find? fun i =>
    match c.places[i] with
    | none => false
    | some r => p r

/-- The place whose record is attached at a position; at most one is (R121). -/
def Crew.attachedPlace (c : Crew) (x : CrewPosition) : Option (Fin 4) := c.find (·.attachedAt x)

/-- The record attached at a position (R121). -/
def Crew.attached (c : Crew) (x : CrewPosition) : Option CrewRecord :=
  match c.attachedPlace x with
  | none => none
  | some p => c.places[p]

/-- Set a place. -/
def Crew.setPlace (c : Crew) (p : Fin 4) (r : Option CrewRecord) : Crew := { c with places := c.places.set p r }

/-- Update every record. -/
def Crew.mapRecords (c : Crew) (f : CrewRecord → CrewRecord) : Crew :=
  { c with places := Vector.ofFn fun p : Fin 4 => (c.places[p]).map f }

/-- Update the record attached at a position, if any. -/
def Crew.updateAttached (c : Crew) (x : CrewPosition) (f : CrewRecord → CrewRecord) : Crew :=
  match c.attachedPlace x with
  | none => c
  | some p => c.setPlace p ((c.places[p]).map f)

/-! ### Activity (R122, R124) -/

/-- The end of a rest run, evaluated before the run is cleared (R124). -/
def CrewRecord.endRun (cfg : CrewConfig) (r : CrewRecord) : CrewRecord :=
  { r with
    breakState := if cfg.breakPartA ≤ r.run ∧ r.run < cfg.breakFull ∧ r.breakState = .none then .partA else r.breakState,
    run := 0 }

/-- Apply an activity: leaving REST ends the rest run (R124). -/
def CrewRecord.setActivity (cfg : CrewConfig) (a : Activity) (r : CrewRecord) : CrewRecord :=
  if r.activity = .rest ∧ a ≠ .rest then { r.endRun cfg with activity := a } else { r with activity := a }

/-- The activity that a usable activity slot's value gives (R122). -/
def slotActivity (value : Word32) : Activity :=
  if value = 0 then .rest else if value = 1 then .available else if value = 2 then .work
  else if value = 3 then .drive else .unknown

/-- The derived activity of a position, from the slots as they stand (R122). -/
def State.derivedActivity (s : State) (x : CrewPosition) : Activity :=
  let silent := if (s.slot 120).usable ∧ (s.slot 120).value ≠ 0 then Activity.unknown else s.tables.crew.silentActivity
  match (s.tables.crew.inputs x).activity with
  | none => silent
  | some k => if (s.slot (decodedSlot k)).usable then slotActivity (s.slot (decodedSlot k)).value else silent

/-! ### Accrual (R126 to R128) -/

/-- Driving time of one accounting tick (R126). -/
def CrewRecord.accrueDrive (r : CrewRecord) : CrewRecord :=
  if r.daily < Config.crewTop then { r with daily := r.daily + 1, continuous := r.continuous + 1 } else r

/-- A full break or a completed split break (R127, R133). -/
def CrewRecord.takeBreak (r : CrewRecord) : CrewRecord := { r with continuous := 0, breakState := .none }

/-- A daily rest (R127, R133). -/
def CrewRecord.takeDailyRest (r : CrewRecord) : CrewRecord := { r with daily := 0, continuous := 0 }

/-- Rest of one accounting tick: the run rises, and the crossings it has just reached apply in turn (R127). At the top
value the run does not rise, so no threshold is just reached there. -/
def CrewRecord.accrueRest (cfg : CrewConfig) (r : CrewRecord) : CrewRecord :=
  if r.run < Config.word32Top then
    let r := { r with run := r.run + 1 }
    let r := if r.run = cfg.breakFull then r.takeBreak else r
    let r := if r.run = cfg.breakPartB ∧ r.breakState = .partA then r.takeBreak else r
    if r.run = cfg.dailyRest then r.takeDailyRest else r
  else r

/-- One accounting tick of an attached record (R126, R127). -/
def CrewRecord.accrue (cfg : CrewConfig) (r : CrewRecord) : CrewRecord :=
  match r.activity with
  | .drive => r.accrueDrive
  | .rest => r.accrueRest cfg
  | .available | .work | .unknown => r

/-- The age of a detachment, modulo 2^32 (R128, R131). -/
def detachAge (now since : Word32) : Nat := (now - since).toNat

/-- A detached record past DetachedKeep (R128). -/
def CrewRecord.expired (cfg : CrewConfig) (now : Word32) (r : CrewRecord) : Bool :=
  match r.place with
  | .attached _ => false
  | .detached since => decide (cfg.detachedKeep < detachAge now since)

/-- The removal of expired detached records (R128). -/
def Crew.removeExpired (c : Crew) (cfg : CrewConfig) (now : Word32) : Crew :=
  { c with places := Vector.ofFn fun p : Fin 4 =>
      match c.places[p] with
      | none => none
      | some r => if r.expired cfg now then none else some r }

/-! ### Credit (R133) -/

/-- The record becomes provisional, with both seen flags false (R135). -/
def CrewRecord.makeProvisional (r : CrewRecord) : CrewRecord :=
  { r with provisional := true, contSeen := false, daySeen := false }

/-- A rest credit of `g` seconds (R133). -/
def CrewRecord.credit (cfg : CrewConfig) (g : Nat) (r : CrewRecord) : CrewRecord :=
  let r := { r with run := if r.activity = Activity.rest then min (r.run + g) Config.word32Top else g }
  let r := if cfg.breakFull ≤ r.run then r.takeBreak else r
  let r := if cfg.breakPartB ≤ r.run ∧ r.breakState = .partA then r.takeBreak else r
  let r := if cfg.dailyRest ≤ r.run then r.takeDailyRest else r
  CrewRecord.makeProvisional { r with activity := Activity.rest }

/-! ### Cards (R130 to R132) -/

/-- Detach the record attached at a position, if any (R132). -/
def Crew.detach (c : Crew) (x : CrewPosition) (now : Word32) : Crew :=
  c.updateAttached x fun r => { r with place := .detached now }

/-- The record that holds a token (R121). -/
def Crew.holder (c : Crew) (t : Word32) : Option (Fin 4) := c.find (·.token == t)

/-- A record just made (R131). -/
def CrewRecord.fresh (t : Word32) (x : CrewPosition) : CrewRecord :=
  { token := t, place := .attached x, activity := .unknown, continuous := 0, daily := 0, run := 0, breakState := .none,
    provisional := true, contSeen := false, daySeen := false }

/-- The lowest-numbered empty place (R131). -/
def Crew.emptyPlace (c : Crew) : Option (Fin 4) := (List.finRange 4).find? fun p => (c.places[p]).isNone

/-- The age of a place's detached record; none for an empty place or an attached record. -/
def Crew.ageAt (c : Crew) (now : Word32) (p : Fin 4) : Option Nat :=
  match c.places[p] with
  | none => none
  | some r =>
    match r.place with
    | .attached _ => none
    | .detached since => some (detachAge now since)

/-- The place of the detached record with the greatest detach age, the lowest-numbered among equals (R131). -/
def Crew.oldestDetached (c : Crew) (now : Word32) : Option (Fin 4) :=
  ((List.finRange 4).foldl
    (fun best p =>
      match c.ageAt now p with
      | none => best
      | some a =>
        match best with
        | none => some (p, a)
        | some b => if b.2 < a then some (p, a) else some b)
    (none : Option (Fin 4 × Nat))).map Prod.fst

/-- Where a new record is made: the lowest empty place, else in place of the longest detached record (R131). -/
def Crew.newPlace (c : Crew) (now : Word32) : Option (Fin 4) := c.emptyPlace.orElse fun _ => c.oldestDetached now

/-- A known token's record attaches where the update names: from the other position unchanged, from detachment with the
rest credit of its time away (R130, R133). -/
def CrewRecord.comeTo (cfg : CrewConfig) (now : Word32) (x : CrewPosition) (r : CrewRecord) : CrewRecord :=
  match r.place with
  | .attached _ => { r with place := .attached x }
  | .detached since => CrewRecord.credit cfg (detachAge now since) { r with place := .attached x }

/-- A token with no record: its new record is made (R131). A table with two records attached elsewhere, which R121
excludes, would leave no place for one. -/
def Crew.seatNew (c : Crew) (now : Word32) (x : CrewPosition) (t : Word32) : Crew :=
  match c.newPlace now with
  | none => c
  | some p => c.setPlace p (some (.fresh t x))

/-- A token that changes the attachment: the record here detaches, then the token's record attaches (R130, R132). -/
def Crew.seat (c : Crew) (cfg : CrewConfig) (now : Word32) (x : CrewPosition) (t : Word32) : Crew :=
  match c.holder t with
  | some p => (c.detach x now).setPlace p ((c.places[p]).map (CrewRecord.comeTo cfg now x))
  | none => (c.detach x now).seatNew now x t

/-- The token of the record attached at a position. -/
def Crew.tokenAt (c : Crew) (x : CrewPosition) : Option Word32 := (c.attached x).map CrewRecord.token

/-- The crew after a token update that changes an attachment; none for an update with no effect (R130). -/
def Crew.tokenUpdate (c : Crew) (cfg : CrewConfig) (now : Word32) (x : CrewPosition) (t : Word32) : Option Crew :=
  if c.tokenAt x = some t then none
  else if t = 0 then (if c.tokenAt x = none then none else some (c.detach x now))
  else some (c.seat cfg now x t)

/-! ### Tallies (R137) -/

/-- A tally in seconds, held within 0..86400 (R137). -/
def tallySeconds (m : Word32) : Nat := min (60 * m.toInt).toNat Config.crewTop

/-- The counter that a tally names (R137). -/
def CrewRecord.counter (r : CrewRecord) : TallyCounter → Nat
  | .continuous => r.continuous
  | .daily => r.daily

/-- The tally differs from the counter by more than the tolerance (R137). -/
def CrewRecord.adopts (cfg : CrewConfig) (k : TallyCounter) (t : Nat) (r : CrewRecord) : Bool :=
  decide (cfg.tallyTolerance < max t (r.counter k) - min t (r.counter k))

/-- Steps 2 and 3 for an adopted tally: the counter takes the tally, and continuous is clamped to daily (R137). -/
def CrewRecord.adopt (k : TallyCounter) (t : Nat) (r : CrewRecord) : CrewRecord :=
  let r := match k with
    | .continuous => { r with continuous := t }
    | .daily => { r with daily := t }
  { r with continuous := min r.continuous r.daily }

/-- Step 4: the counter is seen, and both seen end provisional (R137). -/
def CrewRecord.markSeen (k : TallyCounter) (r : CrewRecord) : CrewRecord :=
  let r := match k with
    | .continuous => { r with contSeen := true }
    | .daily => { r with daySeen := true }
  if r.contSeen && r.daySeen then { r with provisional := false } else r

/-- The record after a tally update (R137). -/
def CrewRecord.tally (cfg : CrewConfig) (k : TallyCounter) (t : Nat) (r : CrewRecord) : CrewRecord :=
  (if r.adopts cfg k t then r.adopt k t else r).markSeen k

/-! ### Remaining time and warm start (R138, R144) -/

/-- Whole minutes left, not below 0 (R138). -/
def minutesLeft (limit used : Nat) : Word32 := BitVec.ofNat 32 ((limit - used) / 60)

/-- A record at warm start: activity UNKNOWN, with a rest run ended first, every run 0, provisional (R144). -/
def CrewRecord.warm (cfg : CrewConfig) (r : CrewRecord) : CrewRecord :=
  CrewRecord.makeProvisional { r.setActivity cfg .unknown with run := 0 }

end Sys2Proof.Machine
end

