-- ==== Sys2Proof/Machine/Gauge.lean ====
section
/-! DEFINITION. The Gauge Unit's computations on one channel (R57 to R64, R67, R68, R70, R72, R74): target, damping, motion,
homing, parking. None of these raises a fault; the events that can raise one stand in Machine/GaugeEvents.lean. -/

namespace Sys2Proof.Machine

/-! ### The target (R57 to R59) -/

/-- A quotient rounded to the nearest integer, a half going away from zero (R58); the divisor is positive. -/
def roundAway (num : Int) (den : Nat) : Int :=
  let q : Nat := (2 * num.natAbs + den) / (2 * den)
  if num < 0 then -(q : Int) else q

/-- The curve value on the segment from `p` to `q` (R58). -/
def interpolate (p q : CurvePoint) (v : Int) : Nat :=
  ((p.y : Int) + roundAway ((v - p.x.toInt) * ((q.y : Int) - p.y)) (q.x.toInt - p.x.toInt).toNat).toNat

/-- The curve value at or above the first point in use, over the points that follow it (R58). -/
def curveFrom : CurvePoint → List CurvePoint → Int → Nat
  | p, [], _ => p.y
  | p, q :: rest, v => if v < q.x.toInt then interpolate p q v else curveFrom q rest v

/-- The curve value: y_0 at or below x_0, y_n at or above x_n, else on the segment (R58). -/
def Curve.value (c : Curve) (v : Int) : Nat :=
  match c.points.toList.take c.pointCount with
  | [] => 0
  | p :: rest => if v ≤ p.x.toInt then p.y else curveFrom p rest v

/-- The target T from the source slot as it stands, with the curve (R58, R59); `before` is T as it was. -/
def GaugeEntry.target (e : GaugeEntry) (c : Curve) (x : Slot) (before : Nat) : Nat :=
  match x.quality with
  | .fresh | .held => if c.valid then min (c.value x.value.toInt) e.maxPos else e.park
  | .stale | .unknown =>
    match e.stalePolicy with
    | .hold => before
    | .park => e.park
  | .notAvailable | .error => e.park

/-- Evaluate a channel's target (R57). -/
def State.evaluateTarget (s : State) (ch : Fin 6) : State :=
  let e := s.tables.gauge[ch]
  let c := s.gauges.channels[ch]
  s.setChannel ch { c with target := e.target s.tables.curve[e.curve] (s.slot e.source) c.target }

/-- A channel follows events of its source slot only in HOMING and TRACKING (R57). -/
def ChannelState.follows : ChannelState → Bool
  | .homing | .tracking => true
  | .unhomed | .parking | .parked | .disabled => false

/-- The Gauge Unit observes an event of slot `k` (R57). DESIGN CHOICE (assumption log entry 34): R18 names as readers the source
slots of valid gauge entries, R57 makes no such exception; a HOMING or TRACKING channel whose entry is invalid follows too. -/
def State.gaugesObserve (s : State) (k : Fin 128) : State :=
  (List.finRange 6).foldl
    (fun s ch =>
      if (s.gauges.channels[ch]).state.follows && (s.tables.gauge[ch]).source == k then s.evaluateTarget ch else s)
    s

/-! ### Damping and motion (R60, R61) -/

/-- The filter state after one damping step toward 16 × T (R60). -/
def damped (k target filter : Nat) : Nat :=
  let delta : Int := 16 * (target : Int) - filter
  let step : Int := delta.tdiv (2 ^ k)
  let step : Int := if step = 0 ∧ delta ≠ 0 then (if 0 < delta then 1 else -1) else step
  ((filter : Int) + step).toNat

/-- The commanded position after one tick toward the damped position P / 16, a half going up, limited by Vmax and held
within 0..MaxPos (R61). -/
def movedPosition (vmax maxPos filter position : Nat) : Nat :=
  let d := (filter + 8) / 16
  let c :=
    if d ≤ position then (if position - d ≤ vmax then d else position - vmax)
    else if d - position ≤ vmax then d else position + vmax
  min c maxPos

/-- A TRACKING channel's filter tick, once its target is evaluated: damping, then motion (R60, R61). -/
def Channel.track (c : Channel) (e : GaugeEntry) : Channel :=
  let p := damped e.damping c.target c.filter
  let position := movedPosition e.vmax e.maxPos p c.position
  { c with filter := p, position := position, moved := position != c.position }

/-! ### Homing (R62 to R64) -/

/-- Homing starts: the distance is 0 and C is held within MaxPos (R62). -/
def Channel.startHoming (c : Channel) (e : GaugeEntry) : Channel :=
  { c with state := .homing, homingDistance := 0, position := min c.position e.maxPos }

/-- One tick's drive toward the zero stop (R63). -/
def Channel.driveHome (c : Channel) : Channel :=
  { c with homingDistance := c.homingDistance + Config.homingStep, position := c.position - Config.homingStep }

/-- The state that the end of homing gives (R64). Homing runs in HOMING, RUN and STANDBY only. -/
def homedState (valid : Bool) (stallCount : Nat) (part : PartState) : ChannelState :=
  if valid && decide (stallCount < 3) then (if part == .standby then .parked else .tracking) else .disabled

/-- Homing ends with the pointer at the stop (R64). A channel that enters TRACKING has had no tick there yet (R65). -/
def Channel.endHoming (c : Channel) (e : GaugeEntry) (part : PartState) : Channel :=
  { c with state := homedState e.valid c.stallCount part, position := 0, filter := 0, moved := false }

/-! ### Parking (R67, R68) -/

/-- Parking ends when C is 0: PARKED for a valid entry, DISABLED otherwise (R68). -/
def Channel.parkedIfHome (c : Channel) (e : GaugeEntry) : Channel :=
  if c.position = 0 then { c with state := if e.valid then .parked else .disabled } else c

/-- A PARKING channel's filter tick (R68). -/
def Channel.park (c : Channel) (e : GaugeEntry) : Channel :=
  let position := c.position - e.vmax
  { c with position := position, filter := 16 * position }.parkedIfHome e

/-- What STANDBY entry makes of a channel (R67). -/
def Channel.standby (c : Channel) (e : GaugeEntry) : Channel :=
  match c.state with
  | .tracking => { c with state := .parking, target := 0, stallCheck := true }.parkedIfHome e
  | .homing => { c with state := .parking, target := 0, stallCheck := false }.parkedIfHome e
  | .unhomed =>
    if e.valid then { c with state := .parked, position := 0, filter := 0 }
    else { c with state := .disabled, position := 0 }
  | .parking | .parked | .disabled => c

/-! ### Entries, writes and resets (R70, R72, R74, R75) -/

/-- What HOMING entry makes of a channel (R70). -/
def Channel.homingEntry (c : Channel) (e : GaugeEntry) : Channel :=
  let c := { c with stallCount := 0, target := e.park }
  if e.valid then c.startHoming e
  else if c.state = .homing then c
  else { c with state := .disabled }

/-- What an accepted write of its entry makes of a channel (R72). -/
def Channel.rewrite (c : Channel) (e : GaugeEntry) (part : PartState) : Channel :=
  match part with
  | .homing | .run | .standby => { c with target := e.park }.startHoming e
  | .unconfigured | .waking | .sleep => { c with state := .unhomed, position := 0, filter := 0, target := 0 }

/-- What warm start makes of a channel (R74). -/
def Channel.warm (c : Channel) : Channel :=
  { c with state := .unhomed, target := 0, filter := 0, position := 0, homingDistance := 0, stallCheck := false,
           moved := false }

/-- What a GAUGES section reset makes of a channel (R75). -/
def Channel.sectionReset (c : Channel) (e : GaugeEntry) (part : PartState) : Channel :=
  let c := { c with stallCount := 0 }
  if part.driving && e.valid then { c with target := e.park }.startHoming e else c

/-- Apply an update to every channel with its entry (R67, R70, R74, R75). -/
def State.mapChannels (s : State) (f : Channel → GaugeEntry → Channel) : State :=
  { s with gauges := { s.gauges with
      channels := Vector.ofFn fun ch : Fin 6 => f s.gauges.channels[ch] s.tables.gauge[ch] } }

/-- The Gauge Unit reports its two conditions to Time Base and Ignition Control (R71). -/
def State.reportGauges (s : State) : State :=
  { s with time := { s.time with homingDone := s.homingDoneNow, atRest := s.atRestNow } }

/-- The conditions are reported when the event has changed any channel's state since a state before it (R71). -/
def State.reportChanges (s before : State) : State :=
  if (List.finRange 6).all fun ch => (s.gauges.channels[ch]).state == (before.gauges.channels[ch]).state then s
  else s.reportGauges

end Sys2Proof.Machine
end

