-- ==== Sys2Proof/Machine/Chime.lean ====
section
/-! DEFINITION. The chime requests and the chime arbiter (R109 to R113). None of these raises a fault or sends a record. -/

namespace Sys2Proof.Machine

/-- The arbiter priority of a pattern as the Chime Pattern Table stands (R110). -/
def State.patternPriority (s : State) (p : Fin 8) : Nat := (s.tables.chime[p]).priority

/-- The pattern of a telltale's ACTIVE request (R109). -/
def State.activePattern (s : State) (i : Fin 64) : Option (Fin 8) :=
  match s.messages.requests[i] with
  | none => none
  | some r => if r.status = .active then some r.pattern else none

/-- The winner: the ACTIVE request whose pattern has the highest priority, then the lowest telltale index (R110). It is
given with its pattern. -/
def State.chimeWinner (s : State) : Option (Fin 64 × Fin 8) :=
  (List.finRange 64).foldl
    (fun best i =>
      match s.activePattern i with
      | none => best
      | some p =>
        match best with
        | none => some (i, p)
        | some b => if s.patternPriority b.2 < s.patternPriority p then some (i, p) else some b)
    none

/-- Set the arbiter's state (R110). -/
def State.setArbiter (s : State) (a : Arbiter) : State := { s with messages := { s.messages with arbiter := a } }

/-- Set the chime request held for a telltale (R109). -/
def State.setRequest (s : State) (i : Fin 64) (r : Option ChimeRequest) : State :=
  { s with messages := { s.messages with requests := s.messages.requests.set i r } }

/-- The winner's burst starts with the ON phase, with the pattern's tone and on time as they stand (R108, R111). -/
def State.startBurst (s : State) (w : Fin 64 × Fin 8) : State :=
  s.setArbiter (.playing w.1 .on (s.tables.chime[w.2]).onTime (s.tables.chime[w.2]).tone)

/-- A choice with the arbiter IDLE, and the choice at a burst completion: the winner starts a burst, or the arbiter is IDLE
(R110). -/
def State.chooseAfresh (s : State) : State :=
  match s.chimeWinner with
  | none => s.setArbiter .idle
  | some w => s.startBurst w

/-- A choice at a choice point other than a burst completion: mid-burst, only a strictly higher priority preempts (R110,
R112). -/
def State.choose (s : State) : State :=
  match s.messages.arbiter with
  | .idle => s.chooseAfresh
  | .playing t _ _ _ =>
    match s.chimeWinner with
    | none => s
    | some w =>
      if w.1 = t then s
      else match s.messages.requests[t] with
        | none => s.startBurst w
        | some r => if s.patternPriority r.pattern < s.patternPriority w.2 then s.startBurst w else s

/-- A chime request is raised for a telltale: ACTIVE, with the pattern's repeats, or UNLIMITED when those are 0 (R109). -/
def State.raiseRequest (s : State) (i : Fin 64) (p : Fin 8) : State :=
  let repeats := (s.tables.chime[p]).repeats
  (s.setRequest i (some ⟨p, if repeats = 0 then none else some repeats, .active⟩)).choose

/-- A telltale's chime request is removed; when it was playing, the output is silenced and the arbiter chooses as from IDLE
(R109, R110). Finding none changes nothing. -/
def State.removeRequest (s : State) (i : Fin 64) : State :=
  match s.messages.requests[i] with
  | none => s
  | some _ =>
    let s₁ := s.setRequest i none
    match s₁.messages.arbiter with
    | .idle => s₁.choose
    | .playing t _ _ _ => if t = i then (s₁.setArbiter .idle).choose else s₁.choose

/-- A burst is completed at its OFF expiry: a limited request loses one repeat and is SPENT at 0, and the arbiter chooses
(R111, R113). -/
def State.completeBurst (s : State) (t : Fin 64) : State :=
  match s.messages.requests[t] with
  | none => s.chooseAfresh
  | some r =>
    let r' := match r.remaining with
      | none => r
      | some n => { r with remaining := some (n - 1), status := if n ≤ 1 then .spent else r.status }
    (s.setRequest t (some r')).chooseAfresh

end Sys2Proof.Machine
end

