-- ==== Sys2Proof/Machine/Presentations.lean ====
section
/-! DEFINITION. The Message Unit's three places (R98): the current presentation, the Presentation Stack (bottom first) and the
Deferred Ring (oldest first), with the two selections over the ring (R98), the full-ring rule (R102), an offer (R100, R101), the
choice of the next current presentation (R103) and a withdrawal (R104). Each event at the places gives them as it leaves them, and
what the Message Unit has to report of it, in the order in which its rule gives the reports (R101, R102, R107). What becomes of the
reports stands in Machine/Telltale.lean. -/

namespace Sys2Proof.Machine

/-- What the Message Unit reports of an event at the places. -/
inductive MessageReport where
  /-- A telltale's record was dropped by the full-ring rule: PRESENT_DROPPED, with the telltale's index (R102). -/
  | dropped (telltale : Fin 64)
  /-- The current presentation changed: one PRESENT record (R107). -/
  | present
  deriving DecidableEq, Repr

/-- The best ring record: the highest priority, and the oldest of those (R98). -/
def bestRecord : List Presentation → Option Presentation
  | [] => none
  | p :: ps =>
    match bestRecord ps with
    | none => some p
    | some b => if p.priority < b.priority then some b else some p

/-- The weakest ring record: the lowest priority, and the oldest of those (R98). -/
def weakestRecord : List Presentation → Option Presentation
  | [] => none
  | p :: ps =>
    match weakestRecord ps with
    | none => some p
    | some w => if w.priority < p.priority then some w else some p

/-- A record enters the Deferred Ring; the full-ring rule may drop the weakest record or the incoming one (R102). -/
def Messages.enterRing (m : Messages) (p : Presentation) : Messages × List MessageReport :=
  if m.ring.length < Config.ringPlaces then ({ m with ring := m.ring ++ [p] }, [])
  else match weakestRecord m.ring with
    | none => (m, [.dropped p.telltale])
    | some w =>
      if w.priority < p.priority then ({ m with ring := m.ring.erase w ++ [p] }, [.dropped w.telltale])
      else (m, [.dropped p.telltale])

/-- Step 1 of a preemption: a full stack's bottom record enters the Deferred Ring (R101). -/
def Messages.spill (m : Messages) : Messages × List MessageReport :=
  match m.stack with
  | b :: rest => if Config.stackPlaces ≤ m.stack.length then Messages.enterRing { m with stack := rest } b else (m, [])
  | [] => (m, [])

/-- Steps 2 and 3 of a preemption: the current presentation is pushed and the offer replaces it (R101). -/
def Messages.push (m : Messages) (c p : Presentation) : Messages := { m with stack := m.stack ++ [c], current := some p }

/-- An offer: it becomes current, preempts, or enters the Deferred Ring (R100, R101). -/
def Messages.place (m : Messages) (p : Presentation) : Messages × List MessageReport :=
  match m.current with
  | none => ({ m with current := some p }, [.present])
  | some c => if c.priority < p.priority then (m.spill.1.push c p, m.spill.2 ++ [.present]) else m.enterRing p

/-- The current presentation is removed and the next is chosen from the stack top and the ring's best record (R103). -/
def Messages.removeCurrent (m : Messages) : Messages :=
  match m.stack.getLast?, bestRecord m.ring with
  | some t, some b =>
    if t.priority < b.priority then { m with current := some b, ring := m.ring.erase b }
    else { m with current := some t, stack := m.stack.dropLast }
  | some t, none => { m with current := some t, stack := m.stack.dropLast }
  | none, some b => { m with current := some b, ring := m.ring.erase b }
  | none, none => { m with current := none }

/-- A telltale's record is removed from the stack or the ring, where it stands; finding none changes nothing (R104). -/
def Messages.erase (m : Messages) (i : Fin 64) : Messages :=
  { m with stack := m.stack.eraseP (fun p => p.telltale == i), ring := m.ring.eraseP (fun p => p.telltale == i) }

/-- A telltale's withdrawal removes its record wherever it stands (R104). -/
def Messages.withdraw (m : Messages) (i : Fin 64) : Messages × List MessageReport :=
  if m.current.any (fun c => c.telltale == i) then (m.removeCurrent, [.present]) else (m.erase i, [])

/-- The PRESENT record of the places as they stand (R107). -/
def Messages.presentRecord (m : Messages) : EgressRecord := .present m.current m.stack.length m.ring.length

end Sys2Proof.Machine
end

