-- ==== Sys2Proof/Machine/Telltale.lean ====
section
/-! DEFINITION. The Telltale Unit: conditions (R77, R78), the moves of a telltale (R81 to R84), lamp demand (R88), the reports
of the Message Unit (R85); the Message Unit's events: offers, withdrawals and the acknowledge press, with what they raise and offer
(R100 to R107).

A telltale's move, an offer, a withdrawal and a press are each taken whole (R80, R104): a `Change` gives the telltales, the lamps and
the Message Unit as it leaves them, and the reports of the Message Unit in their order. Then the reports go out, one after
another (`Change.reported`): each raises its occurrence or offers its record, which the Fault Unit completes, slot 127 written and
its readers told as the write is made, before the next report (R18, R163, R166). Assumption log entry 7. -/

namespace Sys2Proof.Machine

/-! ### Conditions -/

/-- The condition from a usable slot's value, with hysteresis (R77). -/
def TelltaleEntry.compare (e : TelltaleEntry) (value : Word32) (before : Bool) : Bool :=
  let v := value.toInt
  let th := e.threshold.toInt
  match e.op with
  | .gt => if before then !decide (v ≤ th - e.hysteresis) else decide (v > th)
  | .lt => if before then !decide (v ≥ th + e.hysteresis) else decide (v < th)
  | .eq => decide (v = th)
  | .ne => decide (v ≠ th)
  | .anyBits => decide (value &&& e.threshold ≠ 0)
  | .noBits => decide (value &&& e.threshold = 0)

/-- The condition from the source slot as it stands: by the comparison when usable (R77), by the unusable policy when not
(R78). -/
def TelltaleEntry.condition (e : TelltaleEntry) (x : Slot) (before : Bool) : Bool :=
  if x.usable then e.compare x.value before
  else match e.unusablePolicy with
    | .forceOn => true
    | .forceOff => false
    | .hold => before

/-! ### Lamp demand -/

/-- Recompute one channel's demand: an IDLE channel that is demanded becomes LIT, a LIT channel that is not becomes IDLE
(R88). -/
def State.recomputeLamp (s : State) (ch : Fin 32) : State :=
  match s.telltales.lamps[ch], s.lampDemanded ch with
  | .idle, true => s.setLamp ch .lit
  | .lit, false => s.setLamp ch .idle
  | _, _ => s

/-- Recompute the demand of the channel an entry names, if it names one (R88). -/
def State.recomputeNamed (s : State) (lamp : Option (Fin 32)) : State :=
  match lamp with
  | none => s
  | some ch => s.recomputeLamp ch

/-- Recompute the demand of every channel (R88). -/
def State.recomputeLamps (s : State) : State := (List.finRange 32).foldl State.recomputeLamp s

/-! ### Changes and their reports -/

/-- What a telltale's move or an event at the Message Unit comes to: the state it leaves, and what the Message Unit reports of it. -/
structure Change where
  state : State
  reports : List MessageReport

/-- A change of which there is nothing to report. -/
def Change.silent (s : State) : Change := ⟨s, []⟩

/-- A change carried on. -/
def Change.andThen (c : Change) (f : State → State) : Change := { c with state := f c.state }

/-- One report goes out: PRESENT_DROPPED is raised (R102), or a PRESENT record is offered, built from the places as they stand
(R107). `publish` is the write of slot 127 with its readers (R169). -/
def report (publish : State → State) (r : MessageReport) (s : State) : State :=
  match r with
  | .dropped i => raiseWith publish .presentDropped (.item (BitVec.ofNat 8 i.val)) s
  | .present => offerWith publish s.messages.presentRecord s

/-- The reports of a change go out, each completed before the next (R163). -/
def Change.reported (publish : State → State) (c : Change) : State :=
  c.reports.foldl (fun s r => report publish r s) c.state

/-! ### Offers and withdrawals -/

/-- Set what a telltale holds at the Message Unit (R79, R85). -/
def State.setHeld (s : State) (i : Fin 64) (h : Held) : State :=
  s.setTelltale i { s.telltales.records[i] with held := h }

/-- The Telltale Unit hears of a dropped record: that telltale holds none (R85). -/
def State.hear (s : State) (r : MessageReport) : State :=
  match r with
  | .dropped i => s.setHeld i .none
  | .present => s

/-- An offer is placed, and a drop is reported to the telltale (R85, R100 to R102). -/
def State.placeOffer (s : State) (p : Presentation) : Change :=
  let x := s.messages.place p
  ⟨x.2.foldl State.hear { s with messages := x.1 }, x.2⟩

/-- A telltale's withdrawal removes its record wherever it stands; finding none changes nothing (R104). -/
def State.withdraw (s : State) (i : Fin 64) : Change :=
  let x := s.messages.withdraw i
  ⟨{ s with messages := x.1 }, x.2⟩

/-- A telltale offers a presentation with one of its message codes (R83, R92); presentation held is set at the offer
whatever the Message Unit then does with it. -/
def State.offerPresentation (s : State) (i : Fin 64) (h : Held) (message : Nat) : Change :=
  (s.setHeld i h).placeOffer
    ⟨i, (s.tables.telltale[i]).priority, message, (s.tables.telltale[i]).acknowledgeable⟩

/-- The lamp channel an entry names is OPEN or SHORT_PROTECT (R83). -/
def State.lampFailed (s : State) (lamp : Option (Fin 32)) : Bool :=
  match lamp with
  | none => false
  | some ch => s.telltales.lamps[ch] == .open || s.telltales.lamps[ch] == .shortProtect

/-- The offer of a telltale that goes ON: none when it holds a presentation already, else its message code, else its backup
code when its lamp channel has failed (R83). -/
def State.onOffer (s : State) (i : Fin 64) : Change :=
  let e := s.tables.telltale[i]
  if (s.telltales.records[i]).held = .none then
    if e.message ≠ 0 then s.offerPresentation i .main e.message
    else if s.lampFailed e.lamp ∧ e.backup ≠ 0 then s.offerPresentation i .backup e.backup
    else .silent s
  else .silent s

/-- The chime request of a telltale that goes ON (R83). -/
def State.onChime (s : State) (i : Fin 64) : State :=
  match (s.tables.telltale[i]).chime with
  | none => s
  | some p => s.raiseRequest i p

/-- RISING to ON: the lamp, then the offer, then the chime request (R83, R88). -/
def State.telltaleOn (s : State) (i : Fin 64) : Change :=
  let s₁ := s.setTelltale i { s.telltales.records[i] with state := .on, debounce := none }
  ((s₁.recomputeNamed (s.tables.telltale[i]).lamp).onOffer i).andThen fun s => s.onChime i

/-- A telltale reaches OFF: its presentation and chime request are withdrawn, acknowledged is cleared and its timer stopped
(R84). -/
def State.telltaleOff (s : State) (i : Fin 64) : Change :=
  let r := s.telltales.records[i]
  let s₁ := s.setTelltale i { r with state := .off, debounce := none, acknowledged := false, held := .none }
  let c := if r.held = .none then .silent s₁ else s₁.withdraw i
  c.andThen fun s₂ => (s₂.removeRequest i).recomputeNamed (s.tables.telltale[i]).lamp

/-- The outcome of an off-debounce expiry: LATCHED with latch UNTIL_IGNITION_OFF in HOMING or RUN, otherwise OFF (R82). -/
def State.telltaleFallen (s : State) (i : Fin 64) : Change :=
  if (s.tables.telltale[i]).latch = .untilIgnitionOff ∧ s.time.part.driving then
    .silent (s.setTelltale i { s.telltales.records[i] with state := .latched, debounce := none })
  else s.telltaleOff i

/-- An evaluation moves a telltale by its condition, already formed and stored (R81, R82). -/
def State.moveTelltale (s : State) (i : Fin 64) : Change :=
  let e := s.tables.telltale[i]
  let r := s.telltales.records[i]
  match r.state, r.condition with
  | .off, true =>
    if e.onDebounce = 0 then s.telltaleOn i
    else .silent (s.setTelltale i { r with state := .rising, debounce := some e.onDebounce })
  | .rising, false => .silent (s.setTelltale i { r with state := .off, debounce := none })
  | .on, false =>
    if e.offDebounce = 0 then s.telltaleFallen i
    else .silent (s.setTelltale i { r with state := .falling, debounce := some e.offDebounce })
  | .falling, true => .silent (s.setTelltale i { r with state := .on, debounce := none })
  | .latched, true => .silent (s.setTelltale i { r with state := .on, debounce := none })
  | .off, false | .rising, true | .on, true | .falling, false | .latched, false => .silent s

/-- Set a telltale's condition (R79). -/
def State.setCondition (s : State) (i : Fin 64) (c : Bool) : State :=
  s.setTelltale i { s.telltales.records[i] with condition := c }

/-- An evaluation: the condition is formed from the source slot as it stands, and the state moves (R80). -/
def State.evaluateTelltale (s : State) (i : Fin 64) : Change :=
  let e := s.tables.telltale[i]
  (s.setCondition i (e.condition (s.slot e.source) (s.telltales.records[i]).condition)).moveTelltale i

/-- A fresh evaluation: the condition is first set false (R80). -/
def State.evaluateFresh (s : State) (i : Fin 64) : Change := (s.setCondition i false).evaluateTelltale i

/-- Evaluate every active telltale on a slot, in rising index, each move whole and reported before the next (R80). -/
def evaluateReaders (publish : State → State) (k : Fin 128) (s : State) : State :=
  (List.finRange 64).foldl
    (fun s i =>
      if s.telltaleActive i && (s.tables.telltale[i]).source == k then (s.evaluateTelltale i).reported publish else s)
    s

/-! ### Acknowledge -/

/-- A press: an acknowledgeable current presentation is removed and the next chosen, its telltale is told, its chime request withdrawn
(R106). -/
def State.press (s : State) : Change :=
  match s.messages.current with
  | none => .silent s
  | some c =>
    if c.acknowledgeable then
      let s₁ := { s with messages := s.messages.removeCurrent }
      let s₂ := s₁.setTelltale c.telltale
        { s₁.telltales.records[c.telltale] with held := .none, acknowledged := true }
      ⟨s₂.removeRequest c.telltale, [.present]⟩
    else .silent s

/-- The last-seen indication that a slot gives (R105). -/
def Slot.seen (x : Slot) : LastSeen :=
  if x.usable then (if x.value = 0 then .zero else .nonZero) else .none

/-- Set the last-seen indication (R105). -/
def State.setSeen (s : State) (l : LastSeen) : State := { s with messages := { s.messages with lastSeen := l } }

/-- The acknowledge detector takes the acknowledge slot as it stands after an event; a change from a usable 0 to a usable
non-zero value is a press (R105). -/
def observeAck (publish : State → State) (k : Fin 128) (s : State) : State :=
  let s₁ := s.setSeen (s.slot k).seen
  if s.messages.lastSeen = .zero ∧ (s.slot k).seen = .nonZero then s₁.press.reported publish else s₁

end Sys2Proof.Machine
end

