-- ==== Sys2Proof/Machine/Events.lean ====
section
/-! DEFINITION. Slot events (R18): which blocks read a slot, the order in which they take its event, and the write of slot 127
with the reactions of its readers (R169). After this file `raise` and `offer` are the operations of R166 and R176 with
every reaction included.

A channel's target depends on its own source slot alone (R57), so the Gauge Unit commutes with every other reader and takes
each event first. The order of the other readers is free (R104, R163; assumption log entry 5). -/

namespace Sys2Proof.Machine

/-- The readers of a slot, the Gauge Unit apart (R18, R41, R76, R105, R118, R122). -/
inductive Reader where
  | telltales
  | ack
  | road
  | speed
  | activity (position : CrewPosition)
  | token (position : CrewPosition)
  | tally (position : CrewPosition) (counter : TallyCounter)
  | time
  deriving DecidableEq, Repr

/-- An order of the readers: each takes an arbitrary place among those after it (assumption log entry 5). -/
def arrange (n : Nat) : List Reader → List Reader
  | [] => []
  | r :: rs =>
    match arrange n rs with
    | [] => [r]
    | q :: qs => (q :: qs).insertIdx (Config.readerChoice n qs.length % (qs.length + 2)) r

/-- Every reader takes one event; with two readers or more their order is a free choice (R104, R163). -/
def observe (run : Reader → State → State) (readers : List Reader) (s : State) : State :=
  if readers.length < 2 then readers.foldl (fun s r => run r s) s
  else (arrange s.choices readers).foldl (fun s r => run r s) { s with choices := s.choices + 1 }

/-- A valid telltale entry reads the slot (R18). -/
def State.telltalesRead (s : State) (k : Fin 128) : Bool :=
  (List.finRange 64).any fun i => (s.tables.telltale[i]).valid && (s.tables.telltale[i]).source == k

/-- A reader in a list when it reads. -/
def Reader.when (r : Reader) (b : Bool) : List Reader := if b then [r] else []

/-- A crew position has a record attached (R121). -/
def State.hasCrew (s : State) (x : CrewPosition) : Bool := (s.crew.attached x).isSome

/-- The readers of a derived slot: telltales, the acknowledge detector, and the Crew Unit at ROAD_SPEED (R18, R122). -/
def State.derivedReaders (s : State) (k : Fin 128) : List Reader :=
  Reader.telltales.when (s.telltalesRead k) ++ Reader.ack.when (s.tables.system.ackSlot == some k) ++
  Reader.road.when (k == 120 && (s.hasCrew .driver || s.hasCrew .coDriver))

/-- Derive the activity of the record attached at a position and apply it (R122, R124). -/
def State.deriveActivity (s : State) (x : CrewPosition) : State :=
  { s with crew := s.crew.updateAttached x (CrewRecord.setActivity s.tables.crew (s.derivedActivity x)) }

/-- An event of ROAD_SPEED derives the activity of each position whose activity slot is unusable or NONE (R122). -/
def State.deriveFromRoad (s : State) : State :=
  [CrewPosition.driver, CrewPosition.coDriver].foldl
    (fun s x => if s.namedUsable (s.tables.crew.inputs x).activity then s else s.deriveActivity x) s

/-- What one reader does with an event of a derived slot; the readers of decoded slots alone have nothing to do. -/
def runDerived (publish : State → State) (k : Fin 128) (r : Reader) (s : State) : State :=
  match r with
  | .telltales => evaluateReaders publish k s
  | .ack => observeAck publish k s
  | .road => s.deriveFromRoad
  | .speed | .activity _ | .token _ | .tally _ _ | .time => s

/-- The readers of a derived slot observe an event of it (R18, R37). -/
def derivedEvent (publish : State → State) (k : Fin 128) (s : State) : State :=
  observe (runDerived publish k) (s.derivedReaders k) (s.gaugesObserve k)

/-- Write slot 127 and let its readers observe it (R169). The first argument bounds the nesting of such writes within one
event (assumption log entry 6). -/
def publish : Nat → State → State
  | 0, s => s.storeSevere
  | n + 1, s => derivedEvent (publish n) 127 s.storeSevere

/-- The Fault Unit writes slot 127 (R169). -/
def publishSevere (s : State) : State := publish Config.publishDepth s

/-- Raise a fault class with its detail (R163, R166). -/
def raise (c : FaultClass) (d : FaultDetail) (s : State) : State := raiseWith publishSevere c d s

/-- Raise a class whose detail is one number below 256 (R163, R188). -/
def raiseItem (c : FaultClass) (n : Nat) (s : State) : State := raise c (.item (BitVec.ofNat 8 n)) s

/-- Offer a record to the egress queue (R176). -/
def offer (r : EgressRecord) (s : State) : State := offerWith publishSevere r s

/-- An event at the Telltale Unit or the Message Unit, taken whole and reported (R80, R104; assumption log entry 7). -/
def whole (f : State → Change) (s : State) : State := (f s).reported publishSevere

/-- The owner of a derived slot writes it, and its readers observe the write (R37). -/
def writeDerived (k : Fin 128) (x : Slot) (s : State) : State := derivedEvent publishSevere k (s.setSlot k x)

end Sys2Proof.Machine
end

