-- ==== Sys2Proof/Machine/GaugeEvents.lean ====
section
/-! DEFINITION. The Gauge Unit's events (R56, R63, R65, R66, R69, R72, R75): filter ticks, stall reports, entry writes and the
section reset. -/

namespace Sys2Proof.Machine

/-- Update one channel from its record and its entry. -/
def State.updateChannel (s : State) (ch : Fin 6) (f : Channel → GaugeEntry → Channel) : State :=
  s.setChannel ch (f s.gauges.channels[ch] s.tables.gauge[ch])

/-- End a channel's homing (R64). -/
def State.finishHoming (s : State) (ch : Fin 6) : State := s.updateChannel ch fun c e => c.endHoming e s.time.part

/-- A HOMING channel's filter tick: it fails once the distance is at least MaxPos + 64 (R63). -/
def tickHoming (ch : Fin 6) (s : State) : State :=
  let s₁ := s.updateChannel ch fun c _ => c.driveHome
  if (s.tables.gauge[ch]).maxPos + Config.homingMargin ≤ (s₁.gauges.channels[ch]).homingDistance then
    (raiseItem .gaugeHomingFail ch.val s₁).finishHoming ch
  else s₁

/-- One channel's work at a filter tick, by its state (R56, R57, R60, R61, R63, R68). -/
def tickChannel (ch : Fin 6) (s : State) : State :=
  match (s.gauges.channels[ch]).state with
  | .homing => tickHoming ch s
  | .tracking => (s.evaluateTarget ch).updateChannel ch Channel.track
  | .parking => s.updateChannel ch Channel.park
  | .unhomed | .parked | .disabled => s

/-- The channels' work at a filter tick, in rising channel number (R56). -/
def tickChannels (s : State) : State := (List.finRange 6).foldl (fun s ch => tickChannel ch s) s

/-- Set the filter tick's interval (R56). -/
def State.setFilterTick (s : State) (t : Timer) : State := { s with gauges := { s.gauges with tick := t } }

/-- The filter tick starts when it is not already running (R56). -/
def State.startFilterTick (s : State) : State :=
  match s.gauges.tick with
  | none => s.setFilterTick (some Config.filterInterval)
  | some _ => s

/-- The channel takes a stall report in its present state (R65). -/
def Channel.takesStall (c : Channel) : Bool :=
  match c.state with
  | .homing => true
  | .tracking => c.moved
  | .parking => c.stallCheck
  | .unhomed | .parked | .disabled => false

/-- A stall counted while TRACKING or PARKING: DISABLED at the third, otherwise homing (R66, R69). -/
def Channel.stalled (c : Channel) (e : GaugeEntry) : Channel :=
  let c := { c with stallCount := c.stallCount + 1 }
  if 3 ≤ c.stallCount then { c with state := .disabled } else c.startHoming e

/-- A stall taken by a channel (R64, R66, R69). -/
def takeStall (ch : Fin 6) (s : State) : State :=
  match (s.gauges.channels[ch]).state with
  | .homing => s.finishHoming ch
  | .tracking | .parking => (raiseItem .gaugeStall ch.val s).updateChannel ch Channel.stalled
  | .unhomed | .parked | .disabled => s

/-- A stall report (R65), after which the conditions are reported (R71). -/
def stallReported (ch : Fin 6) (s : State) : State :=
  if (s.gauges.channels[ch]).takesStall then (takeStall ch s).reportGauges else s

/-- An accepted gauge entry write acts on its channel (R72), and the conditions are reported (R71). -/
def State.gaugeWritten (s : State) (ch : Fin 6) : State :=
  (s.updateChannel ch fun c e => c.rewrite e s.time.part).reportGauges

/-- HOMING entry at the Gauge Unit (R70, R71). -/
def State.gaugesHomingEntry (s : State) : State :=
  ((s.mapChannels Channel.homingEntry).startFilterTick).reportGauges

/-- STANDBY entry at the Gauge Unit (R67, R71). -/
def State.gaugesStandbyEntry (s : State) : State :=
  ((s.mapChannels Channel.standby).startFilterTick).reportGauges

/-- Warm start at the Gauge Unit (R74). -/
def State.gaugesWarm (s : State) : State := (s.mapChannels fun c _ => c.warm).setFilterTick none

/-- A GAUGES section reset (R75), after which the conditions are reported if it changed a channel's state (R71). -/
def State.resetGauges (s : State) : State :=
  (s.mapChannels fun c e => c.sectionReset e s.time.part).reportChanges s

end Sys2Proof.Machine
end

