-- ==== Sys2Proof/Machine/CrewUnit.lean ====
section
/-! DEFINITION. The Crew Unit's events (R119, R122, R125, R128, R130, R134, R137 to R145): remaining-time slots, snapshots,
activity, tokens, tallies, accounting ticks, credits and resets. -/

namespace Sys2Proof.Machine

/-- Replace the Crew Unit's live state. -/
def State.setCrew (s : State) (c : Crew) : State := { s with crew := c }

/-! ### The remaining-time slots (R138, R139) -/

/-- What a remaining-time slot takes: the minutes left of the record attached, or NOT_AVAILABLE (R138). -/
def State.remainingContent (s : State) (k : Fin 128) (x : CrewPosition) (c : TallyCounter) : Slot :=
  match s.crew.attached x with
  | none => { value := (s.slot k).value, quality := .notAvailable, clamped := false, age := 0 }
  | some r =>
    let limit := match c with
      | .continuous => s.tables.crew.contLimit
      | .daily => s.tables.crew.dayLimit
    { value := minutesLeft limit (r.counter c), quality := .fresh, clamped := false, age := 0 }

/-- The four slots with what each shows, in the order of writing (R138, R139). -/
def remainingSlots : List (Fin 128 × CrewPosition × TallyCounter) :=
  [(122, .driver, .continuous), (123, .driver, .daily), (124, .coDriver, .continuous), (125, .coDriver, .daily)]

/-- Write slots 122 to 125 (R139). -/
def writeRemaining (s : State) : State :=
  remainingSlots.foldl (fun s k => writeDerived k.1 (s.remainingContent k.1 k.2.1 k.2.2) s) s

/-- Slots 122 to 125 at warm start and SLEEP entry, written without an observer (R39, R144). -/
def State.storeRemaining (s : State) : State :=
  remainingSlots.foldl (fun s k => s.setSlot k.1 (s.remainingContent k.1 k.2.1 k.2.2)) s

/-! ### Snapshots (R141, R142) -/

/-- One position of a snapshot; the remaining times are as written to the position's two slots (R141). -/
def State.snapshotPosition (s : State) (x : CrewPosition) (cont day : Fin 128) : SnapshotPosition :=
  match s.crew.attached x with
  | none =>
    { present := false, token := 0, activity := .unknown, contLeft := 0, dayLeft := 0, breakState := .none,
      provisional := false }
  | some r =>
    { present := true, token := r.token, activity := r.activity, contLeft := (s.slot cont).value.toNat,
      dayLeft := (s.slot day).value.toNat, breakState := r.breakState, provisional := r.provisional }

/-- The CREW_SNAPSHOT of the state as it stands (R141). -/
def State.snapshot (s : State) : EgressRecord :=
  .crewSnapshot s.time.mono (s.snapshotPosition .driver 122 123) (s.snapshotPosition .coDriver 124 125)

/-- Offer a CREW_SNAPSHOT (R141). -/
def offerSnapshot (s : State) : State := offer s.snapshot s

/-- Set the snapshot counter (R142). -/
def State.setSnapshotCounter (s : State) (n : Nat) : State := { s with crew := { s.crew with snapshotCounter := n } }

/-- The snapshot counter advances at an accounting tick (R142). -/
def advanceSnapshot (s : State) : State :=
  let interval := s.tables.crew.snapshotInterval
  if interval = 0 then s.setSnapshotCounter 0
  else if interval ≤ s.crew.snapshotCounter + 1 then (offerSnapshot s).setSnapshotCounter 0
  else s.setSnapshotCounter (s.crew.snapshotCounter + 1)

/-! ### Activity, tokens, tallies (R122, R130, R137) -/

/-- The value outside 0..3 that a position's usable activity slot holds, if it does (R122). -/
def State.tachoCode (s : State) (x : CrewPosition) : Option Word32 :=
  match (s.tables.crew.inputs x).activity with
  | none => none
  | some k =>
    let slot := s.slot (decodedSlot k)
    if slot.usable && !decide (slot.value.toNat ≤ 3) then some slot.value else none

/-- An event of a position's activity slot: with a record attached, its activity is derived, and TACHO_CODE raised for a
value outside 0..3 (R122). -/
def activityEvent (x : CrewPosition) (s : State) : State :=
  if s.hasCrew x then
    match s.tachoCode x with
    | none => s.deriveActivity x
    | some v => raise .tachoCode (.tacho x v) (s.deriveActivity x)
  else s

/-- A token update: slots and a snapshot follow a change of attachment (R130). -/
def tokenEvent (x : CrewPosition) (t : Word32) (s : State) : State :=
  match s.crew.tokenUpdate s.tables.crew s.time.mono x t with
  | none => s
  | some c => offerSnapshot (writeRemaining (s.setCrew c))

/-- A tally update of a position's record (R136, R137). -/
def tallyEvent (x : CrewPosition) (k : TallyCounter) (m : Word32) (s : State) : State :=
  match s.crew.attached x with
  | none => s
  | some r =>
    let t := tallySeconds m
    let s₁ := s.setCrew (s.crew.updateAttached x (CrewRecord.tally s.tables.crew k t))
    if r.adopts s.tables.crew k t then
      writeRemaining (if r.provisional then s₁ else raise .tallyMismatch (.tally x k (r.counter k) t) s₁)
    else s₁

/-! ### Accounting ticks and credits (R125, R134) -/

/-- Accrual of one tick, the DRIVER record and the CO_DRIVER record each on its own, then removal (R125 to R128). -/
def Crew.accrue (c : Crew) (cfg : CrewConfig) (now : Word32) : Crew :=
  ((c.updateAttached .driver (CrewRecord.accrue cfg)).updateAttached .coDriver
    (CrewRecord.accrue cfg)).removeExpired cfg now

/-- An accounting tick (R125). -/
def accountingTick (s : State) : State :=
  advanceSnapshot (writeRemaining (s.setCrew (s.crew.accrue s.tables.crew s.time.mono)))

/-- The credit of each attached record at a wake, DRIVER first (R134). -/
def State.creditCrew (s : State) (g : Nat) : State :=
  s.setCrew ((s.crew.updateAttached .driver (CrewRecord.credit s.tables.crew g)).updateAttached .coDriver
    (CrewRecord.credit s.tables.crew g))

/-- The sleep gap: the monotonic counter minus the sleep mark, modulo 2^32 (R147, R153). -/
def State.sleepGap (s : State) : Nat := (s.time.mono - s.time.sleepMark).toNat

/-- The wake credit and the write of slots 122 to 125 (R134). -/
def wakeCredit (s : State) : State := writeRemaining (s.creditCrew s.sleepGap)

/-! ### Resets (R144, R145) -/

/-- Warm start at the Crew Unit (R144). -/
def State.crewWarm (s : State) : State :=
  ((s.setCrew (s.crew.mapRecords (CrewRecord.warm s.tables.crew))).setSnapshotCounter 0).storeRemaining

/-- SLEEP entry at the Crew Unit (R144). -/
def State.crewSleep (s : State) : State := (s.setSnapshotCounter 0).storeRemaining

/-- A CREW section reset (R145). -/
def resetCrewSection (s : State) : State :=
  offerSnapshot (writeRemaining (s.setCrew { places := Vector.replicate 4 none, snapshotCounter := 0 }))

end Sys2Proof.Machine
end

