-- ==== Sys2Proof/Machine/Operands.lean ====
section
/-! DEFINITION. How a Signal Map entry forms a value or a code from a frame's data bytes (R21 to R28). All arithmetic is exact. -/

namespace Sys2Proof.Machine

/-- The selectors in use, in list order (R19). -/
def MapEntry.gather (e : MapEntry) : List (Fin 8) := e.selectors.toList.take e.gatherCount

/-- The frame is short for the entry: the highest selector is at or beyond the data length (R21). -/
def MapEntry.short (e : MapEntry) (data : List Byte) : Bool := e.gather.any fun j => decide (data.length ≤ j.val)

/-- The gathered word: the first selector's byte in bits 0..7, the next above it (R22). -/
def gatherWord (data : List Byte) : List (Fin 8) → Nat
  | [] => 0
  | j :: js => (data.getD j.val 0).toNat + 256 * gatherWord data js

/-- The raw pattern p: `bitLength` bits of the gathered word from `bitOffset` (R23). -/
def MapEntry.pattern (e : MapEntry) (data : List Byte) : Nat :=
  gatherWord data e.gather / 2 ^ e.bitOffset % 2 ^ e.bitLength

/-- What a pattern means: one of the two codes, or a value (R24). -/
inductive Reading where
  | notAvailable
  | error
  | value (pattern : Nat)
  deriving DecidableEq, Repr

/-- The code test, on the pattern as extracted (R24). -/
def MapEntry.read (e : MapEntry) (p : Nat) : Reading :=
  if e.naCodes = true ∧ p = 2 ^ e.bitLength - 1 then .notAvailable
  else if e.naCodes = true ∧ p = 2 ^ e.bitLength - 2 then .error
  else .value p

/-- The raw value r: the pattern as unsigned, or as two's complement of `bitLength` bits (R25). -/
def MapEntry.raw (e : MapEntry) (p : Nat) : Int :=
  if e.signed = true ∧ 2 ^ (e.bitLength - 1) ≤ p then (p : Int) - 2 ^ e.bitLength else p

/-- The product q, formed exactly (R26). -/
def MapEntry.product (e : MapEntry) (p : Nat) : Int := e.raw p * e.factor.toInt

/-- A product divided by 2^S and rounded to the nearest integer; a half goes to the even integer under CONVERGENT and to
the greater under HALF_UP (R27). -/
def roundShift (mode : Rounding) (q : Int) (shift : Nat) : Int :=
  let d : Int := 2 ^ shift
  let low := q / d
  let rest := 2 * (q % d)
  if rest < d then low
  else if d < rest then low + 1
  else match mode with
    | .halfUp => low + 1
    | .convergent => if low % 2 = 0 then low else low + 1

/-- The offset value v2, formed exactly (R27, R28). -/
def MapEntry.offsetValue (e : MapEntry) (p : Nat) : Int :=
  roundShift e.rounding (e.product p) e.shift + e.offset.toInt

/-- The value to be stored and the clamped indication (R28). -/
def SlotConfig.clamp (c : SlotConfig) (v : Int) : Word32 × Bool :=
  if v < c.min.toInt then (c.min, true)
  else if c.max.toInt < v then (c.max, true)
  else (BitVec.ofInt 32 v, false)

end Sys2Proof.Machine
end

