-- ==== Sys2Proof/Machine/Speed.lean ====
section
/-! DEFINITION. Speed Arbitration (R42 to R51): the pair ring, the arbitration state, the selection and slots 120 and 121. -/

namespace Sys2Proof.Machine

/-! ### The pair ring (R42, R44, R45) -/

/-- Write one pair at the write position (R42). -/
def PairRing.push (r : PairRing) (p : Word32 × Word32) : PairRing :=
  { r with places := r.places.set r.position p, position := r.position + 1, count := min (r.count + 1) 8 }

/-- Empty the ring: count and write position 0, no last sum (R42). -/
def PairRing.empty (r : PairRing) : PairRing := { r with position := 0, count := 0, lastSum := none }

/-- The held pairs, oldest first (R42). -/
def PairRing.held (r : PairRing) : List (Word32 × Word32) :=
  if r.count = 8 then (List.finRange 8).map fun i => r.places[r.position + i]
  else r.places.toList.take r.count

/-- The difference of one pair, formed exactly (R45). -/
def pairDifference (p : Word32 × Word32) : Nat := (p.1.toInt - p.2.toInt).natAbs

/-- The sum of differences over the eight places (R45). -/
def PairRing.sum (r : PairRing) : Nat := (r.places.toList.map pairDifference).sum

/-- The arbitration state when the ring is emptied at a tick or at STANDBY entry (R44, R50). -/
def ArbitrationState.emptied : ArbitrationState → ArbitrationState
  | .agree => .learning
  | .learning => .learning
  | .conflict => .conflict

/-- The arbitration state after the evaluation of a full ring (R45). -/
def ArbitrationState.evaluate (a : ArbitrationState) (sum enter leave : Nat) : ArbitrationState :=
  match a with
  | .learning | .agree => if enter < sum then .conflict else .agree
  | .conflict => if sum < leave then .agree else .conflict

/-- Set Speed Arbitration's ring and state. -/
def State.setRing (s : State) (r : PairRing) (a : ArbitrationState) : State :=
  { s with speed := { s.speed with ring := r, state := a } }

/-- The value of a source slot; a source named NONE has none, and is not sampled (R44). -/
def State.namedValue (s : State) (k : Option (Fin 120)) : Word32 :=
  match k with
  | none => 0
  | some k => (s.slot (decodedSlot k)).value

/-- Both source slots are usable (R44). -/
def State.pairUsable (s : State) : Bool :=
  s.namedUsable s.tables.system.primarySpeed && s.namedUsable s.tables.system.secondarySpeed

/-- The ring after sampling at a plausibility tick (R44). -/
def State.sampledRing (s : State) : PairRing :=
  if s.pairUsable then
    s.speed.ring.push (s.namedValue s.tables.system.primarySpeed, s.namedValue s.tables.system.secondarySpeed)
  else s.speed.ring.empty

/-- Sample, and evaluate a full ring; a move to CONFLICT raises SPEED_CONFLICT with the sum (R44, R45, R46). -/
def sampleSpeed (s : State) : State :=
  let r := s.sampledRing
  if s.pairUsable then
    if r.count = 8 then
      let sum := r.sum
      let after := s.speed.state.evaluate sum s.tables.system.conflictEnter s.tables.system.conflictLeave
      let s₁ := s.setRing { r with lastSum := some sum } after
      if s.speed.state ≠ .conflict ∧ after = .conflict then
        raise .speedConflict (.sum (min sum Config.word32Top)) s₁
      else s₁
    else s.setRing r s.speed.state
  else s.setRing r s.speed.state.emptied

/-! ### Selection (R47, R48) -/

/-- The selection (R47). -/
def State.selectSpeed (s : State) : Selection :=
  let p := s.namedUsable s.tables.system.primarySpeed
  let q := s.namedUsable s.tables.system.secondarySpeed
  if s.speed.state = .conflict ∧ q then .secondary
  else if p then .primary
  else if q then .secondary
  else .none

/-- The content of a named source slot, written with age 0; NONE is never selected. -/
def State.sourceContent (s : State) (k : Option (Fin 120)) : Slot :=
  match k with
  | none => { s.slot 120 with age := 0 }
  | some k => { s.slot (decodedSlot k) with age := 0 }

/-- What ROAD_SPEED takes for a selection (R48). -/
def State.roadContent (s : State) (sel : Selection) : Slot :=
  match sel with
  | .primary => s.sourceContent s.tables.system.primarySpeed
  | .secondary => s.sourceContent s.tables.system.secondarySpeed
  | .none => { value := (s.slot 120).value, quality := .notAvailable, clamped := false, age := 0 }

/-- What SPEED_SOURCE takes for a selection (R48). -/
def Selection.content (sel : Selection) : Slot :=
  { value := (match sel with | .primary => 0 | .secondary => 1 | .none => 2), quality := .fresh, clamped := false,
    age := 0 }

/-- Set the present selection (R47). -/
def State.setSelection (s : State) (sel : Selection) : State := { s with speed := { s.speed with selection := sel } }

/-- A selection is made: ROAD_SPEED, then SPEED_SOURCE is written (R47, R48). -/
def writeSelection (s : State) : State :=
  let sel := s.selectSpeed
  writeDerived 121 sel.content (writeDerived 120 (s.roadContent sel) (s.setSelection sel))

/-- The selection of a warm start or a SLEEP entry, whose slot writes no reader observes (R39, R51). -/
def State.storeSelection (s : State) : State :=
  let sel := s.selectSpeed
  ((s.setSelection sel).setSlot 120 (s.roadContent sel)).setSlot 121 sel.content

/-! ### Resets and entries (R49 to R51) -/

/-- Empty the ring and set LEARNING (R49, R51). -/
def State.relearn (s : State) : State := s.setRing s.speed.ring.empty .learning

/-- Start or stop the plausibility tick (R43). -/
def State.setPlausibility (s : State) (t : Timer) : State := { s with speed := { s.speed with tick := t } }

/-- STANDBY entry at Speed Arbitration (R50). -/
def State.speedStandby (s : State) : State :=
  (s.setRing s.speed.ring.empty s.speed.state.emptied).setPlausibility none

/-- Warm start and SLEEP entry at Speed Arbitration (R51). -/
def State.speedWarm (s : State) : State := (s.setPlausibility none).relearn.storeSelection

end Sys2Proof.Machine
end

