-- ==== Sys2Proof/Machine/Signal.lean ====
section
/-! DEFINITION. Signal Decode (R18, R21, R29, R31 to R34, R39, R40): events of decoded slots, map entry runs, hold and stale
expiries, and the slots' resets. -/

namespace Sys2Proof.Machine

/-! ### Events of decoded slots (R18) -/

/-- What made an event of a decoded slot (R18). Tokens, tallies and UTC follow value updates alone (R129, R136, R140). -/
inductive SlotChange where
  | value
  | code
  | quality
  deriving DecidableEq, Repr

/-- A crew position's readers of a decoded slot (R122, R129, R136). -/
def crewReaders (i : CrewInputs) (x : CrewPosition) (change : SlotChange) (k : Fin 120) : List Reader :=
  (Reader.activity x).when (i.activity == some k) ++
  (Reader.token x).when (change == .value && i.token == some k) ++
  (Reader.tally x .continuous).when (change == .value && i.tallyContinuous == some k) ++
  (Reader.tally x .daily).when (change == .value && i.tallyDaily == some k)

/-- The readers of a decoded slot (R18). -/
def State.decodedReaders (s : State) (change : SlotChange) (k : Fin 120) : List Reader :=
  Reader.telltales.when (s.telltalesRead (decodedSlot k)) ++
  Reader.ack.when (s.tables.system.ackSlot == some (decodedSlot k)) ++
  Reader.speed.when (s.tables.system.primarySpeed == some k || s.tables.system.secondarySpeed == some k) ++
  crewReaders s.tables.crew.driver .driver change k ++ crewReaders s.tables.crew.coDriver .coDriver change k ++
  Reader.time.when (change == .value && s.tables.crew.timeSlot == some k)

/-- A time slot update sets UTC, which becomes valid (R140, R148). -/
def State.setUtc (s : State) (u : Word32) : State := { s with time := { s.time with utc := u, utcValid := true } }

/-- What one reader does with an event of a decoded slot. -/
def runDecoded (k : Fin 120) (r : Reader) (s : State) : State :=
  match r with
  | .telltales => evaluateReaders publishSevere (decodedSlot k) s
  | .ack => observeAck publishSevere (decodedSlot k) s
  | .road => s
  | .speed => writeSelection s
  | .activity x => activityEvent x s
  | .token x => tokenEvent x (s.slot (decodedSlot k)).value s
  | .tally x c => tallyEvent x c (s.slot (decodedSlot k)).value s
  | .time => s.setUtc (s.slot (decodedSlot k)).value

/-- The readers of a decoded slot observe an event of it (R18). -/
def decodedEvent (change : SlotChange) (k : Fin 120) (s : State) : State :=
  observe (runDecoded k) (s.decodedReaders change k) (s.gaugesObserve (decodedSlot k))

/-! ### Updates (R29, R34) -/

/-- A started stale timer; stopped with StaleTime 0 (R33). -/
def staleStart (staleTime : Nat) : Timer := if staleTime = 0 then none else some staleTime

/-- A value update: value and clamped as given, FRESH, age 0, timers restarted. A HoldTime of 0 expires at the next ms
advance (R29, R32, R33). -/
def valueUpdate (k : Fin 120) (value : Word32) (clamped : Bool) (s : State) : State :=
  let c := s.tables.slotConfig[k]
  decodedEvent .value k
    ((s.setSlot (decodedSlot k) { value := value, quality := .fresh, clamped := clamped, age := 0 }).setSlotTimers k
      (some (max 1 c.holdTime)) (staleStart c.staleTime))

/-- A code update: the value kept, clamped false, age 0, timers stopped (R34). -/
def codeUpdate (k : Fin 120) (q : Quality) (s : State) : State :=
  decodedEvent .code k
    ((s.setSlot (decodedSlot k)
      { value := (s.slot (decodedSlot k)).value, quality := q, clamped := false, age := 0 }).setSlotTimers k none none)

/-- Run one map entry on a frame (R21 to R29, R34). -/
def runMapEntry (f : Frame) (m : Fin 192) (s : State) : State :=
  let e := s.tables.map[m]
  if e.valid then
    if e.short f.data then raise .frameShort (.frameShort f.port f.id m.val) s
    else match e.read (e.pattern f.data) with
      | .notAvailable => codeUpdate e.destination .notAvailable s
      | .error => codeUpdate e.destination .error s
      | .value p =>
        let stored := (s.tables.slotConfig[e.destination]).clamp (e.offsetValue p)
        valueUpdate e.destination stored.1 stored.2 s
  else s

/-- Run a map range in rising index order (R8). -/
def runMapRange (f : Frame) (first count : Nat) (s : State) : State :=
  (List.finRange 192).foldl
    (fun s m => if first ≤ m.val ∧ m.val < first + count then runMapEntry f m s else s) s

/-! ### Expiries (R32, R33) -/

/-- A slot takes a quality by an expiry; value, clamped and age are kept (R32, R33). -/
def State.setQuality (s : State) (k : Fin 120) (q : Quality) : State :=
  s.setSlot (decodedSlot k) { s.slot (decodedSlot k) with quality := q }

/-- The slot goes STALE: a quality change event, and SIGNAL_STALE when watched (R33). DESIGN CHOICE (assumption log entry 35): R33
gives no order; the readers act on the change before SIGNAL_STALE is raised. -/
def goStale (k : Fin 120) (s : State) : State :=
  let s₁ := decodedEvent .quality k ((s.setQuality k .stale).setSlotTimers k none none)
  if (s.tables.slotConfig[k]).watch then raiseItem .signalStale k.val s₁ else s₁

/-- A hold expiry: HELD, or STALE when the stale expiry coincides (R32). -/
def goHeld (k : Fin 120) (s : State) : State :=
  let c := s.tables.slotConfig[k]
  if c.staleTime ≠ 0 ∧ c.staleTime = c.holdTime then goStale k s
  else decodedEvent .quality k ((s.setQuality k .held).setSlotTimers k none s.store.stale[k])

/-! ### Configuration writes and resets (R31, R39, R40) -/

/-- A slot becomes UNKNOWN with clamped false, keeping its value, and its timers stop (R31, R39, R40). -/
def State.setUnknown (s : State) (k : Fin 120) (age : Nat) : State :=
  (s.setSlot (decodedSlot k)
    { value := (s.slot (decodedSlot k)).value, quality := .unknown, clamped := false, age := age }).setSlotTimers k none none

/-- An accepted Slot Config write sets its slot UNKNOWN (R31). The slot was not written, so its age is kept. -/
def slotConfigWritten (k : Fin 120) (s : State) : State :=
  decodedEvent .quality k (s.setUnknown k (s.slot (decodedSlot k)).age)

/-- A SIGNALS section reset, one slot after another in rising number (R40). -/
def resetSignals (s : State) : State :=
  (List.finRange 120).foldl (fun s k => decodedEvent .quality k (s.setUnknown k 65535)) s

/-- The decoded slots at warm start and SLEEP entry (R39): no reader acts on these changes. -/
def State.signalsWarm (s : State) : State :=
  { s with store :=
    { slots := Vector.ofFn fun k : Fin 128 =>
        if k.val < 120 then { value := (s.store.slots[k]).value, quality := .unknown, clamped := false, age := 65535 }
        else s.store.slots[k],
      hold := Vector.replicate 120 none, stale := Vector.replicate 120 none } }

end Sys2Proof.Machine
end

