-- ==== Sys2Proof/Machine/TelltaleEvents.lean ====
section
/-! DEFINITION. The events of the Telltale Unit and the Message Unit beyond slot events (R86, R87, R90 to R94, R96, R97, R105,
R116, R117): ignition entries, lamp sense, the bulb check, entry writes and resets. -/

namespace Sys2Proof.Machine

/-! ### Lamps and the bulb check -/

/-- Set every lamp channel's state from its present state. -/
def State.mapLamps (s : State) (f : LampState → LampState) : State :=
  { s with telltales := { s.telltales with lamps := Vector.ofFn fun ch : Fin 32 => f s.telltales.lamps[ch] } }

/-- A SHORT_PROTECT channel is released; the recomputation that follows makes it LIT if demanded (R91). -/
def LampState.release : LampState → LampState
  | .shortProtect => .idle
  | .idle => .idle
  | .lit => .lit
  | .open => .open

/-- A TELLTALES section reset clears OPEN and SHORT_PROTECT (R97). -/
def LampState.clear : LampState → LampState
  | .shortProtect | .open | .idle => .idle
  | .lit => .lit

/-- Warm start and SLEEP entry leave no channel LIT (R96). -/
def LampState.darken : LampState → LampState
  | .lit => .idle
  | .idle => .idle
  | .open => .open
  | .shortProtect => .shortProtect

/-- Set the bulb check's interval; none when no check runs (R93). -/
def State.setBulbCheck (s : State) (t : Timer) : State := { s with telltales := { s.telltales with bulbCheck := t } }

/-- The end of the bulb check is reported to Time Base and Ignition Control (R93, R156). -/
def State.reportBulbEnd (s : State) : State := { s with time := { s.time with bulbCheckEnded := true } }

/-- HOMING entry releases SHORT_PROTECT and starts the bulb check; with BulbCheck 0 it ends at once (R91, R93). -/
def State.startBulbCheck (s : State) : State :=
  let s₁ := s.mapLamps LampState.release
  if s.tables.system.bulbCheck = 0 then ((s₁.setBulbCheck none).recomputeLamps).reportBulbEnd
  else (s₁.setBulbCheck (some s.tables.system.bulbCheck)).recomputeLamps

/-- The bulb check ends: demand comes from the telltale states alone (R93). -/
def State.endBulbCheck (s : State) : State := (s.setBulbCheck none).recomputeLamps

/-- Backup offers on a channel's entry into OPEN or SHORT_PROTECT, in rising index (R92). DESIGN CHOICE (assumption log entry 37):
whether a telltale is ON, holds none and has a backup code is read at its own turn, after the earlier offers of the entry. -/
def backupOffers (ch : Fin 32) (s : State) : State :=
  (List.finRange 64).foldl
    (fun s i =>
      let r := s.telltales.records[i]
      let e := s.tables.telltale[i]
      if s.namesLamp i ch && r.state == .on && r.held == .none && !(e.backup == 0) then
        whole (fun s => s.offerPresentation i .backup e.backup) s
      else s)
    s

/-- A channel enters OPEN or SHORT_PROTECT: its fault is raised, then come the backup offers (R90, R91, R92). -/
def lampFails (ch : Fin 32) (l : LampState) (c : FaultClass) (s : State) : State :=
  backupOffers ch (raiseItem c ch.val (s.setLamp ch l))

/-! ### Telltales at ignition entries, writes and resets -/

/-- A telltale is set to OFF with condition false, as STANDBY entry and a TELLTALES section reset do (R86, R97). -/
def State.telltaleCleared (s : State) (i : Fin 64) : Change :=
  if (s.telltales.records[i]).state = .off then .silent (s.setCondition i false) else (s.setCondition i false).telltaleOff i

/-- STANDBY entry at one telltale (R86). -/
def State.telltaleStandby (s : State) (i : Fin 64) : Change :=
  if (s.tables.telltale[i]).standbyVisible then
    if (s.telltales.records[i]).state = .latched then s.telltaleOff i else .silent s
  else s.telltaleCleared i

/-- Every telltale takes a step in rising index, and each step is whole before the next (R80, R104). -/
def eachTelltale (f : State → Fin 64 → Change) (s : State) : State :=
  (List.finRange 64).foldl (fun s i => whole (fun s => f s i) s) s

/-- A fresh evaluation of each telltale that is active now and was not in a former part state (R80, R86, R87). -/
def freshTelltales (before : PartState) (s : State) : State :=
  eachTelltale
    (fun s i => if s.telltaleActive i && !activeIn before s.tables.telltale[i] then s.evaluateFresh i else .silent s)
    s

/-- STANDBY entry at the Telltale Unit (R86, R93). -/
def telltalesStandbyEntry (before : PartState) (s : State) : State :=
  (freshTelltales before (eachTelltale State.telltaleStandby s)).endBulbCheck

/-- HOMING entry at the Telltale Unit (R87). -/
def telltalesHomingEntry (before : PartState) (s : State) : State := freshTelltales before s.startBulbCheck

/-- An accepted telltale entry write, the entry being in the table already: OFF, lamps recomputed, a fresh evaluation if
active (R94). -/
def telltaleWritten (i : Fin 64) (lampBefore : Option (Fin 32)) (s : State) : State :=
  let s₁ := whole (fun s => ((s.setCondition i false).telltaleOff i).andThen fun s => s.recomputeNamed lampBefore) s
  if s₁.telltaleActive i then whole (fun s => s.evaluateFresh i) s₁ else s₁

/-- A TELLTALES section reset (R97). -/
def resetTelltales (s : State) : State :=
  let s₁ := (eachTelltale State.telltaleCleared s).mapLamps LampState.clear
  (eachTelltale (fun s i => if s.telltaleActive i then s.evaluateFresh i else .silent s) s₁).recomputeLamps

/-- Warm start and SLEEP entry at the Telltale Unit (R96). -/
def State.telltalesWarm (s : State) : State :=
  { s with telltales :=
    { records := Vector.replicate 64 .cold,
      lamps := Vector.ofFn fun ch : Fin 32 => (s.telltales.lamps[ch]).darken,
      bulbCheck := none } }

/-! ### Message Unit -/

/-- The acknowledge detector is reset (R105). -/
def State.resetDetector (s : State) : State := { s with messages := { s.messages with lastSeen := .none } }

/-- Warm start and SLEEP entry at the Message Unit (R116). -/
def State.messagesWarm (s : State) : State :=
  { s with messages :=
    { current := none, stack := [], ring := [], lastSeen := .none, requests := Vector.replicate 64 none,
      arbiter := .idle, load := s.messages.load } }

/-- Presentation held becomes NONE for every telltale (R85). -/
def State.forgetHeld (s : State) : State :=
  { s with telltales := { s.telltales with
      records := Vector.ofFn fun i : Fin 64 => { s.telltales.records[i] with held := .none } } }

/-- The Message Unit's places, requests, arbiter and load state at a PRESENTATION section reset (R117). -/
def Messages.sectionReset (m : Messages) : Messages :=
  { current := none, stack := [], ring := [], lastSeen := m.lastSeen, requests := Vector.replicate 64 none,
    arbiter := .idle, load := .normal }

/-- A PRESENTATION section reset (R117). -/
def resetPresentation (s : State) : State :=
  let s₁ := State.forgetHeld { s with messages := s.messages.sectionReset }
  match s.messages.current with
  | none => s₁
  | some _ => offer s₁.messages.presentRecord s₁

end Sys2Proof.Machine
end

