-- ==== Sys2Proof/Machine/PartStates.lean ====
section
/-! DEFINITION. Time Base and Ignition Control's moves of the part (R13, R150 to R162): the entries into each state of the
part, warm start, cold start, and the two moves made at the end of an event (R156, R158). -/

namespace Sys2Proof.Machine

/-- Set the part's state (R151). -/
def State.setPart (s : State) (p : PartState) : State := { s with time := { s.time with part := p } }

/-! ### Silence timers (R13, R15) -/

/-- A silence timer's start or restart, which closes the episode; PortSilence 0 leaves it stopped (R13, R15). -/
def State.silenceStart (s : State) : Silence :=
  { timer := if s.tables.system.portSilence = 0 then none else some s.tables.system.portSilence, episode := false }

/-- Set both ports' silence state. -/
def State.setSilence (s : State) (x : Silence) : State :=
  { s with intake := { s.intake with silenceA := x, silenceB := x } }

/-- Empty every forward memory (R16). -/
def State.emptyMemories (s : State) : State :=
  { s with intake := { s.intake with forwardMemory := Vector.replicate 96 none } }

/-! ### The quiet timer (R158) -/

/-- The quiet timer's start or restart: ELAPSED at once with QuietTime 0 (R158). -/
def State.quietStart (s : State) : QuietTimer :=
  if s.tables.system.quietTime = 0 then .elapsed else .running s.tables.system.quietTime

/-- Set the quiet timer (R158). -/
def State.setQuiet (s : State) (q : QuietTimer) : State := { s with time := { s.time with quiet := q } }

/-! ### Slot 126 (R150) -/

/-- What slot 126 is written with (R150). -/
def State.ignitionContent (s : State) : Slot :=
  { value := if s.time.filteredIgnition then 1 else 0, quality := .fresh, clamped := false, age := 0 }

/-- Write slot 126 (R150). -/
def writeIgnition (s : State) : State := writeDerived 126 s.ignitionContent s

/-! ### Entries -/

/-- RUN entry (R13, R156). -/
def State.runEntry (s : State) : State := (s.setPart .run).setSilence s.silenceStart

/-- Time Base and Ignition Control's own part of HOMING entry (R155). -/
def State.timeHomingEntry (s : State) : State :=
  { s with time := { s.time with part := .homing, quiet := .stopped, bulbCheckEnded := false, settle := none } }

/-- HOMING entry from a former state of the part (R43, R70, R87, R155). -/
def homingEntry (s : State) : State :=
  (telltalesHomingEntry s.time.part (s.timeHomingEntry.gaugesHomingEntry)).setPlausibility
    (some Config.plausibilityInterval)

/-- Time Base and Ignition Control's own part of STANDBY entry (R157, R158). -/
def State.timeStandbyEntry (s : State) : State :=
  { s with time := { s.time with part := .standby, quiet := s.quietStart, settle := none } }

/-- STANDBY entry from a former state of the part (R13, R50, R67, R86, R157). -/
def standbyEntry (s : State) : State :=
  telltalesStandbyEntry s.time.part (((s.timeStandbyEntry.setSilence .cold).speedStandby).gaugesStandbyEntry)

/-- HOMING with the filtered level on, STANDBY with it off (R152, R154). -/
def enterByLevel (s : State) : State := if s.time.filteredIgnition then homingEntry s else standbyEntry s

/-- The blocks that warm start and SLEEP entry bring to the same values: intake, signals, speed, telltales, messages, the
egress queue and port B (R16, R39, R51, R96, R116, R184). No reader acts on these changes (R39). -/
def State.quietBlocks (s : State) : State :=
  let s₁ := ((s.emptyMemories.setSilence .cold).signalsWarm).speedWarm
  let s₂ := (s₁.telltalesWarm).messagesWarm
  { s₂ with link := { s₂.link with egress := [] }, portB := .cold }

/-- Slots 126 and 127 at warm start and SLEEP entry (R150, R172). -/
def State.storeLast (s : State) : State := (s.setSlot 126 s.ignitionContent).storeSevere

/-- Time Base and Ignition Control's own part of SLEEP entry (R159). -/
def State.timeSleepEntry (s : State) : State :=
  { s with time := { s.time with part := .sleep, sleepMark := s.time.mono, quiet := .stopped, settle := none } }

/-- SLEEP entry (R159). -/
def State.sleepEntry (s : State) : State :=
  (((s.timeSleepEntry.quietBlocks).setFilterTick none).crewSleep).storeLast

/-- The settle interval's start: with WakeSettle 0 it expires at the first ms advance (R154). -/
def State.settleStart (s : State) : Timer := some (max 1 s.tables.system.wakeSettle)

/-- Start the settle interval (R154). -/
def State.startSettle (s : State) : State := { s with time := { s.time with settle := s.settleStart } }

/-- WAKING entry from SLEEP (R153). -/
def wakingEntry (s : State) : State := (writeIgnition (wakeCredit (s.setPart .waking))).startSettle

/-- Time Base and Ignition Control's own part of a warm start (R162). -/
def State.timeWarm (s : State) : State :=
  { s with time := { s.time with
      part := if s.time.started then .waking else .unconfigured,
      settle := if s.time.started then s.settleStart else none,
      quiet := .stopped, homingDone := false, bulbCheckEnded := false, atRest := false } }

/-- Warm start; taken in SLEEP, the wake credit comes first (R134, R162). -/
def State.warmStart (s : State) : State :=
  let s₁ := if s.time.part = .sleep then s.creditCrew s.sleepGap else s
  (((s₁.timeWarm.quietBlocks).gaugesWarm).crewWarm).storeLast

/-- The part moves to RUN when homing is done and the bulb check has ended (R156), and to SLEEP when the quiet timer has
elapsed with every channel at rest (R158), at the end of the event that leaves it so. -/
def conclude (s : State) : State :=
  match s.time.part with
  | .homing => if s.time.homingDone && s.time.bulbCheckEnded then s.runEntry else s
  | .standby => if s.time.quiet == .elapsed && s.time.atRest then s.sleepEntry else s
  | .unconfigured | .waking | .run | .sleep => s

/-- Cold start: every block at its cold start values, then TIME_LOST (R161, R172). -/
def coldStart (s : State) : State :=
  raiseItem .timeLost 0 (State.cold true s.resetHeld s.rawIgnition s.choices s.pending)

end Sys2Proof.Machine
end

