-- ==== Sys2Proof/Machine/Writes.lean ====
section
/-! DEFINITION. Accepted table writes with their effects in use (R12, R20, R31, R49, R53, R72, R94, R105, R108, R119, R160,
R164; chapter 10, section 5), and the checks of the owning blocks (R177, check 6). -/

namespace Sys2Proof.Machine

/-- What a write writes: every field (LOAD), or one field by its id (SET_FIELD). -/
inductive Written where
  | all
  | field (id : Nat)
  deriving DecidableEq, Repr

/-- The write covers a field (R160). -/
def Written.covers (w : Written) (id : Nat) : Bool :=
  match w with
  | .all => true
  | .field k => k == id

/-- Replace the tables. -/
def State.setTables (s : State) (t : Tables) : State := { s with tables := t }

/-- Set an entry's forward memory (R10, R12). -/
def State.setMemory (s : State) (i : Fin 96) (m : Option (List Byte)) : State :=
  { s with intake := { s.intake with forwardMemory := s.intake.forwardMemory.set i m } }

/-- Write an intake entry: its forward memory is emptied (R12). -/
def State.writeIntake (s : State) (i : Fin 96) (e : IntakeEntry) : State :=
  (s.setTables { s.tables with intake := s.tables.intake.set i e }).setMemory i none

/-- Write a map entry: nothing else changes (R20). -/
def State.writeMap (s : State) (i : Fin 192) (e : MapEntry) : State :=
  s.setTables { s.tables with map := s.tables.map.set i e }

/-- Write a Slot Config entry: its slot becomes UNKNOWN (R31). -/
def writeSlotConfig (i : Fin 120) (e : SlotConfig) (s : State) : State :=
  slotConfigWritten i (s.setTables { s.tables with slotConfig := s.tables.slotConfig.set i e })

/-- Write a curve entry: nothing else changes (R53). -/
def State.writeCurve (s : State) (i : Fin 12) (e : Curve) : State :=
  s.setTables { s.tables with curve := s.tables.curve.set i e }

/-- Write a gauge entry: its channel re-homes, or becomes UNHOMED (R72). -/
def State.writeGauge (s : State) (i : Fin 6) (e : GaugeEntry) : State :=
  (s.setTables { s.tables with gauge := s.tables.gauge.set i e }).gaugeWritten i

/-- Write a telltale entry (R94). -/
def writeTelltale (i : Fin 64) (e : TelltaleEntry) (s : State) : State :=
  telltaleWritten i (s.tables.telltale[i]).lamp (s.setTables { s.tables with telltale := s.tables.telltale.set i e })

/-- Write a chime pattern: the write is a choice point (R108, R110). -/
def State.writeChime (s : State) (i : Fin 8) (e : ChimePattern) : State :=
  (s.setTables { s.tables with chime := s.tables.chime.set i e }).choose

/-- Write Crew Config: slots 122 to 125 are written (R119). -/
def writeCrewConfig (e : CrewConfig) (s : State) : State := writeRemaining (s.setTables { s.tables with crew := e })

/-- Write System Config: fields 1 and 2 are the speed slots (R49), field 5 the acknowledge slot (R105, R160). -/
def writeSystemConfig (e : SystemConfig) (w : Written) (s : State) : State :=
  let s₁ := s.setTables { s.tables with system := e }
  let s₂ := if w.covers 5 then s₁.resetDetector else s₁
  if w.covers 1 || w.covers 2 then writeSelection s₂.relearn else s₂

/-- Write a Fault Policy entry: slot 127 is written (R164). -/
def writePolicy (i : Fin 16) (e : FaultPolicy) (s : State) : State :=
  publishSevere (s.setTables { s.tables with policy := s.tables.policy.set i e })

/-- An index of a table as a number below its size. -/
def natIndex (n k : Nat) : Option (Fin n) := if h : k < n then some ⟨k, h⟩ else none

/-- The bytes of a held entry (R178, R191); none for an index outside the table. -/
def State.entryBytes (s : State) (t : TableId) (k : Nat) : Option (List Byte) :=
  match t with
  | .intake => (natIndex 96 k).map fun i => (s.tables.intake[i]).bytes
  | .map => (natIndex 192 k).map fun i => (s.tables.map[i]).bytes
  | .slotConfig => (natIndex 120 k).map fun i => (s.tables.slotConfig[i]).bytes
  | .curve => (natIndex 12 k).map fun i => (s.tables.curve[i]).bytes
  | .gauge => (natIndex 6 k).map fun i => (s.tables.gauge[i]).bytes
  | .telltale => (natIndex 64 k).map fun i => (s.tables.telltale[i]).bytes
  | .chime => (natIndex 8 k).map fun i => (s.tables.chime[i]).bytes
  | .crewConfig => (natIndex 1 k).map fun _ => s.tables.crew.bytes
  | .systemConfig => (natIndex 1 k).map fun _ => s.tables.system.bytes
  | .faultPolicy => (natIndex 16 k).map fun i => (s.tables.policy[i]).bytes

/-- An entry that passes its block's check is written; one that does not gives the block's status (R177). -/
def accept {α : Type} (e : Option α) (ok : α → Bool) (write : α → State) : Except ReplyStatus State :=
  match e with
  | none => .error .range
  | some e => if ok e then .ok (write e) else .error .range

/-- A curve entry is checked for range, then for order (R52). -/
def acceptCurve (e : Option Curve) (write : Curve → State) : Except ReplyStatus State :=
  match e with
  | none => .error .range
  | some e => if e.inRange then (if e.inOrder then .ok (write e) else .error .order) else .error .range

/-- Write an entry from its bytes: the owning block's check, then the write with its effect in use (R177, R178). The bytes of
a longer payload are not read. -/
def writeEntry (t : TableId) (k : Nat) (l : List Byte) (w : Written) (s : State) : Except ReplyStatus State :=
  match t with
  | .intake =>
    match natIndex 96 k with
    | none => .error .badIndex
    | some i => accept (IntakeEntry.ofBytes l) IntakeEntry.ok (s.writeIntake i)
  | .map =>
    match natIndex 192 k with
    | none => .error .badIndex
    | some i => accept (MapEntry.ofBytes l) MapEntry.ok (s.writeMap i)
  | .slotConfig =>
    match natIndex 120 k with
    | none => .error .badIndex
    | some i => accept (SlotConfig.ofBytes l) SlotConfig.ok (fun e => writeSlotConfig i e s)
  | .curve =>
    match natIndex 12 k with
    | none => .error .badIndex
    | some i => acceptCurve (Curve.ofBytes l) (s.writeCurve i)
  | .gauge =>
    match natIndex 6 k with
    | none => .error .badIndex
    | some i => accept (GaugeEntry.ofBytes l) GaugeEntry.ok (s.writeGauge i)
  | .telltale =>
    match natIndex 64 k with
    | none => .error .badIndex
    | some i => accept (TelltaleEntry.ofBytes l) TelltaleEntry.ok (fun e => writeTelltale i e s)
  | .chime =>
    match natIndex 8 k with
    | none => .error .badIndex
    | some i => accept (ChimePattern.ofBytes l) ChimePattern.ok (s.writeChime i)
  | .crewConfig =>
    match natIndex 1 k with
    | none => .error .badIndex
    | some _ => accept (CrewConfig.ofBytes l) CrewConfig.ok (fun e => writeCrewConfig e s)
  | .systemConfig =>
    match natIndex 1 k with
    | none => .error .badIndex
    | some _ => accept (SystemConfig.ofBytes l) SystemConfig.ok (fun e => writeSystemConfig e w s)
  | .faultPolicy =>
    match natIndex 16 k with
    | none => .error .badIndex
    | some i => accept (FaultPolicy.ofBytes l) (fun _ => true) (fun e => writePolicy i e s)

/-! ### The requests' checks and effects, for either authority (R177, R178) -/

/-- What a SET_FIELD or READ_FIELD names, once checks 2 to 4 pass: the table, the index, the field's id and place, and the
entry's bytes as they stand. -/
structure NamedField where
  table : TableId
  index : Nat
  id : Nat
  layout : FieldLayout
  entry : List Byte
  deriving DecidableEq, Repr

/-- Checks 2 to 4: table, index, field (R177). -/
def State.nameField (s : State) (table index field : Byte) : Except ReplyStatus NamedField :=
  match byteEnum tableCodes table with
  | none => .error .badTable
  | some t =>
    match s.entryBytes t index.toNat with
    | none => .error .badIndex
    | some l =>
      match t.fields[field.toNat]? with
      | none => .error .badField
      | some f => .ok ⟨t, index.toNat, field.toNat, f, l⟩

/-- A SET_FIELD's check 6 and write: the field replaced, the others as they stand (R178, R185). -/
def NamedField.write (f : NamedField) (value : Word32) (s : State) : Except ReplyStatus State :=
  if f.layout.fits value then writeEntry f.table f.index (f.layout.splice f.entry value) (.field f.id) s
  else .error .range

/-- A LOAD's checks and write; an entry too short for its table is refused before check 4 (R177, R178). -/
def loadEntry (table index : Byte) (entry : List Byte) (s : State) : Except ReplyStatus State :=
  match byteEnum tableCodes table with
  | none => .error .badTable
  | some t =>
    match s.entryBytes t index.toNat with
    | none => .error .badIndex
    | some _ =>
      if entry.length < t.entryLength then .error .range
      else writeEntry t index.toNat (entry.take t.entryLength) .all s

/-- A READ's checks and data (R178). -/
def State.readEntry (s : State) (table index : Byte) : Except ReplyStatus (List Byte) :=
  match byteEnum tableCodes table with
  | none => .error .badTable
  | some t =>
    match s.entryBytes t index.toNat with
    | none => .error .badIndex
    | some l => .ok l

/-- A READ_FIELD's checks and value (R178, R187). -/
def State.readField (s : State) (table index field : Byte) : Except ReplyStatus Word32 :=
  match s.nameField table index field with
  | .error e => .error e
  | .ok f => .ok (f.layout.value f.entry)

/-! ### Clearing faults (R170, R171) -/

/-- The classes that a clear clears: those named, and under SERVICE authority service-clearable (R170). -/
def State.clears (s : State) (classes : Word16) (service : Bool) (c : Fin 16) : Bool :=
  classes.getLsbD c.val && (!service || (s.tables.policy[c]).serviceClearable)

/-- The fault state after a clear; the capture goes with its class when that class is cleared (R167, R170). -/
def Faults.clear (f : Faults) (p : Fin 16 → Bool) : Faults :=
  let status := Vector.ofFn fun c : Fin 16 => f.status[c] && !p c
  match f.capture with
  | none => { f with status := status }
  | some k =>
    if f.status[k.faultClass.number] && p k.faultClass.number then { status := status, capture := none, overflow := false }
    else { f with status := status }

/-- A CLEAR_FAULTS: slot 127 is written if any status changed (R170). -/
def clearFaultClasses (classes : Word16) (service : Bool) (s : State) : State :=
  let f := s.faults.clear (s.clears classes service)
  let s₁ := { s with faults := f }
  if f.status = s.faults.status then s₁ else publishSevere s₁

/-- A named class is still set after the clear (R170). -/
def Faults.leaves (f : Faults) (classes : Word16) : Bool :=
  (List.finRange 16).any fun c => classes.getLsbD c.val && f.status[c]

/-- The status of the clear's reply, and the class statuses it carries, both as they stand after the clear itself (R170). -/
def State.clearReply (s : State) (classes : Word16) (service : Bool) : ReplyStatus × List Byte :=
  let f := s.faults.clear (s.clears classes service)
  (if f.leaves classes then .partialClear else .ok, statusBytes f.status)

/-- A FAULTS section reset (R171). -/
def resetFaults (s : State) : State := publishSevere { s with faults := .cold }

end Sys2Proof.Machine
end

