-- ==== Sys2Proof/Machine/Service.lean ====
section
/-! DEFINITION. Service handling on port B (R181 to R184, R190): the busy test, the checks, the four requests, reply frames, and
the reading of a request frame. -/

namespace Sys2Proof.Machine

/-- Replace the reply queue (R184). -/
def State.setReplies (s : State) (q : List QueuedReply) : State := { s with portB := { s.portB with queue := q } }

/-- Place a reply frame, with its expiry 250 ms ahead (R184). -/
def State.placeReply (s : State) (f : ReplyFrame) : State :=
  s.setReplies (s.portB.queue ++ [⟨f, Config.replyLifetime⟩])

/-- A reply status's code (R187). -/
def ReplyStatus.code (r : ReplyStatus) : Byte := enumByte replyStatusCodes r

/-- A reply frame: the request code in the high four bits of byte 0, the status in the low four, then the data (R190). -/
def replyFrame (reply : ReplyAddress) (code : Byte) (status : ReplyStatus) (data : List Byte) : ReplyFrame :=
  { address := reply, data := ((code <<< 4) ||| (status.code &&& 0x0F)) :: data }

/-- Raise MGMT_REFUSED with a status, or BUSY (R177, R181). -/
def raiseRefused (r : ReplyStatus) (s : State) : State := raise .mgmtRefused (.item r.code) s

/-- A refused service request: MGMT_REFUSED, then the reply frame with its status alone (R181). -/
def refuseService (reply : ReplyAddress) (code : Byte) (r : ReplyStatus) (s : State) : State :=
  (raiseRefused r s).placeReply (replyFrame reply code r [])

/-- With four frames queued a request is not executed and has no reply: MGMT_REFUSED is raised with BUSY (R181). -/
def unlessBusy (s : State) (handle : State → State) : State :=
  if Config.replyPlaces ≤ s.portB.queue.length then raiseRefused .busy s else handle s

/-- SERVICE authority may write the y of a curve point, and F or O of a map entry whose calibration flag is true (R182). -/
def State.servicePermits (s : State) (f : NamedField) : Bool :=
  match f.table with
  | .curve => decide (3 ≤ f.id) && f.id % 2 == 1
  | .map =>
    (f.id == 10 || f.id == 12) &&
      (match natIndex 192 f.index with
        | none => false
        | some i => (s.tables.map[i]).calibration)
  | .intake | .slotConfig | .gauge | .telltale | .chime | .crewConfig | .systemConfig | .faultPolicy => false

/-- The checks and the write of a SERVICE SET_FIELD (R182). -/
def serviceWrite (table index field : Byte) (value : Word32) (s : State) : Except ReplyStatus State :=
  match s.nameField table index field with
  | .error r => .error r
  | .ok f =>
    if s.servicePermits f then
      if s.workshopCondition then f.write value s else .error .notStationary
    else .error .notPermitted

/-- A SERVICE SET_FIELD (R182); its code is 3 (R187). -/
def serviceSetField (reply : ReplyAddress) (table index field : Byte) (value : Word32) (s : State) : State :=
  unlessBusy s fun s =>
    match serviceWrite table index field value s with
    | .error r => refuseService reply 3 r s
    | .ok s₁ => s₁.placeReply (replyFrame reply 3 .ok [])

/-- A service READ_FIELD (R183); its code is 4. -/
def serviceReadField (reply : ReplyAddress) (table index field : Byte) (s : State) : State :=
  unlessBusy s fun s =>
    match s.readField table index field with
    | .error r => refuseService reply 4 r s
    | .ok v => s.placeReply (replyFrame reply 4 .ok (wordBytes v))

/-- A service CLEAR_FAULTS (R170, R183); its code is 6. -/
def serviceClearFaults (reply : ReplyAddress) (classes : Word16) (s : State) : State :=
  unlessBusy s fun s =>
    let answer := s.clearReply classes true
    (clearFaultClasses classes true s).placeReply (replyFrame reply 6 answer.1 answer.2)

/-- READ_FAULTS' data: the status set, the captured class with the empty and overflow bits, the capture's monotonic stamp
(R183, R190). DESIGN CHOICE (assumption log entry 40): with an empty capture the class bits 0 to 3 of byte 3, for which R190 states
no value, are 0; so are its bits 6 and 7 always. -/
def Faults.report (f : Faults) : List Byte :=
  let bit5 : Byte := if f.overflow then 0x20 else 0
  statusBytes f.status ++
  (match f.capture with
    | none => (0x10 ||| bit5) :: wordBytes 0
    | some c => (BitVec.ofNat 8 c.faultClass.number.val ||| bit5) :: wordBytes c.stamp.mono)

/-- READ_FAULTS (R183); its code is 10. -/
def serviceReadFaults (reply : ReplyAddress) (s : State) : State :=
  unlessBusy s fun s => s.placeReply (replyFrame reply 10 .ok s.faults.report)

/-- A request frame that fails check 1: too short, or a code that is not known on port B (R181, R190). -/
def serviceMalformed (reply : ReplyAddress) (code : Byte) (s : State) : State :=
  unlessBusy s (refuseService reply code .range)

/-- A service request frame's data bytes, read and handled (R181, R190). -/
def serviceFrame (reply : ReplyAddress) (data : List Byte) (s : State) : State :=
  match data with
  | 3 :: table :: index :: field :: v0 :: v1 :: v2 :: v3 :: _ =>
    serviceSetField reply table index field (wordAt [v0, v1, v2, v3] 0) s
  | 4 :: table :: index :: field :: _ => serviceReadField reply table index field s
  | 6 :: c0 :: c1 :: _ => serviceClearFaults reply (BitVec.ofNat 16 (bytesNat [c0, c1])) s
  | 10 :: _ => serviceReadFaults reply s
  | code :: _ => serviceMalformed reply code s
  | [] => serviceMalformed reply 0 s

/-! ### Port B's transmitter (R184) -/

/-- Set the transmitter (R184). -/
def State.setTransmit (s : State) (t : PortTransmit) : State := { s with portB := { s.portB with transmit := t } }

/-- Port B starts sending the head when it is not sending (R184). -/
def State.sendReply (s : State) : State :=
  match s.portB.transmit, s.portB.queue with
  | .idle, q :: _ => s.setTransmit (.sending q.frame true)
  | .idle, [] => s
  | .sending _ _, _ => s

/-- A completed transmission: the frame, still at the head, is removed (R184). -/
def State.replySent (s : State) : State :=
  match s.portB.transmit with
  | .idle => s
  | .sending _ atHead => (if atHead then s.setReplies s.portB.queue.tail else s).setTransmit .idle

/-- A failed transmission: the frame stays at the head, to be sent again, unless it has expired meanwhile (R184). -/
def State.replyNotSent (s : State) : State :=
  match s.portB.transmit with
  | .idle => s
  | .sending _ _ => s.setTransmit .idle

/-- The transmitter when the frame at a place is removed at its expiry (R184). -/
def PortTransmit.expire (t : PortTransmit) (place : Nat) : PortTransmit :=
  match t with
  | .idle => .idle
  | .sending f atHead => .sending f (atHead && !(place == 0))

/-- A frame whose expiry is due is removed, at the head or behind it (R184). -/
def State.replyExpired (s : State) (place : Nat) : State :=
  match s.portB.queue[place]? with
  | none => s
  | some q =>
    if q.left = 0 then (s.setReplies (s.portB.queue.eraseIdx place)).setTransmit (s.portB.transmit.expire place) else s

end Sys2Proof.Machine
end

