-- ==== Sys2Proof/Machine/Intake.lean ====
section
/-! DEFINITION. The Frame Intake (R2, R5 to R15): matching, the effects of a matched frame, decoding, forwarding, the hand-off
of service requests, silence expiries and the INTAKE section reset. -/

namespace Sys2Proof.Machine

/-! ### Matching (R5, R6) -/

/-- The entry's ports name the port (R5). -/
def portClaimed (ports : PortSet) (p : Port) : Bool :=
  match ports, p with
  | .both, _ => true
  | .a, .a => true
  | .b, .b => true
  | .a, .b => false
  | .b, .a => false

/-- A frame matches an entry (R5). -/
def IntakeEntry.claims (e : IntakeEntry) (f : Frame) : Bool :=
  e.valid && portClaimed e.ports f.port && e.idKind == frameIdKind f.id &&
    (frameIdNumber f.id &&& e.idMask) == (e.idValue &&& e.idMask)

/-- The first entry that a frame matches (R6). -/
def State.matchFrame (s : State) (f : Frame) : Option (Fin 96) :=
  (List.finRange 96).find? fun i => (s.tables.intake[i]).claims f

/-! ### Matched frames (R7, R13, R158) -/

/-- Restart one port's silence timer and close its episode (R13). -/
def State.restartSilence (s : State) (p : Port) : State :=
  match p with
  | .a => { s with intake := { s.intake with silenceA := s.silenceStart } }
  | .b => { s with intake := { s.intake with silenceB := s.silenceStart } }

/-- A matched frame restarts the quiet timer in STANDBY and its port's silence timer in RUN (R7). -/
def State.matchedFrame (s : State) (p : Port) : State :=
  match s.time.part with
  | .standby => s.setQuiet s.quietStart
  | .run => s.restartSilence p
  | .unconfigured | .waking | .homing | .sleep => s

/-! ### Forwarding (R9, R10) -/

/-- The FORWARD record of a frame under an entry (R9). -/
def forwardRecord (i : Fin 96) (f : Frame) : EgressRecord := .forward i f.port f.id f.data

/-- The forwarding decision, after the map range (R9, R10). -/
def forwardFrame (i : Fin 96) (f : Frame) (s : State) : State :=
  if s.time.part.driving then
    match (s.tables.intake[i]).forwardMode with
    | .never => s
    | .always => offer (forwardRecord i f) s
    | .onChange =>
      if s.intake.forwardMemory[i] = some f.data then s
      else match egressAccept s.link.egress (forwardRecord i f) with
        | some q => (s.setEgress q).setMemory i (some f.data)
        | none => offer (forwardRecord i f) s
  else s

/-! ### Arrivals (R2, R8, R11) -/

/-- What a matched frame's entry does with it (R8, R9, R11). -/
def actOnFrame (i : Fin 96) (f : Frame) (s : State) : State :=
  let e := s.tables.intake[i]
  match e.action with
  | .decode => forwardFrame i f (runMapRange f e.mapFirst e.mapCount s)
  | .manage => serviceFrame ⟨e.idKind, e.replyId⟩ f.data s

/-- A frame arrival, handled whole (R2, R6). -/
def frameArrived (f : Frame) (s : State) : State :=
  if f.remote then s
  else match s.matchFrame f with
    | none => s
    | some i => actOnFrame i f (s.matchedFrame f.port)

/-! ### Silence expiries and the section reset (R14, R16) -/

/-- One port's silence state (R13). -/
def Intake.silence (x : Intake) (p : Port) : Silence :=
  match p with
  | .a => x.silenceA
  | .b => x.silenceB

/-- Open a port's silence episode with its timer stopped (R14). -/
def State.openEpisode (s : State) (p : Port) : State :=
  match p with
  | .a => { s with intake := { s.intake with silenceA := { timer := none, episode := true } } }
  | .b => { s with intake := { s.intake with silenceB := { timer := none, episode := true } } }

/-- A port's code as a fault detail (R163, R185). -/
def portNumber (p : Port) : Nat :=
  match p with
  | .a => 0
  | .b => 1

/-- A silence expiry: PORT_SILENT, and the episode opens (R14). -/
def silenceExpired (p : Port) (s : State) : State := raiseItem .portSilent (portNumber p) (s.openEpisode p)

/-- An INTAKE section reset (R16). -/
def State.resetIntake (s : State) : State :=
  if s.time.part = .run then s.emptyMemories.setSilence s.silenceStart else s.emptyMemories.setSilence .cold

end Sys2Proof.Machine
end

