-- ==== Sys2Proof/Machine/Replies.lean ====
section
/-! DEFINITION. The data of STATE replies (R179, R189). -/

namespace Sys2Proof.Machine

/-- The ms left in a timer; 0 when it is stopped. -/
def timeLeft (t : Timer) : Nat := t.getD 0

/-- The target kinds of a STATE request, in the order of their codes (R189). -/
inductive StateTarget where
  | slot
  | gauge
  | telltale
  | lamp
  | presentation
  | crew
  | speed
  | faults
  | time
  deriving DecidableEq, Repr

/-- The target kinds by code (R189). -/
def stateTargetCodes : List StateTarget := [.slot, .gauge, .telltale, .lamp, .presentation, .crew, .speed, .faults, .time]

/-- A slot: 8 bytes (R35, R189). -/
def Slot.stateBytes (x : Slot) : List Byte :=
  wordBytes x.value ++ [enumByte qualityCodes x.quality, flagByte x.clamped] ++ natBytes 2 x.age

/-- A gauge channel: 10 bytes (R55, R189). -/
def Channel.stateBytes (c : Channel) : List Byte :=
  [enumByte channelStateCodes c.state] ++ natBytes 2 c.target ++ natBytes 2 c.filter ++ natBytes 2 c.position ++
  [BitVec.ofNat 8 c.stallCount] ++ natBytes 2 c.homingDistance

/-- A telltale: 6 bytes (R79, R189). -/
def Telltale.stateBytes (t : Telltale) : List Byte :=
  [enumByte telltaleStateCodes t.state, flagByte t.condition] ++ natBytes 2 (timeLeft t.debounce) ++
  [flagByte t.acknowledged, enumByte heldCodes t.held]

/-- What gives a channel's mode: 0xFE the bulb check, else the governing telltale, 0xFF none (R189). -/
def State.governingByte (s : State) (ch : Fin 32) : Byte := if s.bulbDemands ch then 0xFE else noneByte (s.governing ch)

/-- A lamp channel: 5 bytes (R88, R189). A channel that is not driven is in no mode, sent as 0 (R185). -/
def State.lampBytes (s : State) (ch : Fin 32) : List Byte :=
  [enumByte lampStateCodes s.telltales.lamps[ch], flagByte (s.lampDemanded ch), flagByte (s.lampDriven ch),
    if s.lampDriven ch then enumByte lampModeCodes (s.lampMode ch) else 0, s.governingByte ch]

/-- Telltale indices in a number of places, 0xFF in the unused ones (R189). -/
def indexBytes (places : Nat) (l : List Presentation) : List Byte :=
  (l.map fun p => BitVec.ofNat 8 p.telltale.val) ++ List.replicate (places - l.length) 0xFF

/-- The arbiter's state, playing telltale, phase and time left (R114, R189). -/
def Arbiter.stateBytes (a : Arbiter) : List Byte :=
  match a with
  | .idle => [0, 0xFF, 0, 0, 0]
  | .playing t phase left _ =>
    [1, BitVec.ofNat 8 t.val, (match phase with | .on => 0 | .off => 1)] ++ natBytes 2 left

/-- The playing request's remaining repeats, 0 for UNLIMITED (R189). -/
def Messages.playingRemaining (m : Messages) : Byte :=
  match m.arbiter with
  | .idle => 0
  | .playing t _ _ _ =>
    match m.requests[t] with
    | none => 0
    | some r => BitVec.ofNat 8 (r.remaining.getD 0)

/-- The telltales whose request has a status, as a 64-bit set (R189). DESIGN CHOICE (assumption log entry 39): bit n stands for
telltale n, as bit n stands for class n in a class set (R187); R189 gives the sets no order of bits. -/
def Messages.requestSet (m : Messages) (st : RequestStatus) : List Byte :=
  natBytes 8 (setNat fun i : Fin 64 =>
    match m.requests[i] with
    | none => false
    | some r => r.status == st)

/-- A load state's code (R189). -/
def LoadState.code (l : LoadState) : Byte :=
  match l with
  | .normal => 0
  | .open => 1

/-- The presentation target: 50 bytes (R98, R114, R189). -/
def Messages.stateBytes (m : Messages) : List Byte :=
  presentationBytes m.current ++ [BitVec.ofNat 8 m.stack.length, BitVec.ofNat 8 m.ring.length] ++
  indexBytes Config.stackPlaces m.stack ++ indexBytes Config.ringPlaces m.ring ++ m.arbiter.stateBytes ++
  [m.load.code, m.playingRemaining] ++ m.requestSet .active ++ m.requestSet .spent

/-- A crew record's position: DRIVER 0, CO_DRIVER 1, DETACHED 2 (R120, R185). -/
def CardPlace.code (p : CardPlace) : Byte :=
  match p with
  | .attached x => enumByte crewPositionCodes x
  | .detached _ => 2

/-- A record's detached-at, 0 unless DETACHED (R189). -/
def CardPlace.since (p : CardPlace) : Word32 :=
  match p with
  | .attached _ => 0
  | .detached t => t

/-- A crew place: 27 bytes (R120, R189). -/
def crewPlaceBytes (r : Option CrewRecord) : List Byte :=
  match r with
  | none => List.replicate 27 0
  | some r =>
    [1] ++ wordBytes r.token ++ [r.place.code, enumByte activityCodes r.activity] ++ natBytes 4 r.continuous ++
    natBytes 4 r.daily ++ natBytes 4 r.run ++ [enumByte breakStateCodes r.breakState, flagByte r.provisional,
      flagByte r.contSeen, flagByte r.daySeen] ++ wordBytes r.place.since

/-- A pair value in 3 signed bytes, held to their range (R189). -/
def narrowBytes (x : Word32) : List Byte :=
  let v := max (-8388608) (min 8388607 x.toInt)
  natBytes 3 (v % 16777216).toNat

/-- The held pairs in 8 places of 6 bytes, 0 beyond the count (R42, R189). -/
def PairRing.stateBytes (r : PairRing) : List Byte :=
  ((r.held.map fun p => narrowBytes p.1 ++ narrowBytes p.2).flatten) ++ List.replicate (6 * (8 - r.held.length)) 0

/-- The speed arbitration target: 56 bytes; the last sum is held at the top of 32 bits (R42, R189). -/
def Speed.stateBytes (x : Speed) : List Byte :=
  [enumByte arbitrationCodes x.state, enumByte selectionCodes x.selection, BitVec.ofNat 8 x.ring.count,
    flagByte x.ring.lastSum.isSome] ++ natBytes 4 (min (x.ring.lastSum.getD 0) Config.word32Top) ++ x.ring.stateBytes

/-- A policy entry in one byte: bit 0 masked, bit 1 ADVISORY, bit 2 service-clearable (R189). -/
def FaultPolicy.stateByte (p : FaultPolicy) : Byte :=
  (if p.masked then 1 else 0) ||| (if p.severity = .advisory then 2 else 0) ||| (if p.serviceClearable then 4 else 0)

/-- The capture: present, class, detail in 10 bytes, stamps (R172, R189). -/
def captureBytes (c : Option Capture) : List Byte :=
  match c with
  | none => List.replicate 21 0
  | some c =>
    [1, BitVec.ofNat 8 c.faultClass.number.val] ++ (c.detail.bytes ++ List.replicate (10 - c.detail.bytes.length) 0) ++
    wordBytes c.stamp.mono ++ utcBytes c.stamp.utc

/-- The faults target: 41 bytes (R172, R189). -/
def State.faultsBytes (s : State) : List Byte :=
  statusBytes s.faults.status ++ captureBytes s.faults.capture ++
  [flagByte s.faults.overflow, (s.slot 127).value.setWidth 8] ++
  (List.finRange 16).map fun c => (s.tables.policy[c]).stateByte

/-- The quiet timer's status and time left (R158, R189). -/
def QuietTimer.stateBytes (q : QuietTimer) : List Byte :=
  match q with
  | .stopped => [0, 0, 0]
  | .running left => [1] ++ natBytes 2 left
  | .elapsed => [2, 0, 0]

/-- The time and ignition target: 23 bytes (R151, R189). -/
def TimeBase.stateBytes (t : TimeBase) : List Byte :=
  [enumByte partStateCodes t.part] ++ wordBytes t.ms ++ wordBytes t.mono ++ wordBytes t.utc ++
  [flagByte t.utcValid, flagByte t.filteredIgnition, flagByte t.started] ++ natBytes 2 (timeLeft t.settle) ++
  t.quiet.stateBytes ++ [flagByte t.homingDone, flagByte t.bulbCheckEnded]

/-- The data of an object of a target with an index; none outside its range (R179). -/
def indexed (n k : Nat) (f : Fin n → List Byte) : Except ReplyStatus (List Byte) :=
  match natIndex n k with
  | none => .error .badIndex
  | some i => .ok (f i)

/-- A STATE request's checks and data (R177, R179, R189). -/
def State.stateData (s : State) (target index : Byte) : Except ReplyStatus (List Byte) :=
  match byteEnum stateTargetCodes target with
  | none => .error .badTable
  | some .slot => indexed 128 index.toNat fun k => (s.slot k).stateBytes
  | some .gauge => indexed 6 index.toNat fun ch => (s.gauges.channels[ch]).stateBytes
  | some .telltale => indexed 64 index.toNat fun i => (s.telltales.records[i]).stateBytes
  | some .lamp => indexed 32 index.toNat s.lampBytes
  | some .presentation => .ok s.messages.stateBytes
  | some .crew => indexed 4 index.toNat fun p => crewPlaceBytes s.crew.places[p]
  | some .speed => .ok s.speed.stateBytes
  | some .faults => .ok s.faultsBytes
  | some .time => .ok s.time.stateBytes

end Sys2Proof.Machine
end

