-- ==== Sys2Proof/Machine/Management.lean ====
section
/-! DEFINITION. Management requests (R177 to R180, R187) and the reading of an upstream link record (R173, R175, R186). Each
request here is the whole event: checks, effects, then the REPLY. -/

namespace Sys2Proof.Machine

/-! ### Answers (R177) -/

/-- Offer a REPLY (R177, R187). -/
def reply (code : Byte) (tag : Word16) (r : ReplyStatus) (data : List Byte) (s : State) : State :=
  offer (.reply code tag r data) s

/-- A refused request: MGMT_REFUSED, then the REPLY with the status (R177). -/
def refuse (code : Byte) (tag : Word16) (r : ReplyStatus) (s : State) : State := reply code tag r [] (raiseRefused r s)

/-- The answer of a request that writes: the state after the write and its effects, then the REPLY (R177). -/
def answerWrite (code : Byte) (tag : Word16) (r : Except ReplyStatus State) (s : State) : State :=
  match r with
  | .error e => refuse code tag e s
  | .ok s₁ => reply code tag .ok [] s₁

/-- The answer of a request that reads (R177). -/
def answerRead (code : Byte) (tag : Word16) (r : Except ReplyStatus (List Byte)) (s : State) : State :=
  match r with
  | .error e => refuse code tag e s
  | .ok data => reply code tag .ok data s

/-! ### The requests, with their codes (R178 to R180, R187) -/

/-- LOAD, code 1 (R178). -/
def requestLoad (tag : Word16) (table index : Byte) (entry : List Byte) (s : State) : State :=
  answerWrite 1 tag (loadEntry table index entry s) s

/-- READ, code 2 (R178). -/
def requestRead (tag : Word16) (table index : Byte) (s : State) : State := answerRead 2 tag (s.readEntry table index) s

/-- SET_FIELD, code 3 (R178). CLUSTER authority passes check 5 (R177). -/
def requestSetField (tag : Word16) (table index field : Byte) (value : Word32) (s : State) : State :=
  answerWrite 3 tag
    (match s.nameField table index field with
      | .error e => .error e
      | .ok f => f.write value s) s

/-- READ_FIELD, code 4 (R178). -/
def requestReadField (tag : Word16) (table index field : Byte) (s : State) : State :=
  answerRead 4 tag
    (match s.readField table index field with
      | .error e => .error e
      | .ok v => .ok (wordBytes v)) s

/-- STATE, code 5 (R179). -/
def requestState (tag : Word16) (target index : Byte) (s : State) : State :=
  answerRead 5 tag (s.stateData target index) s

/-- CLEAR_FAULTS, code 6, with CLUSTER authority (R170, R180). -/
def requestClearFaults (tag : Word16) (classes : Word16) (s : State) : State :=
  let answer := s.clearReply classes false
  reply 6 tag answer.1 answer.2 (clearFaultClasses classes false s)

/-- The sections, in the order of R180. -/
inductive Section where
  | intake
  | signals
  | speed
  | gauges
  | telltales
  | presentation
  | crew
  | faults
  deriving DecidableEq, Repr

/-- The sections by code (R187). -/
def sectionCodes : List Section := [.intake, .signals, .speed, .gauges, .telltales, .presentation, .crew, .faults]

/-- The reset of one section (R16, R40, R51, R75, R97, R117, R145, R171). -/
def resetSection (x : Section) (s : State) : State :=
  match x with
  | .intake => s.resetIntake
  | .signals => resetSignals s
  | .speed => writeSelection s.relearn
  | .gauges => s.resetGauges
  | .telltales => resetTelltales s
  | .presentation => resetPresentation s
  | .crew => resetCrewSection s
  | .faults => resetFaults s

/-- RESET_SECTION, code 7 (R180). -/
def requestReset (tag : Word16) (x : Section) (s : State) : State := reply 7 tag .ok [] (resetSection x s)

/-- What START does, before its REPLY (R152, R180). -/
def startPart (s : State) : State :=
  if s.time.part = .unconfigured then enterByLevel { s with time := { s.time with started := true } } else s

/-- START, code 8 (R180). -/
def requestStart (tag : Word16) (s : State) : State := reply 8 tag .ok [] (startPart s)

/-- WARM_RESET, code 9: the REPLY, then the warm start (R180). -/
def requestWarmReset (tag : Word16) (s : State) : State := (reply 9 tag .ok [] s).warmStart

/-! ### The upstream record (R175, R177, R186, R187) -/

/-- The bytes of a request's payload from the arguments on, read and handled; the tag stands already (R187). A code that is
not known on the link, or a payload too short for its request, is RANGE (R177, check 1). -/
def dispatch (code : Byte) (tag : Word16) (args : List Byte) (s : State) : State :=
  match code.toNat, args with
  | 1, table :: index :: entry => requestLoad tag table index entry s
  | 2, table :: index :: _ => requestRead tag table index s
  | 3, table :: index :: field :: v0 :: v1 :: v2 :: v3 :: _ =>
    requestSetField tag table index field (wordAt [v0, v1, v2, v3] 0) s
  | 4, table :: index :: field :: _ => requestReadField tag table index field s
  | 5, target :: index :: _ => requestState tag target index s
  | 6, c0 :: c1 :: _ => requestClearFaults tag (BitVec.ofNat 16 (bytesNat [c0, c1])) s
  | 7, x :: _ =>
    match byteEnum sectionCodes x with
    | none => refuse 7 tag .range s
    | some x => requestReset tag x s
  | 8, _ => requestStart tag s
  | 9, _ => requestWarmReset tag s
  | _, _ => refuse code tag .range s

/-- A MGMT_REQUEST's payload, read and handled; a payload too short for the code or the tag carries 0 for it in the REPLY
(R177). -/
def handlePayload (payload : List Byte) (s : State) : State :=
  match payload with
  | code :: t0 :: t1 :: args => dispatch code (BitVec.ofNat 16 (bytesNat [t0, t1])) args s
  | [code, _] => refuse code 0 .range s
  | [code] => refuse code 0 .range s
  | [] => refuse 0 0 .range s

/-- The upstream record passes its checks (R175). -/
def upstreamPasses (u : List Byte) : Bool :=
  crc16 (u.take 62) == BitVec.ofNat 16 (256 * (byteAt u 62).toNat + (byteAt u 63).toNat) &&
    (byteAt u 0 == RecordKind.empty.code || byteAt u 0 == RecordKind.mgmtRequest.code) &&
    decide ((byteAt u 1).toNat ≤ 60)

/-- Handle the upstream record of a transfer (R173, R175). -/
def handleUpstream (u : List Byte) (s : State) : State :=
  if upstreamPasses u then
    if byteAt u 0 = RecordKind.empty.code then s
    else handlePayload ((u.drop 2).take (byteAt u 1).toNat) s
  else raise .linkCheck (.item (byteAt u 0)) s

/-- Set what the latest transfer sent. -/
def State.setSent (s : State) (l : List Byte) : State := { s with link := { s.link with sent := some l } }

/-- The downstream record of a transfer: the head leaves the queue, or EMPTY is sent (R173). -/
def State.sendDownstream (s : State) : State :=
  match s.link.egress with
  | [] => s.setSent emptyRecord
  | r :: rest => (s.setEgress rest).setSent r.bytes

/-- A link transfer while the link is served (R173). -/
def transfer (u : List Byte) (s : State) : State := handleUpstream u s.sendDownstream

/-- A link transfer in SLEEP or a reset hold: EMPTY is sent, and the upstream record is discarded (R159, R162, R173). -/
def State.transferUnserved (s : State) : State := s.setSent emptyRecord

end Sys2Proof.Machine
end

