-- ==== Sys2Proof/Machine/TimeCommands.lean ====
section
/-! DEFINITION. The meanings of the commands at Time Base and Ignition Control (chapter 8): supplies and pins, the ignition,
the counters, the settle and quiet expiries. A command whose condition does not hold leaves the state as it is (assumption
log entry 2). -/

namespace Sys2Proof.Machine

/-- An event that only an awake part takes (R151, R162). -/
def onAwake (f : State → State) (s : State) : Host.Outcome State Fault Refusal := .next (if s.awake then f s else s)

/-! ### Supplies and the reset input (R161, R162) -/

/-- COLD_START: keep-alive is applied (R161). -/
def execColdStart (s : State) : Host.Outcome State Fault Refusal := .next (coldStart s)

/-- KEEP_ALIVE_REMOVAL: everything the part holds is lost (R161). What a part without keep-alive holds cannot be seen; the
model holds the cold start values. -/
def execKeepAliveRemoval (s : State) : Host.Outcome State Fault Refusal :=
  .next (State.cold false s.resetHeld s.rawIgnition s.choices s.pending)

/-- RESET_INPUT_ASSERT: the part is held, and port B sends nothing (R162, R184). -/
def execResetInputAssert (s : State) : Host.Outcome State Fault Refusal :=
  .next ({ s with resetHeld := true }.setTransmit .idle)

/-- RESET_INPUT_RELEASE: with keep-alive present, one warm start (R162). -/
def execResetInputRelease (s : State) : Host.Outcome State Fault Refusal :=
  .next (if s.resetHeld then
    (if s.keepAlive then State.warmStart { s with resetHeld := false } else { s with resetHeld := false })
  else s)

/-! ### Ignition (R149, R150, R155, R157) -/

/-- IGNITION_SENSE_CHANGE: the raw level; the filter interval runs while it differs from the filtered level (R149). -/
def execIgnitionSenseChange (level : Bool) (s : State) : Host.Outcome State Fault Refusal :=
  .next (if s.keepAlive then
    { s with rawIgnition := level, time := { s.time with ignitionFilter := level != s.time.filteredIgnition } }
  else { s with rawIgnition := level })

/-- The filter interval runs with the raw level at `level`, so its expiry makes that level the filtered one (R149). -/
def State.filterDue (s : State) (level : Bool) : Bool := s.keepAlive && s.time.ignitionFilter && s.rawIgnition == level

/-- The filtered level takes a level, and the interval has ended (R149). -/
def State.setIgnition (s : State) (level : Bool) : State :=
  { s with time := { s.time with filteredIgnition := level, ignitionFilter := false } }

/-- An ignition on event as the state machine takes it: not in a reset hold, a wake in SLEEP, slot 126 first elsewhere (R149,
R150, R153, R155, R162). -/
def takeIgnitionOn (s : State) : State :=
  if s.resetHeld then s
  else match s.time.part with
    | .sleep => wakingEntry s
    | .standby => conclude (homingEntry (writeIgnition s))
    | .unconfigured | .waking | .homing | .run => writeIgnition s

/-- An ignition off event as the state machine takes it (R149, R150, R157, R162). -/
def takeIgnitionOff (s : State) : State :=
  if s.resetHeld then s
  else match s.time.part with
    | .homing | .run => conclude (standbyEntry (writeIgnition s))
    | .unconfigured | .waking | .standby => writeIgnition s
    | .sleep => s

/-- IGNITION_ON: the filter interval expires with the raw level on (R149). -/
def execIgnitionOn (s : State) : Host.Outcome State Fault Refusal :=
  .next (if s.filterDue true then takeIgnitionOn (s.setIgnition true) else s)

/-- IGNITION_OFF: the filter interval expires with the raw level off (R149). -/
def execIgnitionOff (s : State) : Host.Outcome State Fault Refusal :=
  .next (if s.filterDue false then takeIgnitionOff (s.setIgnition false) else s)

/-- PORT_B_FRAME_START: a wake event in SLEEP (R1, R153); elsewhere the frame is delivered as an arrival of its own. -/
def execPortBFrameStart (s : State) : Host.Outcome State Fault Refusal :=
  .next (if s.keepAlive && !s.resetHeld && s.time.part == .sleep then wakingEntry s else s)

/-! ### Counters (R35, R146 to R148) -/

/-- The monotonic counter rises by 1, and UTC with it while valid (R147, R148). -/
def State.advanceSeconds (s : State) : State :=
  { s with time := { s.time with
      mono := s.time.mono + 1, utc := if s.time.utcValid then s.time.utc + 1 else s.time.utc } }

/-- MONOTONIC_ADVANCE: the counters, then an accounting tick in the accounting states (R125, R147, R148, R162). -/
def execMonotonicAdvance (s : State) : Host.Outcome State Fault Refusal :=
  .next (if s.keepAlive then
    (if s.awake && s.time.part.accounts then accountingTick s.advanceSeconds else s.advanceSeconds)
  else s)

/-- A countdown after one ms; one that is due stays due until its expiry is taken (R146). -/
def tickTimer (t : Timer) : Timer :=
  match t with
  | none => none
  | some n => some (n - 1)

/-- A slot's age after one ms (R35). -/
def Slot.age1 (x : Slot) : Slot := { x with age := min (x.age + 1) 65535 }

/-- A silence timer after one ms (R13). -/
def Silence.tick (x : Silence) : Silence := { x with timer := tickTimer x.timer }

/-- The chime phase after one ms (R110). -/
def Arbiter.tick (a : Arbiter) : Arbiter :=
  match a with
  | .idle => .idle
  | .playing t phase left tone => .playing t phase (left - 1) tone

/-- The quiet timer after one ms (R158). -/
def QuietTimer.tick (q : QuietTimer) : QuietTimer :=
  match q with
  | .stopped => .stopped
  | .running left => .running (left - 1)
  | .elapsed => .elapsed

/-- A telltale's debounce after one ms (R79). -/
def Telltale.tick (t : Telltale) : Telltale := { t with debounce := tickTimer t.debounce }

/-- A queued reply's expiry after one ms (R184). -/
def QueuedReply.tick (q : QueuedReply) : QueuedReply := { q with left := q.left - 1 }

/-- The Signal Store after one ms: ages, hold and stale timers (R32, R33, R35). -/
def Store.tick (x : Store) : Store :=
  { slots := Vector.ofFn fun k : Fin 128 => (x.slots[k]).age1,
    hold := Vector.ofFn fun k : Fin 120 => tickTimer x.hold[k],
    stale := Vector.ofFn fun k : Fin 120 => tickTimer x.stale[k] }

/-- Every interval that the ms counter paces, after one ms, and the counter itself (R146). -/
def State.advanceMs (s : State) : State :=
  { s with
    time := { s.time with ms := s.time.ms + 1, settle := tickTimer s.time.settle, quiet := s.time.quiet.tick },
    intake := { s.intake with silenceA := s.intake.silenceA.tick, silenceB := s.intake.silenceB.tick },
    store := s.store.tick,
    speed := { s.speed with tick := tickTimer s.speed.tick },
    gauges := { s.gauges with tick := tickTimer s.gauges.tick },
    telltales := { s.telltales with
      records := Vector.ofFn fun i : Fin 64 => (s.telltales.records[i]).tick,
      bulbCheck := tickTimer s.telltales.bulbCheck },
    messages := { s.messages with arbiter := s.messages.arbiter.tick },
    portB := { s.portB with queue := s.portB.queue.map QueuedReply.tick } }

/-- MS_COUNTER_ADVANCE: one ms of an awake part (R146). -/
def execMsCounterAdvance (s : State) : Host.Outcome State Fault Refusal := onAwake State.advanceMs s

/-! ### Settle and quiet expiries (R154, R158) -/

/-- The settle interval's expiry is due in WAKING (R154). -/
def State.settleDue (s : State) : Bool := s.time.part == .waking && s.time.settle == some 0

/-- SETTLE_EXPIRY (R154). -/
def execSettleExpiry (s : State) : Host.Outcome State Fault Refusal :=
  onAwake (fun s => if s.settleDue then conclude (enterByLevel s) else s) s

/-- The quiet timer's expiry is due in STANDBY (R158). -/
def State.quietDue (s : State) : Bool := s.time.part == .standby && s.time.quiet == .running 0

/-- QUIET_EXPIRY (R158). -/
def execQuietExpiry (s : State) : Host.Outcome State Fault Refusal :=
  onAwake (fun s => if s.quietDue then conclude (s.setQuiet .elapsed) else s) s

end Sys2Proof.Machine
end

