-- ==== Sys2Proof/Machine/LinkCommands.lean ====
section
/-! DEFINITION. The meanings of the commands at Link and Management (chapter 10): transfers, management requests, section
resets, service requests and port B's reply frames. A request standing as a command of its own is one that the link or a
MANAGE entry has already handed over. -/

namespace Sys2Proof.Machine

/-! ### The link and management requests (R173, R177 to R180) -/

/-- LINK_TRANSFER: served in the awake states; EMPTY is exchanged in SLEEP and in a reset hold (R159, R162, R173). -/
def execLinkTransfer (u : List Byte) (s : State) : Host.Outcome State Fault Refusal :=
  .next (if s.keepAlive then (if s.awake then conclude (transfer u s) else s.transferUnserved) else s)

/-- LOAD (R178). -/
def execLoad (tag : Word16) (table index : Byte) (entry : List Byte) (s : State) : Host.Outcome State Fault Refusal :=
  onAwake (fun s => conclude (requestLoad tag table index entry s)) s

/-- READ (R178). -/
def execRead (tag : Word16) (table index : Byte) (s : State) : Host.Outcome State Fault Refusal :=
  onAwake (requestRead tag table index) s

/-- SET_FIELD (R178). -/
def execSetField (tag : Word16) (table index field : Byte) (value : Word32) (s : State) :
    Host.Outcome State Fault Refusal :=
  onAwake (fun s => conclude (requestSetField tag table index field value s)) s

/-- READ_FIELD (R178). -/
def execReadField (tag : Word16) (table index field : Byte) (s : State) : Host.Outcome State Fault Refusal :=
  onAwake (requestReadField tag table index field) s

/-- STATE (R179). -/
def execState (tag : Word16) (target index : Byte) (s : State) : Host.Outcome State Fault Refusal :=
  onAwake (requestState tag target index) s

/-- CLEAR_FAULTS (R170, R180). -/
def execClearFaults (tag : Word16) (classes : Word16) (s : State) : Host.Outcome State Fault Refusal :=
  onAwake (requestClearFaults tag classes) s

/-- INTAKE section reset (R16, R180). -/
def execIntakeSectionReset (tag : Word16) (s : State) : Host.Outcome State Fault Refusal :=
  onAwake (requestReset tag .intake) s

/-- SIGNALS section reset (R40, R180). -/
def execSignalsSectionReset (tag : Word16) (s : State) : Host.Outcome State Fault Refusal :=
  onAwake (requestReset tag .signals) s

/-- SPEED section reset (R51, R180). -/
def execSpeedSectionReset (tag : Word16) (s : State) : Host.Outcome State Fault Refusal :=
  onAwake (requestReset tag .speed) s

/-- GAUGES section reset (R75, R180); it reports the gauges' conditions (R71, R156). -/
def execGaugesSectionReset (tag : Word16) (s : State) : Host.Outcome State Fault Refusal :=
  onAwake (fun s => conclude (requestReset tag .gauges s)) s

/-- TELLTALES section reset (R97, R180). -/
def execTelltalesSectionReset (tag : Word16) (s : State) : Host.Outcome State Fault Refusal :=
  onAwake (requestReset tag .telltales) s

/-- PRESENTATION section reset (R117, R180). -/
def execPresentationSectionReset (tag : Word16) (s : State) : Host.Outcome State Fault Refusal :=
  onAwake (requestReset tag .presentation) s

/-- CREW section reset (R145, R180). -/
def execCrewSectionReset (tag : Word16) (s : State) : Host.Outcome State Fault Refusal :=
  onAwake (requestReset tag .crew) s

/-- FAULTS section reset (R171, R180). -/
def execFaultsSectionReset (tag : Word16) (s : State) : Host.Outcome State Fault Refusal :=
  onAwake (requestReset tag .faults) s

/-- START (R152, R180). -/
def execStart (tag : Word16) (s : State) : Host.Outcome State Fault Refusal :=
  onAwake (fun s => conclude (requestStart tag s)) s

/-- WARM_RESET (R162, R180). -/
def execWarmReset (tag : Word16) (s : State) : Host.Outcome State Fault Refusal := onAwake (requestWarmReset tag) s

/-! ### Service requests (R181 to R183) -/

/-- A service SET_FIELD (R182). -/
def execServiceSetField (reply : ReplyAddress) (table index field : Byte) (value : Word32) (s : State) :
    Host.Outcome State Fault Refusal :=
  onAwake (serviceSetField reply table index field value) s

/-- A service READ_FIELD (R183). -/
def execServiceReadField (reply : ReplyAddress) (table index field : Byte) (s : State) :
    Host.Outcome State Fault Refusal :=
  onAwake (serviceReadField reply table index field) s

/-- A service CLEAR_FAULTS (R170, R183). -/
def execServiceClearFaults (reply : ReplyAddress) (classes : Word16) (s : State) : Host.Outcome State Fault Refusal :=
  onAwake (serviceClearFaults reply classes) s

/-- READ_FAULTS (R183). -/
def execReadFaults (reply : ReplyAddress) (s : State) : Host.Outcome State Fault Refusal :=
  onAwake (serviceReadFaults reply) s

/-! ### Reply frames (R184) -/

/-- REPLY_FRAME_SEND: port B starts sending the head (R184). -/
def execReplyFrameSend (s : State) : Host.Outcome State Fault Refusal := onAwake State.sendReply s

/-- REPLY_FRAME_SENT: the transmission completes (R184). -/
def execReplyFrameSent (s : State) : Host.Outcome State Fault Refusal := onAwake State.replySent s

/-- REPLY_FRAME_NOT_SENT: arbitration is lost, or the transmission fails (R184). -/
def execReplyFrameNotSent (s : State) : Host.Outcome State Fault Refusal := onAwake State.replyNotSent s

/-- REPLY_EXPIRY of the frame at a place whose 250 ms have run out (R184). -/
def execReplyExpiry (place : Fin 4) (s : State) : Host.Outcome State Fault Refusal :=
  onAwake (fun s => s.replyExpired place.val) s

end Sys2Proof.Machine
end

