-- ==== Sys2Proof/Machine/SignalCommands.lean ====
section
/-! DEFINITION. The meanings of the commands at the Frame Intake, Signal Decode and Speed Arbitration (chapters 1 to 3): frame
arrivals, silence, hold and stale expiries, the plausibility tick. -/

namespace Sys2Proof.Machine

/-- FRAME_ARRIVAL: a frame received whole, in an awake state (R1, R2). With QuietTime 0 a matched frame in STANDBY may be the
event that leads to SLEEP (R158). -/
def execFrameArrival (f : Frame) (s : State) : Host.Outcome State Fault Refusal :=
  onAwake (fun s => conclude (frameArrived f s)) s

/-- SILENCE_EXPIRY of a port's timer that is due in RUN (R13, R14). -/
def execSilenceExpiry (p : Port) (s : State) : Host.Outcome State Fault Refusal :=
  onAwake (fun s => if s.time.part == .run && (s.intake.silence p).timer == some 0 then silenceExpired p s else s) s

/-- HOLD_EXPIRY of a slot's timer that is due (R32). -/
def execHoldExpiry (k : Fin 120) (s : State) : Host.Outcome State Fault Refusal :=
  onAwake (fun s => if s.store.hold[k] == some 0 then goHeld k s else s) s

/-- STALE_EXPIRY of a slot's timer that is due (R33). -/
def execStaleExpiry (k : Fin 120) (s : State) : Host.Outcome State Fault Refusal :=
  onAwake (fun s => if s.store.stale[k] == some 0 then goStale k s else s) s

/-- A plausibility tick: restart, sample, evaluate, select (R43 to R48). -/
def plausibilityTicked (s : State) : State :=
  writeSelection (sampleSpeed (s.setPlausibility (some Config.plausibilityInterval)))

/-- PLAUSIBILITY_TICK of an interval that is due (R43). -/
def execPlausibilityTick (s : State) : Host.Outcome State Fault Refusal :=
  onAwake (fun s => if s.speed.tick == some 0 then plausibilityTicked s else s) s

end Sys2Proof.Machine
end

