-- ==== Sys2Proof/Machine/UnitCommands.lean ====
section
/-! DEFINITION. The meanings of the commands at the Gauge Unit, the Telltale Unit and the Message Unit (chapters 4 to 6): filter
ticks, stall reports, debounce expiries, lamp and chime sense reports, the bulb check, chime phases. -/

namespace Sys2Proof.Machine

/-! ### Gauges (R56, R65) -/

/-- A filter tick: restart, the channels' work, a report when a channel's state has changed (R56, R71). -/
def filterTicked (s : State) : State :=
  conclude ((tickChannels (s.setFilterTick (some Config.filterInterval))).reportChanges s)

/-- FILTER_TICK of an interval that is due (R56). -/
def execFilterTick (s : State) : Host.Outcome State Fault Refusal :=
  onAwake (fun s => if s.gauges.tick == some 0 then filterTicked s else s) s

/-- STALL_REPORT of a channel's stall sense (R65). -/
def execStallReport (ch : Fin 6) (s : State) : Host.Outcome State Fault Refusal :=
  onAwake (fun s => conclude (stallReported ch s)) s

/-! ### Telltales and lamps (R81, R82, R90, R91, R93) -/

/-- A telltale stands in a state with its debounce expiry due (R81, R82). -/
def State.debounceDue (s : State) (i : Fin 64) (x : TelltaleState) : Bool :=
  (s.telltales.records[i]).state == x && (s.telltales.records[i]).debounce == some 0

/-- ON_DEBOUNCE_EXPIRY: RISING goes ON (R81, R83). -/
def execOnDebounceExpiry (i : Fin 64) (s : State) : Host.Outcome State Fault Refusal :=
  onAwake (fun s => if s.debounceDue i .rising then whole (fun s => s.telltaleOn i) s else s) s

/-- OFF_DEBOUNCE_EXPIRY: FALLING goes LATCHED or OFF (R82). -/
def execOffDebounceExpiry (i : Fin 64) (s : State) : Host.Outcome State Fault Refusal :=
  onAwake (fun s => if s.debounceDue i .falling then whole (fun s => s.telltaleFallen i) s else s) s

/-- LAMP_NO_CURRENT: a LIT channel driven in a lit phase becomes OPEN (R90). -/
def execLampNoCurrent (ch : Fin 32) (s : State) : Host.Outcome State Fault Refusal :=
  onAwake (fun s => if s.telltales.lamps[ch] == .lit && s.lampOutput ch then lampFails ch .open .lampOpen s else s) s

/-- LAMP_CURRENT_PRESENT: an OPEN channel driven in a lit phase becomes LIT (R90). -/
def execLampCurrentPresent (ch : Fin 32) (s : State) : Host.Outcome State Fault Refusal :=
  onAwake (fun s => if s.telltales.lamps[ch] == .open && s.lampOutput ch then s.setLamp ch .lit else s) s

/-- LAMP_OVER_CURRENT: a driven channel, LIT or OPEN, becomes SHORT_PROTECT (R91). -/
def execLampOverCurrent (ch : Fin 32) (s : State) : Host.Outcome State Fault Refusal :=
  onAwake
    (fun s =>
      if (s.telltales.lamps[ch] == .lit || s.telltales.lamps[ch] == .open) && s.lampDriven ch then
        lampFails ch .shortProtect .lampShort s
      else s) s

/-- BULB_CHECK_EXPIRY: the demand is recomputed and the end is reported (R93, R156). -/
def execBulbCheckExpiry (s : State) : Host.Outcome State Fault Refusal :=
  onAwake (fun s => if s.telltales.bulbCheck == some 0 then conclude s.endBulbCheck.reportBulbEnd else s) s

/-! ### The chime (R111, R114) -/

/-- The off time of the playing request's pattern, read at the start of the OFF phase (R108). -/
def State.offTime (s : State) (t : Fin 64) : Nat :=
  match s.messages.requests[t] with
  | none => 0
  | some r => (s.tables.chime[r.pattern]).offTime

/-- The ON expiry: silence, and the OFF phase starts (R111). -/
def State.chimeOnEnds (s : State) : State :=
  match s.messages.arbiter with
  | .playing t .on 0 tone => s.setArbiter (.playing t .off (s.offTime t) tone)
  | .playing _ .on (_ + 1) _ | .playing _ .off _ _ | .idle => s

/-- The OFF expiry completes the burst (R111). -/
def State.chimeOffEnds (s : State) : State :=
  match s.messages.arbiter with
  | .playing t .off 0 _ => s.completeBurst t
  | .playing _ .off (_ + 1) _ | .playing _ .on _ _ | .idle => s

/-- CHIME_ON_EXPIRY (R111). -/
def execChimeOnExpiry (s : State) : Host.Outcome State Fault Refusal := onAwake State.chimeOnEnds s

/-- CHIME_OFF_EXPIRY (R111). -/
def execChimeOffExpiry (s : State) : Host.Outcome State Fault Refusal := onAwake State.chimeOffEnds s

/-- Set the chime output's load state (R114). -/
def State.setLoad (s : State) (l : LoadState) : State := { s with messages := { s.messages with load := l } }

/-- A no-current report in an ON phase with the load NORMAL: OPEN, and CHIME_FAULT (R114). -/
def chimeFails (s : State) : State :=
  match s.messages.arbiter, s.messages.load with
  | .playing t .on _ _, .normal => raiseItem .chimeFault t.val (s.setLoad .open)
  | .playing _ .on _ _, .open => s
  | .playing _ .off _ _, _ => s
  | .idle, _ => s

/-- A current-present report in an ON phase with the load OPEN: NORMAL (R114). -/
def State.chimeRecovers (s : State) : State :=
  match s.messages.arbiter, s.messages.load with
  | .playing _ .on _ _, .open => s.setLoad .normal
  | .playing _ .on _ _, .normal => s
  | .playing _ .off _ _, _ => s
  | .idle, _ => s

/-- CHIME_NO_CURRENT (R114). -/
def execChimeNoCurrent (s : State) : Host.Outcome State Fault Refusal := onAwake chimeFails s

/-- CHIME_CURRENT_PRESENT (R114). -/
def execChimeCurrentPresent (s : State) : Host.Outcome State Fault Refusal := onAwake State.chimeRecovers s

end Sys2Proof.Machine
end

