-- ==== Sys2Proof/Machine/Dispatch.lean ====
section
/-! DEFINITION. The meaning of each command, one arm per row of spec/opcode_table.json. -/

namespace Sys2Proof.Machine

def exec (i : Instr) (s : State) : Host.Outcome State Fault Refusal :=
  match i with
  | .coldStart => Sys2Proof.Machine.execColdStart s
  | .resetInputAssert => Sys2Proof.Machine.execResetInputAssert s
  | .resetInputRelease => Sys2Proof.Machine.execResetInputRelease s
  | .ignitionSenseChange level => Sys2Proof.Machine.execIgnitionSenseChange level s
  | .ignitionOn => Sys2Proof.Machine.execIgnitionOn s
  | .ignitionOff => Sys2Proof.Machine.execIgnitionOff s
  | .frameArrival frame => Sys2Proof.Machine.execFrameArrival frame s
  | .portBFrameStart => Sys2Proof.Machine.execPortBFrameStart s
  | .monotonicAdvance => Sys2Proof.Machine.execMonotonicAdvance s
  | .linkTransfer upstream => Sys2Proof.Machine.execLinkTransfer upstream s
  | .load tag table index entry => Sys2Proof.Machine.execLoad tag table index entry s
  | .read tag table index => Sys2Proof.Machine.execRead tag table index s
  | .setField tag table index field value => Sys2Proof.Machine.execSetField tag table index field value s
  | .readField tag table index field => Sys2Proof.Machine.execReadField tag table index field s
  | .state tag target index => Sys2Proof.Machine.execState tag target index s
  | .clearFaults tag classes => Sys2Proof.Machine.execClearFaults tag classes s
  | .intakeSectionReset tag => Sys2Proof.Machine.execIntakeSectionReset tag s
  | .signalsSectionReset tag => Sys2Proof.Machine.execSignalsSectionReset tag s
  | .speedSectionReset tag => Sys2Proof.Machine.execSpeedSectionReset tag s
  | .gaugesSectionReset tag => Sys2Proof.Machine.execGaugesSectionReset tag s
  | .telltalesSectionReset tag => Sys2Proof.Machine.execTelltalesSectionReset tag s
  | .presentationSectionReset tag => Sys2Proof.Machine.execPresentationSectionReset tag s
  | .crewSectionReset tag => Sys2Proof.Machine.execCrewSectionReset tag s
  | .faultsSectionReset tag => Sys2Proof.Machine.execFaultsSectionReset tag s
  | .start tag => Sys2Proof.Machine.execStart tag s
  | .warmReset tag => Sys2Proof.Machine.execWarmReset tag s
  | .serviceSetField reply table index field value => Sys2Proof.Machine.execServiceSetField reply table index field value s
  | .serviceReadField reply table index field => Sys2Proof.Machine.execServiceReadField reply table index field s
  | .serviceClearFaults reply classes => Sys2Proof.Machine.execServiceClearFaults reply classes s
  | .readFaults reply => Sys2Proof.Machine.execReadFaults reply s
  | .silenceExpiry port => Sys2Proof.Machine.execSilenceExpiry port s
  | .holdExpiry slot => Sys2Proof.Machine.execHoldExpiry slot s
  | .staleExpiry slot => Sys2Proof.Machine.execStaleExpiry slot s
  | .plausibilityTick => Sys2Proof.Machine.execPlausibilityTick s
  | .filterTick => Sys2Proof.Machine.execFilterTick s
  | .stallReport channel => Sys2Proof.Machine.execStallReport channel s
  | .onDebounceExpiry telltale => Sys2Proof.Machine.execOnDebounceExpiry telltale s
  | .offDebounceExpiry telltale => Sys2Proof.Machine.execOffDebounceExpiry telltale s
  | .lampNoCurrent channel => Sys2Proof.Machine.execLampNoCurrent channel s
  | .lampCurrentPresent channel => Sys2Proof.Machine.execLampCurrentPresent channel s
  | .lampOverCurrent channel => Sys2Proof.Machine.execLampOverCurrent channel s
  | .bulbCheckExpiry => Sys2Proof.Machine.execBulbCheckExpiry s
  | .chimeOnExpiry => Sys2Proof.Machine.execChimeOnExpiry s
  | .chimeOffExpiry => Sys2Proof.Machine.execChimeOffExpiry s
  | .chimeNoCurrent => Sys2Proof.Machine.execChimeNoCurrent s
  | .chimeCurrentPresent => Sys2Proof.Machine.execChimeCurrentPresent s
  | .settleExpiry => Sys2Proof.Machine.execSettleExpiry s
  | .quietExpiry => Sys2Proof.Machine.execQuietExpiry s
  | .replyFrameSend => Sys2Proof.Machine.execReplyFrameSend s
  | .replyFrameSent => Sys2Proof.Machine.execReplyFrameSent s
  | .replyFrameNotSent => Sys2Proof.Machine.execReplyFrameNotSent s
  | .replyExpiry place => Sys2Proof.Machine.execReplyExpiry place s
  | .msCounterAdvance => Sys2Proof.Machine.execMsCounterAdvance s
  | .keepAliveRemoval => Sys2Proof.Machine.execKeepAliveRemoval s

end Sys2Proof.Machine
end

