-- ==== Sys2Proof/Safety.lean ====
section
/-! DEFINITION. What counts as a safe step; what the reactions to an event leave alone, at three widths; and the laws that every
step keeps. A statement about a command says what the command itself does to the state, and that the rest follows as one of
these reactions. -/

namespace Sys2Proof.Machine

/-- A step is safe when it goes on to a next state. -/
def Safe (s : State) : Prop := ∃ t, step s = .next t

/-! ### What reactions leave alone -/

/-- `t` follows from `s` by moves of telltales and what they do at the Message Unit (R80 to R85, R88, R100 to R113): only the
telltale records, the lamp channels and the Message Unit's state differ. -/
structure Presented (s t : State) : Prop where
  rest : t = { s with telltales := t.telltales, messages := t.messages }
  bulbCheck : t.telltales.bulbCheck = s.telltales.bulbCheck

/-- `t` follows from `s` by offered records, fault occurrences, writes of slot 127 and the reactions of the blocks that read
slot 127 (R166 to R169, R176): everything else stands as it did, no status is cleared, and a held capture is kept. -/
structure Reacted (s t : State) : Prop where
  keepAlive : t.keepAlive = s.keepAlive
  resetHeld : t.resetHeld = s.resetHeld
  rawIgnition : t.rawIgnition = s.rawIgnition
  pending : t.pending = s.pending
  time : t.time = s.time
  tables : t.tables = s.tables
  intake : t.intake = s.intake
  speed : t.speed = s.speed
  crew : t.crew = s.crew
  portB : t.portB = s.portB
  hold : t.store.hold = s.store.hold
  stale : t.store.stale = s.store.stale
  slots : ∀ k : Fin 128, k ≠ 127 → t.store.slots[k] = s.store.slots[k]
  filterTick : t.gauges.tick = s.gauges.tick
  motion : ∀ ch : Fin 6,
    t.gauges.channels[ch] = { s.gauges.channels[ch] with target := (t.gauges.channels[ch]).target }
  bulbCheck : t.telltales.bulbCheck = s.telltales.bulbCheck
  sent : t.link.sent = s.link.sent
  status : ∀ c : Fin 16, s.faults.status[c] = true → t.faults.status[c] = true
  capture : ∀ k, s.faults.capture = some k → t.faults.capture = some k

/-- `t` follows from `s` by events of slots and all that their readers do with them (R18, R37): beyond the telltales, the
Message Unit, faults, records and gauge targets, only slots 120 to 125 and 127, the speed selection, the crew records and UTC
may differ. -/
structure Observed (s t : State) : Prop where
  keepAlive : t.keepAlive = s.keepAlive
  resetHeld : t.resetHeld = s.resetHeld
  rawIgnition : t.rawIgnition = s.rawIgnition
  pending : t.pending = s.pending
  time : t.time = { s.time with utc := t.time.utc, utcValid := t.time.utcValid }
  tables : t.tables = s.tables
  intake : t.intake = s.intake
  speed : t.speed = { s.speed with selection := t.speed.selection }
  portB : t.portB = s.portB
  hold : t.store.hold = s.store.hold
  stale : t.store.stale = s.store.stale
  slots : ∀ k : Fin 128, k.val < 120 ∨ k = 126 → t.store.slots[k] = s.store.slots[k]
  filterTick : t.gauges.tick = s.gauges.tick
  motion : ∀ ch : Fin 6,
    t.gauges.channels[ch] = { s.gauges.channels[ch] with target := (t.gauges.channels[ch]).target }
  bulbCheck : t.telltales.bulbCheck = s.telltales.bulbCheck
  snapshots : t.crew.snapshotCounter = s.crew.snapshotCounter
  sent : t.link.sent = s.link.sent
  status : ∀ c : Fin 16, s.faults.status[c] = true → t.faults.status[c] = true
  capture : ∀ k, s.faults.capture = some k → t.faults.capture = some k

/-! ### Between events -/

/-- No move of the part is left over from an earlier event: in HOMING the two indications do not both hold (R156), in STANDBY
the quiet timer has not elapsed with every channel at rest (R158). -/
structure Settled (s : State) : Prop where
  homing : s.time.part = .homing → ¬ (s.time.homingDone = true ∧ s.time.bulbCheckEnded = true)
  standby : s.time.part = .standby → ¬ (s.time.quiet = .elapsed ∧ s.time.atRest = true)

/-- The egress queue accepts the next `n` records whatever their kind, FORWARD apart (R176). -/
def State.room (s : State) (n : Nat) : Prop := s.link.egress.length + n ≤ 32

/-! ### The laws that every step keeps -/

/-- The bounds of the two queues (R176, R184): at most 32 records, at most 24 of them FORWARD; at most 4 reply frames, none with
more than 250 ms left. -/
structure QueueLaws (s : State) : Prop where
  egress : s.link.egress.length ≤ 32
  forward : s.link.egress.countP (fun r => r.kind == .forward) ≤ 24
  replies : s.portB.queue.length ≤ 4
  lifetime : ∀ q ∈ s.portB.queue, q.left ≤ 250

/-- The Fault Unit's laws: the captured class's status is set, and the overflow flag is clear whenever the capture is empty
(R167); slot 127 holds the number of set, unmasked SEVERE classes (R169). -/
structure FaultLaws (s : State) : Prop where
  captured : ∀ k, s.faults.capture = some k → s.faults.status[k.faultClass.number] = true
  overflow : s.faults.capture = none → s.faults.overflow = false
  severe : (s.slot 127).value.toNat =
    (List.finRange 16).countP fun c =>
      s.faults.status[c] && !(s.tables.policy[c]).masked && (s.tables.policy[c]).severity == .severe

/-- The records that stand in the three places (R98). -/
def Messages.standing (m : Messages) : List Presentation := m.current.toList ++ m.stack ++ m.ring

/-- The laws of the three places alone (R99): no telltale stands twice; the stack's priorities rise strictly and stay below the
current presentation's; stack and ring are empty when nothing is current; at most 4 and 16 records. -/
structure PlaceLaws (m : Messages) : Prop where
  once : (m.standing.map Presentation.telltale).Nodup
  rising : (m.stack.map Presentation.priority).Pairwise (· < ·)
  below : ∀ c, m.current = some c → ∀ p ∈ m.stack, p.priority < c.priority
  emptyStack : m.current = none → m.stack = []
  emptyRing : m.current = none → m.ring = []
  stackBound : m.stack.length ≤ 4
  ringBound : m.ring.length ≤ 16

/-- The Message Unit's laws with the telltales (R79, R85, R99): a telltale has a record standing exactly while its presentation
held says so, and only while it is ON, FALLING or LATCHED. -/
structure MessageLaws (s : State) : Prop where
  places : PlaceLaws s.messages
  held : ∀ i : Fin 64, (∃ p ∈ s.messages.standing, p.telltale = i) ↔ (s.telltales.records[i]).held ≠ .none
  shown : ∀ i : Fin 64, (s.telltales.records[i]).held ≠ .none → (s.telltales.records[i]).state.shown = true

/-- The Crew Table's laws (R121): tokens are not 0 and pairwise distinct, at most one record is attached at each position, and
continuous ≤ daily ≤ 86400. -/
structure CrewLaws (s : State) : Prop where
  token : ∀ (p : Fin 4) r, s.crew.places[p] = some r → r.token ≠ 0
  distinct : ∀ (p q : Fin 4) r x, s.crew.places[p] = some r → s.crew.places[q] = some x → r.token = x.token → p = q
  attached : ∀ (p q : Fin 4) r x y, s.crew.places[p] = some r → s.crew.places[q] = some x →
    r.place = .attached y → x.place = .attached y → p = q
  counters : ∀ (p : Fin 4) r, s.crew.places[p] = some r → r.continuous ≤ r.daily ∧ r.daily ≤ 86400

/-- The decoded slots' laws: a FRESH or HELD slot holds a value within its Slot Config Min and Max (R31), and a hold timer runs
only for a FRESH slot (R32, R34). The Slot Config entries satisfy Min ≤ Max (R30). -/
structure SlotLaws (s : State) : Prop where
  config : ∀ k : Fin 120, (s.tables.slotConfig[k]).min.toInt ≤ (s.tables.slotConfig[k]).max.toInt
  range : ∀ k : Fin 120, (s.slot (decodedSlot k)).usable = true →
    (s.tables.slotConfig[k]).min.toInt ≤ (s.slot (decodedSlot k)).value.toInt ∧
      (s.slot (decodedSlot k)).value.toInt ≤ (s.tables.slotConfig[k]).max.toInt
  hold : ∀ k : Fin 120, s.store.hold[k] ≠ none → (s.slot (decodedSlot k)).quality = .fresh

/-- Every channel's commanded position lies within 0..MaxPos (R61); the target of a driven channel does too (R58, R59), and the
filter state of a TRACKING channel within 0..16 × MaxPos (R60). -/
structure GaugeLaws (s : State) : Prop where
  position : ∀ ch : Fin 6, (s.gauges.channels[ch]).position ≤ (s.tables.gauge[ch]).maxPos
  target : ∀ ch : Fin 6, (s.gauges.channels[ch]).state ∈ [ChannelState.homing, .tracking, .parking] →
    (s.gauges.channels[ch]).target ≤ (s.tables.gauge[ch]).maxPos
  filter : ∀ ch : Fin 6, (s.gauges.channels[ch]).state = .tracking →
    (s.gauges.channels[ch]).filter ≤ 16 * (s.tables.gauge[ch]).maxPos

/-- The arbitration state and the ring count are tied together (R45). -/
structure SpeedLaws (s : State) : Prop where
  count : s.speed.ring.count ≤ 8
  learning : s.speed.state = .learning → s.speed.ring.count < 8
  agree : s.speed.state = .agree → s.speed.ring.count = 8

/-! ### What the part's moves leave -/

/-- What warm start and SLEEP entry do alike (R16, R39, R51, R96, R116, R184): the forward memories, the pair ring, the
telltales, the Message Unit and both queues are emptied, every decoded slot is UNKNOWN with its value kept, every timer of
these is stopped. -/
structure Quieted (s t : State) : Prop where
  intake : t.intake = { forwardMemory := Vector.replicate 96 none, silenceA := ⟨none, false⟩, silenceB := ⟨none, false⟩ }
  decoded : ∀ k : Fin 120, t.slot (decodedSlot k) =
    { value := (s.slot (decodedSlot k)).value, quality := .unknown, clamped := false, age := 65535 }
  hold : ∀ k : Fin 120, t.store.hold[k] = none
  stale : ∀ k : Fin 120, t.store.stale[k] = none
  road : t.slot 120 = { value := (s.slot 120).value, quality := .notAvailable, clamped := false, age := 0 }
  source : t.slot 121 = { value := 2, quality := .fresh, clamped := false, age := 0 }
  speed : t.speed =
    { ring := { s.speed.ring with position := 0, count := 0, lastSum := none }, state := .learning, selection := .none,
      tick := none }
  records : ∀ i : Fin 64, t.telltales.records[i] =
    { state := .off, condition := false, debounce := none, acknowledged := false, held := .none }
  lamps : ∀ ch : Fin 32, t.telltales.lamps[ch] = if s.telltales.lamps[ch] = .lit then .idle else s.telltales.lamps[ch]
  bulbCheck : t.telltales.bulbCheck = none
  messages : t.messages =
    { current := none, stack := [], ring := [], lastSeen := .none, requests := Vector.replicate 64 none, arbiter := .idle,
      load := s.messages.load }
  link : t.link = { s.link with egress := [] }
  portB : t.portB = { queue := [], transmit := .idle }
  filterTick : t.gauges.tick = none
  ignition : t.slot 126 =
    { value := if s.time.filteredIgnition then 1 else 0, quality := .fresh, clamped := false, age := 0 }
  severe : t.slot 127 = { value := BitVec.ofNat 32 s.severeCount, quality := .fresh, clamped := false, age := 0 }
  remaining : ∀ k ∈ remainingSlots, t.slot k.1 = ({ s with crew := t.crew }).remainingContent k.1 k.2.1 k.2.2
  snapshots : t.crew.snapshotCounter = 0
  faults : t.faults = s.faults
  tables : t.tables = s.tables
  keepAlive : t.keepAlive = s.keepAlive
  resetHeld : t.resetHeld = s.resetHeld
  rawIgnition : t.rawIgnition = s.rawIgnition
  pending : t.pending = s.pending

/-- A warm start's values (R74, R144, R162), from the state it finds, the wake credit of a sleep it ends already given. -/
structure WarmStarted (s t : State) : Prop extends Quieted s t where
  time : t.time =
    { s.time with
        part := if s.time.started then .waking else .unconfigured,
        settle := if s.time.started then some (max 1 s.tables.system.wakeSettle) else none,
        quiet := .stopped, homingDone := false, bulbCheckEnded := false, atRest := false }
  channels : ∀ ch : Fin 6, t.gauges.channels[ch] =
    { state := .unhomed, target := 0, filter := 0, position := 0, stallCount := (s.gauges.channels[ch]).stallCount,
      homingDistance := 0, stallCheck := false, moved := false }
  crew : ∀ p : Fin 4, t.crew.places[p] = (s.crew.places[p]).map (CrewRecord.warm s.tables.crew)

/-- SLEEP entry's values (R74, R144, R159). -/
structure SleepEntered (s t : State) : Prop extends Quieted s t where
  time : t.time = { s.time with part := .sleep, sleepMark := s.time.mono, quiet := .stopped, settle := none }
  channels : t.gauges.channels = s.gauges.channels
  crew : t.crew.places = s.crew.places

/-- What HOMING entry makes of one channel (R62, R70). -/
def homedChannel (c : Channel) (e : GaugeEntry) : Channel :=
  if e.valid then
    { c with stallCount := 0, target := e.park, state := .homing, homingDistance := 0, position := min c.position e.maxPos }
  else if c.state = .homing then { c with stallCount := 0, target := e.park }
  else { c with stallCount := 0, target := e.park, state := .disabled }

/-- HOMING entry's own values, before the events that it causes at the telltales (R43, R56, R70, R71, R93, R155). -/
def State.homingValues (s : State) : State :=
  { s with
    time := { s.time with
      part := .homing, quiet := .stopped, settle := none, bulbCheckEnded := decide (s.tables.system.bulbCheck = 0),
      homingDone := (List.finRange 6).all fun ch => !(s.tables.gauge[ch]).valid,
      atRest := (List.finRange 6).all fun ch =>
        !(s.tables.gauge[ch]).valid && !((s.gauges.channels[ch]).state == .homing) },
    speed := { s.speed with tick := some 100 },
    gauges :=
      { channels := Vector.ofFn fun ch : Fin 6 => homedChannel s.gauges.channels[ch] s.tables.gauge[ch],
        tick := some (s.gauges.tick.getD 10) },
    telltales := { s.telltales with
      bulbCheck := if s.tables.system.bulbCheck = 0 then none else some s.tables.system.bulbCheck } }

/-- A channel that is PARKING at 0 is at rest: PARKED with a valid entry, DISABLED without (R68). -/
def restingState (e : GaugeEntry) : ChannelState := if e.valid then .parked else .disabled

/-- What STANDBY entry makes of one channel (R67, R68). -/
def standbyChannel (c : Channel) (e : GaugeEntry) : Channel :=
  match c.state with
  | .tracking => { c with state := if c.position = 0 then restingState e else .parking, target := 0, stallCheck := true }
  | .homing => { c with state := if c.position = 0 then restingState e else .parking, target := 0, stallCheck := false }
  | .unhomed =>
    if e.valid then { c with state := .parked, position := 0, filter := 0 } else { c with state := .disabled, position := 0 }
  | .parking | .parked | .disabled => c

/-- STANDBY entry's own values, before the events that it causes at the telltales (R13, R50, R56, R67, R71, R93, R157, R158). -/
def State.standbyValues (s : State) : State :=
  let gauges : Gauges :=
    { channels := Vector.ofFn fun ch : Fin 6 => standbyChannel s.gauges.channels[ch] s.tables.gauge[ch],
      tick := some (s.gauges.tick.getD 10) }
  { s with
    time := { s.time with
      part := .standby, settle := none,
      quiet := if s.tables.system.quietTime = 0 then .elapsed else .running s.tables.system.quietTime,
      homingDone := State.homingDoneNow { s with gauges := gauges },
      atRest := State.atRestNow { s with gauges := gauges } },
    intake := { s.intake with silenceA := ⟨none, false⟩, silenceB := ⟨none, false⟩ },
    speed :=
      { s.speed with
        ring := { s.speed.ring with position := 0, count := 0, lastSum := none },
        state := if s.speed.state = .conflict then .conflict else .learning,
        tick := none },
    gauges := gauges,
    telltales := { s.telltales with bulbCheck := none } }

/-- RUN entry: both silence timers start with a full PortSilence interval, both episodes closed; with 0 they stay stopped (R13,
R15, R156). -/
def State.runValues (s : State) : State :=
  let silence : Silence :=
    { timer := if s.tables.system.portSilence = 0 then none else some s.tables.system.portSilence, episode := false }
  { s with time := { s.time with part := .run }, intake := { s.intake with silenceA := silence, silenceB := silence } }

/-- `t` follows from `s` by the end of an event: RUN when HOMING is left with both indications (R156), SLEEP when STANDBY's
quiet timer has elapsed with every channel at rest (R158), otherwise nothing. -/
def Concluded (s t : State) : Prop :=
  if s.time.part = .homing ∧ s.time.homingDone = true ∧ s.time.bulbCheckEnded = true then t = s.runValues
  else if s.time.part = .standby ∧ s.time.quiet = .elapsed ∧ s.time.atRest = true then SleepEntered s t
  else t = s

/-- Slot 126 as an ignition event, a wake or a reset writes it (R150). -/
def State.ignitionWritten (s : State) : State :=
  s.setSlot 126 { value := if s.time.filteredIgnition then 1 else 0, quality := .fresh, clamped := false, age := 0 }

/-- An ignition event's own change: the filtered level, and no filter interval (R149). -/
def State.ignitionTaken (s : State) (level : Bool) : State :=
  { s with time := { s.time with filteredIgnition := level, ignitionFilter := false } }

/-! ### Occurrences and offers -/

/-- The Fault Unit writes slot 127: the number of set, unmasked SEVERE classes, FRESH (R169). -/
def State.severeWritten (s : State) : State :=
  s.setSlot 127 { value := BitVec.ofNat 32 s.severeCount, quality := .fresh, clamped := false, age := 0 }

/-- Steps 1 and 2 of an occurrence (R166, R167): its status is set; unmasked, it fills an empty capture, or sets the overflow flag
when the capture is held. -/
def State.recorded (s : State) (c : FaultClass) (d : FaultDetail) : State :=
  let masked := (s.tables.policy[c.number]).masked
  { s with faults :=
    { status := s.faults.status.set c.number true,
      capture := if masked then s.faults.capture else some (s.faults.capture.getD ⟨c, d, s.stamp⟩),
      overflow := s.faults.overflow || (!masked && s.faults.capture.isSome) } }

/-- One occurrence of a class at the Fault Unit, step by step (R166, R168); `told` is what a write of slot 127 brings. -/
inductive Occurred (told : State → State → Prop) : State → FaultClass → FaultDetail → State → Prop
  /-- A class that was set: steps 1 and 2 alone. -/
  | again {s c d} (was : s.faults.status[c.number] = true) : Occurred told s c d (s.recorded c d)
  /-- A masked class that was clear: no capture, no NOTICE; slot 127 is written. -/
  | masked {s c d t} (was : s.faults.status[c.number] = false) (policy : (s.tables.policy[c.number]).masked = true)
      (slot : told (s.recorded c d) t) : Occurred told s c d t
  /-- An unmasked class that was clear: its NOTICE joins the queue, then slot 127 is written. -/
  | noticed {s c d t} (was : s.faults.status[c.number] = false) (policy : (s.tables.policy[c.number]).masked = false)
      (room : s.link.egress.length < 32)
      (slot : told { s.recorded c d with link := { s.link with egress := s.link.egress ++
        [.notice c d s.stamp (s.recorded c d).faults.status (s.recorded c d).faults.overflow] } } t) : Occurred told s c d t
  /-- The same with a full queue: the NOTICE is dropped and LINK_OVERRUN occurs; then slot 127 is written. -/
  | dropped {s c d u t} (was : s.faults.status[c.number] = false) (policy : (s.tables.policy[c.number]).masked = false)
      (full : 32 ≤ s.link.egress.length)
      (overrun : Occurred told (s.recorded c d) .linkOverrun (.item RecordKind.notice.code) u) (slot : told u t) :
      Occurred told s c d t

/-- `t` follows from `s` by one occurrence of a class (R166 to R168), and what that comes to: its status is set; an unmasked
occurrence fills an empty capture, or sets the overflow flag when the capture is held; an occurrence of a class that was set changes
nothing more; one of a masked class that was clear sets the status and has slot 127 written, and nothing else; an unmasked one that
was clear offers its NOTICE. A full queue drops the NOTICE, which is not offered again, and LINK_OVERRUN occurs: its status is set, and
unmasked it finds the capture held, so the overflow flag is set. `told` is what a write of slot 127 brings. -/
structure RaisedWith (told : State → State → Prop) (s : State) (c : FaultClass) (d : FaultDetail) (t : State) : Prop where
  occurred : Occurred told s c d t
  reacted : Reacted s t
  status : t.faults.status[c.number] = true
  again : s.faults.status[c.number] = true →
    t = { s with faults :=
      { status := s.faults.status,
        capture := if (s.tables.policy[c.number]).masked then s.faults.capture
          else some (s.faults.capture.getD ⟨c, d, s.stamp⟩),
        overflow := s.faults.overflow || (!(s.tables.policy[c.number]).masked && s.faults.capture.isSome) } }
  masked : s.faults.status[c.number] = false → (s.tables.policy[c.number]).masked = true →
    told { s with faults := { s.faults with status := s.faults.status.set c.number true } } t
  fills : (s.tables.policy[c.number]).masked = false → s.faults.capture = none →
    t.faults.capture = some ⟨c, d, s.stamp⟩
  overflows : (s.tables.policy[c.number]).masked = false → s.faults.capture ≠ none → t.faults.overflow = true
  notice : s.faults.status[c.number] = false → (s.tables.policy[c.number]).masked = false → s.link.egress.length < 32 →
    .notice c d s.stamp (s.faults.status.set c.number true) (s.faults.overflow || s.faults.capture.isSome) ∈ t.link.egress
  overrun : s.faults.status[c.number] = false → (s.tables.policy[c.number]).masked = false → 32 ≤ s.link.egress.length →
    t.faults.status[FaultClass.linkOverrun.number] = true ∧
    ((s.tables.policy[FaultClass.linkOverrun.number]).masked = false → t.faults.overflow = true) ∧
    t.link.egress.length = s.link.egress.length ∧ ∀ x ∈ t.link.egress, x.kind = .notice → x ∈ s.link.egress

/-- `t` follows from `s` by one offer to the egress queue (R176): it joins at the tail; or, the queue being full, a PRESENT or
CREW_SNAPSHOT takes the place of the oldest of its kind; or it is dropped and LINK_OVERRUN is raised. -/
def OfferedWith (told : State → State → Prop) (s : State) (r : EgressRecord) (t : State) : Prop :=
  if s.link.egress.length < 32 ∧ (r.kind = .forward → s.link.egress.countP (fun x => x.kind == .forward) < 24) then
    t = { s with link := { s.link with egress := s.link.egress ++ [r] } }
  else if (r.kind = .present ∨ r.kind = .crewSnapshot) ∧ ∃ x ∈ s.link.egress, x.kind = r.kind then
    t = { s with link := { s.link with egress := s.link.egress.eraseP (fun x => x.kind == r.kind) ++ [r] } }
  else RaisedWith told s .linkOverrun (.item r.kind.code) t

/-! ### The moves of a telltale -/

/-- Where an off-debounce expiry takes a telltale (R82). -/
def State.fallen (s : State) (i : Fin 64) : TelltaleState :=
  if (s.tables.telltale[i]).latch = .untilIgnitionOff ∧ (s.time.part = .homing ∨ s.time.part = .run) then .latched else .off

/-- The table of moves of R81 and R82: the state an evaluation with a condition gives. -/
def State.evaluatedState (s : State) (i : Fin 64) (condition : Bool) : TelltaleState :=
  match (s.telltales.records[i]).state, condition with
  | .off, true => if (s.tables.telltale[i]).onDebounce = 0 then .on else .rising
  | .off, false => .off
  | .rising, true => .rising
  | .rising, false => .off
  | .on, true => .on
  | .on, false => if (s.tables.telltale[i]).offDebounce = 0 then s.fallen i else .falling
  | .falling, true => .on
  | .falling, false => .falling
  | .latched, true => .on
  | .latched, false => .latched

/-- Another telltale than `i` shows on a lamp channel, or the bulb check demands it (R88). -/
def State.demandedWithout (s : State) (i : Fin 64) (ch : Fin 32) : Prop :=
  s.bulbDemands ch = true ∨ ∃ j : Fin 64, j ≠ i ∧ s.lampShownBy j ch = true

/-! ### The Message Unit's events

An event at the Message Unit changes the three places and has reports to make, in the order of its rule. The event is taken whole, and
its reports then go out one after another, each completed at the Fault Unit, with the readers of slot 127 told, before the next (R18,
R104, R163; log entry 7). -/

/-- A record enters the Deferred Ring (R98, R102): it joins at the newest end; when the ring is full, the weakest record, the oldest
of the lowest priority, is dropped for a strictly higher one, and otherwise the incoming record is. -/
def RingEntered (m : Messages) (p : Presentation) (n : Messages) (reports : List MessageReport) : Prop :=
  if m.ring.length < 16 then n = { m with ring := m.ring ++ [p] } ∧ reports = []
  else ∃ old w new, m.ring = old ++ w :: new ∧ (∀ q ∈ old, w.priority < q.priority) ∧ (∀ q ∈ new, w.priority ≤ q.priority) ∧
    if w.priority < p.priority then n = { m with ring := old ++ new ++ [p] } ∧ reports = [.dropped w.telltale]
    else n = m ∧ reports = [.dropped p.telltale]

/-- Step 1 of a preemption (R101): a full stack's bottom record enters the Deferred Ring. -/
def Spilled (m n : Messages) (reports : List MessageReport) : Prop :=
  match m.stack with
  | [] => n = m ∧ reports = []
  | b :: rest => if 4 ≤ m.stack.length then RingEntered { m with stack := rest } b n reports else n = m ∧ reports = []

/-- An offer is placed (R100, R101): it becomes current, preempts in four steps, or enters the ring. -/
def OfferPlaced (m : Messages) (p : Presentation) (n : Messages) (reports : List MessageReport) : Prop :=
  match m.current with
  | none => n = { m with current := some p } ∧ reports = [.present]
  | some c =>
    if c.priority < p.priority then
      ∃ u drops, Spilled m u drops ∧ n = { u with stack := u.stack ++ [c], current := some p } ∧ reports = drops ++ [.present]
    else RingEntered m p n reports

/-- An offer is taken: its places, and a telltale whose record was dropped holds none (R85, R100 to R102). -/
def OfferTaken (s : State) (p : Presentation) (t : State) (reports : List MessageReport) : Prop :=
  ∃ m, OfferPlaced s.messages p m reports ∧
    t = { s with
      messages := m
      telltales := { s.telltales with records := (Vector.ofFn fun j : Fin 64 =>
        if (.dropped j) ∈ reports then { s.telltales.records[j] with held := .none } else s.telltales.records[j]) } }

/-- The choice after a removal of the current presentation (R98, R103): the stack top, unless the ring's best record, the oldest of the
highest priority, is strictly above it; none when both are empty. -/
def NextChosen (m n : Messages) : Prop :=
  (m.stack = [] ∧ m.ring = [] ∧ n = { m with current := none }) ∨
  (∃ below top, m.stack = below ++ [top] ∧ (∀ q ∈ m.ring, q.priority ≤ top.priority) ∧
    n = { m with current := some top, stack := below }) ∨
  ∃ old b new, m.ring = old ++ b :: new ∧ (∀ q ∈ old, q.priority < b.priority) ∧ (∀ q ∈ new, q.priority ≤ b.priority) ∧
    (∀ top ∈ m.stack.getLast?, top.priority < b.priority) ∧ n = { m with current := some b, ring := old ++ new }

/-- A withdrawal (R104): the current presentation is removed and the next chosen, with one PRESENT record (R103, R107); a record
elsewhere is removed where it stands, and nothing is sent. -/
def Withdrawn (s : State) (i : Fin 64) (t : State) (reports : List MessageReport) : Prop :=
  if s.messages.current.map Presentation.telltale = some i then
    (∃ m, NextChosen s.messages m ∧ t = { s with messages := m }) ∧ reports = [.present]
  else t = { s with messages := { s.messages with
    stack := s.messages.stack.eraseP fun p => p.telltale == i, ring := s.messages.ring.eraseP fun p => p.telltale == i } } ∧
    reports = []

/-- A telltale's chime request is removed, if it holds one (R109): a burst it was playing ends, and the arbiter chooses (R110). -/
def RequestRemoved (s : State) (i : Fin 64) (t : State) : Prop :=
  t = if s.messages.requests[i] = none then s
    else State.choose { s with messages := { s.messages with
      requests := (s.messages.requests.set i none)
      arbiter := match s.messages.arbiter with
        | .playing j phase left tone => if j = i then .idle else .playing j phase left tone
        | .idle => .idle } }

/-- An acknowledge press (R106): an acknowledgeable current presentation is removed, its telltale holds none and is acknowledged, its
chime request is withdrawn; any other press has no effect. -/
def Pressed (s t : State) (reports : List MessageReport) : Prop :=
  match s.messages.current with
  | none => t = s ∧ reports = []
  | some c =>
    if c.acknowledgeable = true then
      (∃ m, NextChosen s.messages m ∧ RequestRemoved ({ s with messages := m }.setTelltale c.telltale
        { s.telltales.records[c.telltale] with held := .none, acknowledged := true }) c.telltale t) ∧ reports = [.present]
    else t = s ∧ reports = []

/-- One report goes out (R102, R107): PRESENT_DROPPED is raised with the telltale's index, or one PRESENT record is offered, built from
the places as they stand. -/
def ReportMade (told : State → State → Prop) (r : MessageReport) (s t : State) : Prop :=
  match r with
  | .dropped i => RaisedWith told s .presentDropped (.item (BitVec.ofNat 8 i.val)) t
  | .present => OfferedWith told s (.present s.messages.current s.messages.stack.length s.messages.ring.length) t

/-- The reports of an event go out, each completed before the next (R163). -/
def ReportedWith (told : State → State → Prop) : List MessageReport → State → State → Prop
  | [], s, t => t = s
  | r :: rest, s, t => ∃ u, ReportMade told r s u ∧ ReportedWith told rest u t

/-! ### Telltales -/

/-- A telltale's lamp on its way to ON (R88): an IDLE channel that its valid entry names is LIT. -/
def lampShown (s : State) (i : Fin 64) (ch : Fin 32) : LampState :=
  if s.namesLamp i ch = true ∧ s.telltales.lamps[ch] = .idle then .lit else s.telltales.lamps[ch]

/-- A telltale's way to ON through its three steps: `a` with the record and the lamp (R88), `b` with the offer by message code or
backup code, `u` with the chime request (R83). -/
structure WentOnBy (s : State) (i : Fin 64) (a b u : State) (reports : List MessageReport) : Prop where
  shown : a = { s with telltales := { s.telltales with
    records := (s.telltales.records.set i { s.telltales.records[i] with state := .on, debounce := none })
    lamps := a.telltales.lamps } }
  lamps : (s.tables.telltale[i]).valid = true → ∀ ch : Fin 32, a.telltales.lamps[ch] = lampShown s i ch
  offered : ∀ h code, (s.telltales.records[i]).held = .none →
    (h = Held.main ∧ code = (s.tables.telltale[i]).message ∧ code ≠ 0) ∨
      (h = Held.backup ∧ (s.tables.telltale[i]).message = 0 ∧ s.lampFailed (s.tables.telltale[i]).lamp = true ∧
        code = (s.tables.telltale[i]).backup ∧ code ≠ 0) →
    OfferTaken (a.setHeld i h)
      ⟨i, (s.tables.telltale[i]).priority, code, (s.tables.telltale[i]).acknowledgeable⟩ b reports
  silent : (s.telltales.records[i]).held ≠ .none ∨
      ((s.tables.telltale[i]).message = 0 ∧
        (s.lampFailed (s.tables.telltale[i]).lamp = false ∨ (s.tables.telltale[i]).backup = 0)) → b = a ∧ reports = []
  chime : u = match (s.tables.telltale[i]).chime with
    | none => b
    | some p => State.choose { b with messages := { b.messages with requests := (b.messages.requests.set i (some
        ⟨p, if (s.tables.chime[p]).repeats = 0 then none else some (s.tables.chime[p]).repeats, .active⟩)) } }

/-- A telltale's way from RISING, or from OFF with no debounce, to ON (R83, R88). -/
def WentOn (s : State) (i : Fin 64) (u : State) (reports : List MessageReport) : Prop := ∃ a b, WentOnBy s i a b u reports

/-- A telltale's way to OFF through its steps: the record, with the presentation withdrawn if it holds one (`b`), the chime request
withdrawn (`c`), the lamp (R84, R88). -/
structure WentOffBy (s : State) (i : Fin 64) (b c u : State) (reports : List MessageReport) : Prop where
  withdrawn :
    let a := s.setTelltale i
      { s.telltales.records[i] with state := .off, debounce := none, acknowledged := false, held := .none }
    if (s.telltales.records[i]).held = .none then b = a ∧ reports = [] else Withdrawn a i b reports
  request : RequestRemoved b i c
  rest : u = { c with telltales := { c.telltales with lamps := u.telltales.lamps } }
  lamps : (s.tables.telltale[i]).valid = true → ∀ ch : Fin 32,
    (s.namesLamp i ch = false → u.telltales.lamps[ch] = s.telltales.lamps[ch]) ∧
    (s.namesLamp i ch = true → s.demandedWithout i ch →
      u.telltales.lamps[ch] = if s.telltales.lamps[ch] = .idle then .lit else s.telltales.lamps[ch]) ∧
    (s.namesLamp i ch = true → ¬ s.demandedWithout i ch →
      u.telltales.lamps[ch] = if s.telltales.lamps[ch] = .lit then .idle else s.telltales.lamps[ch])

/-- A telltale's way to OFF (R84, R88). -/
def WentOff (s : State) (i : Fin 64) (u : State) (reports : List MessageReport) : Prop := ∃ b c, WentOffBy s i b c u reports

/-- An evaluation moves a telltale with its condition as formed (R81, R82): the two ways to ON and to OFF above, and the moves that
change the record alone, of which there is nothing to report. -/
def Moved (s : State) (i : Fin 64) (condition : Bool) (u : State) (reports : List MessageReport) : Prop :=
  let e := s.tables.telltale[i]
  let r := { s.telltales.records[i] with condition := condition }
  let a := s.setTelltale i r
  match r.state, condition with
  | .off, true =>
    if e.onDebounce = 0 then WentOn a i u reports
    else u = s.setTelltale i { r with state := .rising, debounce := some e.onDebounce } ∧ reports = []
  | .rising, false => u = s.setTelltale i { r with state := .off, debounce := none } ∧ reports = []
  | .on, false =>
    if e.offDebounce = 0 then
      if s.fallen i = .latched then u = s.setTelltale i { r with state := .latched, debounce := none } ∧ reports = []
      else WentOff a i u reports
    else u = s.setTelltale i { r with state := .falling, debounce := some e.offDebounce } ∧ reports = []
  | .falling, true | .latched, true => u = s.setTelltale i { r with state := .on, debounce := none } ∧ reports = []
  | .off, false | .rising, true | .on, true | .falling, false | .latched, false => u = a ∧ reports = []

/-- An evaluation of a telltale from its source slot as it stands (R77, R78, R80). -/
def EvaluatedWith (told : State → State → Prop) (s : State) (i : Fin 64) (t : State) : Prop :=
  ∃ u reports, Moved s i ((s.tables.telltale[i]).condition (s.slot (s.tables.telltale[i]).source)
      (s.telltales.records[i]).condition) u reports ∧ ReportedWith told reports u t

/-- One event takes the telltales in rising index, each whole before the next (R80). -/
def InTurn (turn : State → Fin 64 → State → Prop) (s t : State) : Prop :=
  ∃ path : Nat → State, path 0 = s ∧ path 64 = t ∧ ∀ i : Fin 64, turn (path i.val) i (path (i.val + 1))

/-- A lamp channel after its demand is recomputed (R88). -/
def relit (l : LampState) (demanded : Bool) : LampState :=
  match l, demanded with
  | .idle, true => .lit
  | .lit, false => .idle
  | .idle, false | .lit, true | .open, _ | .shortProtect, _ => l

/-- `s` with every lamp channel's demand recomputed from given channel states (R88). -/
def State.relit (s : State) (lamps : Vector LampState 32) : State :=
  { s with telltales := { s.telltales with
      lamps := Vector.ofFn fun ch : Fin 32 => Machine.relit lamps[ch] (s.lampDemanded ch) } }

/-! ### Events of slots -/

/-- The blocks that read a decoded slot, the Gauge Unit apart (R18, R41, R76, R105, R122, R129, R136, R140). -/
def State.decodedReader (s : State) (change : SlotChange) (k : Fin 120) (r : Reader) : Prop :=
  match r with
  | .telltales => ∃ i : Fin 64, (s.tables.telltale[i]).valid = true ∧ (s.tables.telltale[i]).source = decodedSlot k
  | .ack => s.tables.system.ackSlot = some (decodedSlot k)
  | .speed => s.tables.system.primarySpeed = some k ∨ s.tables.system.secondarySpeed = some k
  | .activity x => (s.tables.crew.inputs x).activity = some k
  | .token x => change = .value ∧ (s.tables.crew.inputs x).token = some k
  | .tally x .continuous => change = .value ∧ (s.tables.crew.inputs x).tallyContinuous = some k
  | .tally x .daily => change = .value ∧ (s.tables.crew.inputs x).tallyDaily = some k
  | .time => change = .value ∧ s.tables.crew.timeSlot = some k
  | .road => False

/-- The blocks that read a derived slot, the Gauge Unit apart (R18, R105, R122). -/
def State.derivedReader (s : State) (k : Fin 128) (r : Reader) : Prop :=
  match r with
  | .telltales => ∃ i : Fin 64, (s.tables.telltale[i]).valid = true ∧ (s.tables.telltale[i]).source = k
  | .ack => s.tables.system.ackSlot = some k
  | .road => k = 120 ∧ ∃ (p : Fin 4) (r : CrewRecord) (x : CrewPosition), s.crew.places[p] = some r ∧ r.place = .attached x
  | .speed | .activity _ | .token _ | .tally _ _ | .time => False

/-- `s` with the target of each HOMING and TRACKING channel on a slot evaluated (R57). -/
def State.targetsTaken (s : State) (k : Fin 128) : State :=
  { s with gauges := { s.gauges with channels := Vector.ofFn fun ch : Fin 6 =>
      let c := s.gauges.channels[ch]
      let e := s.tables.gauge[ch]
      if (c.state = .homing ∨ c.state = .tracking) ∧ e.source = k then
        { c with target := e.target s.tables.curve[e.curve] (s.slot k) c.target }
      else c } }

/-- The active telltales on a slot are evaluated in turn, from the slot as it then stands, each move reported before the next (R80). -/
def TelltalesActedWith (told : State → State → Prop) (k : Fin 128) (s t : State) : Prop :=
  InTurn (fun s i t =>
    if s.telltaleActive i = true ∧ (s.tables.telltale[i]).source = k then EvaluatedWith told s i t else t = s) s t

/-- The acknowledge detector takes its slot as it stands; a change from a usable 0 to a usable non-zero value is a press (R105,
R106). -/
def AckActedWith (told : State → State → Prop) (k : Fin 128) (s t : State) : Prop :=
  let seen : LastSeen := if (s.slot k).usable = true then (if (s.slot k).value = 0 then .zero else .nonZero) else .none
  let a := { s with messages := { s.messages with lastSeen := seen } }
  if s.messages.lastSeen = .zero ∧ seen = .nonZero then ∃ u reports, Pressed a u reports ∧ ReportedWith told reports u t else t = a

/-- `t` follows from `s` by an event of a slot (R18, R37): the channels on it take their targets (R57), and each of its other readers
acts once, in an order that is left open (R104, R163; log entry 5). -/
def EventTakenBy (acted : Reader → State → State → Prop) (k : Fin 128) (readers : Reader → Prop) (s t : State) : Prop :=
  ∃ (order : List Reader) (n : Nat) (path : Nat → State), order.Nodup ∧ (∀ r, r ∈ order ↔ readers r) ∧
    path 0 = { s.targetsTaken k with choices := n } ∧ path order.length = t ∧
    ∀ (j : Nat) (r : Reader), order[j]? = some r → acted r (path j) (path (j + 1))

/-- What the readers of a derived slot other than ROAD_SPEED do with an event of it (R18). -/
def DerivedActedWith (told : State → State → Prop) (k : Fin 128) (r : Reader) (s t : State) : Prop :=
  match r with
  | .telltales => TelltalesActedWith told k s t
  | .ack => AckActedWith told k s t
  | .road | .speed | .activity _ | .token _ | .tally _ _ | .time => t = s

/-- The readers of a derived slot other than ROAD_SPEED take an event of it, the slot already written (R18, R37). -/
def DerivedToldWith (told : State → State → Prop) (k : Fin 128) (s t : State) : Prop :=
  EventTakenBy (DerivedActedWith told k) k (s.derivedReader k) s t

/-- Slot 127 holds the number of set, unmasked SEVERE classes, FRESH (R169). -/
def State.severeHeld (s : State) : Prop :=
  s.slot 127 = { value := BitVec.ofNat 32 s.severeCount, quality := .fresh, clamped := false, age := 0 }

/-- Slot 127 is written and its readers take the event as the write is made, from the slot as it stands after it (R18, R37, R169). Where a
reader's own reports write slot 127 again, that write is told in the same way before the reader goes on; the first argument says to
what depth this is spelled out, and below it there stands what a reaction leaves alone. Slot 127 is left holding the count as it
stands then, whatever its readers raise on the way. -/
def SevereToldTo : Nat → State → State → Prop
  | 0, s, t => Reacted s.severeWritten t ∧ t.severeHeld
  | n + 1, s, t => DerivedToldWith (SevereToldTo n) 127 s.severeWritten t ∧ t.severeHeld

/-- Slot 127 is written and its readers take the event, to the depth to which such writes nest (R169; log entry 6). -/
def SevereTold : State → State → Prop := SevereToldTo 17

/-- The readers of a derived slot other than ROAD_SPEED take an event of it, the slot already written (R18, R37). -/
def DerivedTold : Fin 128 → State → State → Prop := DerivedToldWith SevereTold

/-- Slots 122 to 125 are written one after another, each with its event before the next (R37, R138, R139). -/
def RemainingTold (s t : State) : Prop :=
  ∃ a b c, DerivedTold 122 (s.setSlot 122 (s.remainingContent 122 .driver .continuous)) a ∧
    DerivedTold 123 (a.setSlot 123 (a.remainingContent 123 .driver .daily)) b ∧
    DerivedTold 124 (b.setSlot 124 (b.remainingContent 124 .coDriver .continuous)) c ∧
    DerivedTold 125 (c.setSlot 125 (c.remainingContent 125 .coDriver .daily)) t

/-! ### Occurrences and offers with the readers of slot 127 -/

/-- An occurrence, the readers of slot 127 taking its write (R163, R166 to R169). -/
def Raised : State → FaultClass → FaultDetail → State → Prop := RaisedWith SevereTold

/-- An offer to the egress queue (R176). -/
def Offered : State → EgressRecord → State → Prop := OfferedWith SevereTold

/-- The reports of an event at the Telltale Unit or the Message Unit go out (R102, R107, R163). -/
def Reported : List MessageReport → State → State → Prop := ReportedWith SevereTold

/-! ### Telltales, their moves reported -/

/-- A fresh evaluation: the condition is first set false (R80). -/
def FreshlyEvaluated (s : State) (i : Fin 64) (t : State) : Prop :=
  ∃ u reports, Moved s i ((s.tables.telltale[i]).condition (s.slot (s.tables.telltale[i]).source) false) u reports ∧
    Reported reports u t

/-- A telltale is set to OFF with condition false (R86, R97). -/
def Cleared (s : State) (i : Fin 64) (t : State) : Prop :=
  let a := s.setTelltale i { s.telltales.records[i] with condition := false }
  if (s.telltales.records[i]).state = .off then t = a else ∃ u reports, WentOff a i u reports ∧ Reported reports u t

/-- STANDBY entry at one telltale (R86). -/
def StoodBy (s : State) (i : Fin 64) (t : State) : Prop :=
  if (s.tables.telltale[i]).standbyVisible = true then
    if (s.telltales.records[i]).state = .latched then ∃ u reports, WentOff s i u reports ∧ Reported reports u t else t = s
  else Cleared s i t

/-- The fresh evaluations of the telltales that become active when the part leaves a state (R80, R86, R87). -/
def NewlyActive (before : PartState) (s t : State) : Prop :=
  InTurn (fun s i t =>
    if s.telltaleActive i = true ∧ activeIn before s.tables.telltale[i] = false then FreshlyEvaluated s i t else t = s) s t

/-- The backup offers at a channel's entry into OPEN or SHORT_PROTECT, in rising index (R92). Each telltale is read at its turn (log
entry 37). -/
def BackupsOffered (ch : Fin 32) (s t : State) : Prop :=
  InTurn (fun s i t =>
    let e := s.tables.telltale[i]
    if s.namesLamp i ch = true ∧ (s.telltales.records[i]).state = .on ∧ (s.telltales.records[i]).held = .none ∧ e.backup ≠ 0
    then ∃ u reports, OfferTaken (s.setHeld i .backup) ⟨i, e.priority, e.backup, e.acknowledgeable⟩ u reports ∧ Reported reports u t
    else t = s) s t

/-- An accepted write of a telltale's entry, the entry already in its place (R94): whatever its state, the telltale goes OFF with condition
false, its timer stopped and acknowledged cleared; its presentation, if it holds one, is withdrawn (`b`) and its chime request is
(`c`); the demand of the channel named before and of the one named now is recomputed (`x`; R88); then, if it is active under the
entry as written, it is evaluated afresh (R80). -/
def TelltaleRewritten (i : Fin 64) (lampBefore : Option (Fin 32)) (s u : State) : Prop :=
  ∃ b c x v reports,
    (let a := s.setTelltale i { state := .off, condition := false, debounce := none, acknowledged := false, held := .none }
     if (s.telltales.records[i]).held = .none then b = a ∧ reports = [] else Withdrawn a i b reports) ∧
    RequestRemoved b i c ∧
    x = { c with telltales := { c.telltales with lamps := x.telltales.lamps } } ∧
    (∀ ch : Fin 32, x.telltales.lamps[ch] =
      if lampBefore = some ch ∨ (s.tables.telltale[i]).lamp = some ch then
        Machine.relit s.telltales.lamps[ch] (x.lampDemanded ch)
      else s.telltales.lamps[ch]) ∧
    Reported reports x v ∧
    if v.telltaleActive i = true then FreshlyEvaluated v i u else u = v

/-- `t` follows from `s` by a refused management request: nothing is changed, MGMT_REFUSED is raised with the status, and the
REPLY carries it (R177). -/
def Refused (s : State) (code : Byte) (tag : Word16) (r : ReplyStatus) (t : State) : Prop :=
  ∃ u, Raised s .mgmtRefused (.item r.code) u ∧ Offered u (.reply code tag r []) t

/-! ### Replies and frames -/

/-- A state with one more reply frame placed, its expiry 250 ms ahead (R184). -/
def State.replyPlaced (s : State) (reply : ReplyAddress) (data : List Byte) : State :=
  { s with portB := { s.portB with queue := s.portB.queue ++ [⟨⟨reply, data⟩, 250⟩] } }

/-- Byte 0 of a reply frame: the request code in the high four bits, the status in the low four (R190). -/
def replyHead (code : Byte) (r : ReplyStatus) : Byte := (code <<< 4) ||| r.code

/-- What a matched frame does before its entry is used (R7, R13, R158): in STANDBY the quiet timer restarts, in RUN its port's
silence timer does. -/
def State.frameSeen (s : State) (p : Port) : State :=
  let silence : Silence :=
    { timer := if s.tables.system.portSilence = 0 then none else some s.tables.system.portSilence, episode := false }
  { s with
    time := { s.time with
      quiet :=
        if s.time.part = .standby then
          if s.tables.system.quietTime = 0 then .elapsed else .running s.tables.system.quietTime
        else s.time.quiet },
    intake := { s.intake with
      silenceA := if s.time.part = .run ∧ p = .a then silence else s.intake.silenceA,
      silenceB := if s.time.part = .run ∧ p = .b then silence else s.intake.silenceB } }

/-- The entry that takes a frame: the first that claims it (R5, R6). -/
def State.takenBy (s : State) (f : Frame) (i : Fin 96) : Prop :=
  (s.tables.intake[i]).claims f = true ∧ ∀ j : Fin 96, j < i → (s.tables.intake[j]).claims f = false

/-- What one run of a map entry makes of its destination slot (R21, R24 to R29, R34). -/
def MapEntry.slotAfter (e : MapEntry) (c : SlotConfig) (data : List Byte) (x : Slot) : Slot :=
  if e.valid = true ∧ e.short data = false then
    match e.read (e.pattern data) with
    | .notAvailable => { x with quality := .notAvailable, clamped := false, age := 0 }
    | .error => { x with quality := .error, clamped := false, age := 0 }
    | .value p =>
      { value := (c.clamp (e.offsetValue p)).1, quality := .fresh, clamped := (c.clamp (e.offsetValue p)).2, age := 0 }
  else x

/-- What one run of a map entry makes of its destination's hold and stale timers (R32 to R34). -/
def MapEntry.timersAfter (e : MapEntry) (c : SlotConfig) (data : List Byte) (x : Timer × Timer) : Timer × Timer :=
  if e.valid = true ∧ e.short data = false then
    match e.read (e.pattern data) with
    | .notAvailable | .error => (none, none)
    | .value _ => (some (max 1 c.holdTime), if c.staleTime = 0 then none else some c.staleTime)
  else x

/-- The map entries of a range, in rising index order (R8). -/
def mapRange (first count : Nat) : List (Fin 192) :=
  (List.finRange 192).filter fun m => decide (first ≤ m.val ∧ m.val < first + count)

/-- `s` with the decoded slots and their timers of `t`. -/
def State.withDecoded (s t : State) : State :=
  { s with store :=
    { slots := Vector.ofFn fun k : Fin 128 => if k.val < 120 then t.store.slots[k] else s.store.slots[k],
      hold := t.store.hold, stale := t.store.stale } }

/-- `t` follows from `s` by one run of a map entry on a frame (R21 to R29, R34): nothing for an invalid entry, FRAME_SHORT for a frame
that is short for it, and otherwise its destination is written, by a code update or a value update, with the slot's event. -/
def MapEntryRan (f : Frame) (m : Fin 192) (s t : State) : Prop :=
  let e := s.tables.map[m]
  let k := e.destination
  let timers := e.timersAfter s.tables.slotConfig[k] f.data (s.store.hold[k], s.store.stale[k])
  let written := { s with store :=
    { slots := (s.store.slots.set (decodedSlot k) (e.slotAfter s.tables.slotConfig[k] f.data (s.slot (decodedSlot k))))
      hold := (s.store.hold.set k timers.1), stale := (s.store.stale.set k timers.2) } }
  if e.valid = false then t = s
  else if e.short f.data = true then Raised s .frameShort (.frameShort f.port f.id m.val) t
  else match e.read (e.pattern f.data) with
    | .notAvailable | .error => t = decodedEvent .code k written
    | .value _ => t = decodedEvent .value k written

/-- `t` follows from `s` by a frame's map range (R8, R21 to R29, R34): its entries run in rising index, each with the slot's event
before the next; each decoded slot and its timers are what the range's entries with that destination make of them, one after
another; a valid entry that the frame is short for leaves FRAME_SHORT set; the rest is what the slots' readers do. -/
structure MapRan (f : Frame) (first count : Nat) (s t : State) : Prop where
  run : ∃ path : Nat → State, path 0 = s ∧ path 192 = t ∧ ∀ m : Fin 192,
    if m ∈ mapRange first count then MapEntryRan f m (path m.val) (path (m.val + 1)) else path (m.val + 1) = path m.val
  slots : ∀ k : Fin 120, t.slot (decodedSlot k) =
    (mapRange first count).foldl
      (fun x m => if (s.tables.map[m]).destination = k then
        (s.tables.map[m]).slotAfter s.tables.slotConfig[k] f.data x else x)
      (s.slot (decodedSlot k))
  timers : ∀ k : Fin 120, (t.store.hold[k], t.store.stale[k]) =
    (mapRange first count).foldl
      (fun x m => if (s.tables.map[m]).destination = k then
        (s.tables.map[m]).timersAfter s.tables.slotConfig[k] f.data x else x)
      (s.store.hold[k], s.store.stale[k])
  short : ∀ m ∈ mapRange first count, (s.tables.map[m]).valid = true → (s.tables.map[m]).short f.data = true →
    t.faults.status[FaultClass.frameShort.number] = true
  rest : Observed (s.withDecoded t) t

/-- `t` follows from `s` by the forwarding decision of a frame under an entry (R9, R10): in HOMING and RUN a FORWARD record is
offered with ALWAYS, and with ON_CHANGE when the data bytes differ from the forward memory, which takes them when the record is
accepted. -/
def Forwarded (i : Fin 96) (f : Frame) (s t : State) : Prop :=
  let mode := (s.tables.intake[i]).forwardMode
  if (s.time.part = .homing ∨ s.time.part = .run) ∧
      (mode = .always ∨ (mode = .onChange ∧ s.intake.forwardMemory[i] ≠ some f.data)) then
    ∃ u, Offered s (.forward i f.port f.id f.data) u ∧
      t = if mode = .onChange ∧ s.link.egress.length < 32 ∧ s.link.egress.countP (fun x => x.kind == .forward) < 24 then
        { u with intake := { u.intake with forwardMemory := u.intake.forwardMemory.set i (some f.data) } } else u
  else t = s

/-- A service request frame's data bytes are long enough for a code known on port B (R181, R190). -/
def serviceKnown (data : List Byte) : Prop :=
  (data.head? = some 3 ∧ 8 ≤ data.length) ∨ (data.head? = some 4 ∧ 4 ≤ data.length) ∨
    (data.head? = some 6 ∧ 3 ≤ data.length) ∨ data.head? = some 10

/-! ### Requests and the link -/

/-- The downstream side of a transfer (R173): the head leaves the queue and is sent, or EMPTY is sent. -/
def State.downstreamSent (s : State) : State :=
  { s with link :=
    { egress := s.link.egress.tail, sent := some (match s.link.egress with | [] => emptyRecord | r :: _ => r.bytes) } }

/-- An upstream record passes R175: the check agrees, the kind is EMPTY or MGMT_REQUEST, the payload length is at most 60. -/
def upstreamGood (u : List Byte) : Prop :=
  crc16 (u.take 62) = byteAt u 62 ++ byteAt u 63 ∧ (byteAt u 0 = 0x00 ∨ byteAt u 0 = 0x01) ∧ (byteAt u 1).toNat ≤ 60

/-- The payload of a MGMT_REQUEST that carries a request (R187); none for the other commands. -/
def requestPayload : Instr → Option (List Byte)
  | .load tag table index entry => some (1 :: natBytes 2 tag.toNat ++ [table, index] ++ entry)
  | .read tag table index => some (2 :: natBytes 2 tag.toNat ++ [table, index])
  | .setField tag table index field value => some (3 :: natBytes 2 tag.toNat ++ [table, index, field] ++ wordBytes value)
  | .readField tag table index field => some (4 :: natBytes 2 tag.toNat ++ [table, index, field])
  | .state tag target index => some (5 :: natBytes 2 tag.toNat ++ [target, index])
  | .clearFaults tag classes => some (6 :: natBytes 2 tag.toNat ++ natBytes 2 classes.toNat)
  | .intakeSectionReset tag => some (7 :: natBytes 2 tag.toNat ++ [0])
  | .signalsSectionReset tag => some (7 :: natBytes 2 tag.toNat ++ [1])
  | .speedSectionReset tag => some (7 :: natBytes 2 tag.toNat ++ [2])
  | .gaugesSectionReset tag => some (7 :: natBytes 2 tag.toNat ++ [3])
  | .telltalesSectionReset tag => some (7 :: natBytes 2 tag.toNat ++ [4])
  | .presentationSectionReset tag => some (7 :: natBytes 2 tag.toNat ++ [5])
  | .crewSectionReset tag => some (7 :: natBytes 2 tag.toNat ++ [6])
  | .faultsSectionReset tag => some (7 :: natBytes 2 tag.toNat ++ [7])
  | .start tag => some (8 :: natBytes 2 tag.toNat)
  | .warmReset tag => some (9 :: natBytes 2 tag.toNat)
  | .coldStart | .resetInputAssert | .resetInputRelease | .ignitionSenseChange _ | .ignitionOn | .ignitionOff
  | .frameArrival _ | .portBFrameStart | .monotonicAdvance | .linkTransfer _ | .serviceSetField _ _ _ _ _
  | .serviceReadField _ _ _ _ | .serviceClearFaults _ _ | .readFaults _ | .silenceExpiry _ | .holdExpiry _ | .staleExpiry _
  | .plausibilityTick | .filterTick | .stallReport _ | .onDebounceExpiry _ | .offDebounceExpiry _ | .lampNoCurrent _
  | .lampCurrentPresent _ | .lampOverCurrent _ | .bulbCheckExpiry | .chimeOnExpiry | .chimeOffExpiry | .chimeNoCurrent
  | .chimeCurrentPresent | .settleExpiry | .quietExpiry | .replyFrameSend | .replyFrameSent | .replyFrameNotSent
  | .replyExpiry _ | .msCounterAdvance | .keepAliveRemoval => none

/-- The tables differ at most in the y of one curve point, or in the factor or the offset of one map entry whose calibration
flag is true (R182). -/
def CalibrationOnly (a b : Tables) : Prop :=
  b = a ∨
  (∃ (i : Fin 12) (j : Fin 8) (y : Nat), ∀ c, c = a.curve[i] → ∀ p, p = c.points[j] →
    b = { a with curve := (a.curve.set i { c with points := (c.points.set j { p with y := y }) }) }) ∨
  ∃ i : Fin 192, ∀ e, e = a.map[i] → e.calibration = true ∧
    ((∃ x, b = { a with map := (a.map.set i { e with factor := x }) }) ∨
      ∃ x, b = { a with map := (a.map.set i { e with offset := x }) })

/-! ### Entries -/

/-- HOMING entry as a whole: its own values; SHORT_PROTECT released and the lamps recomputed (R88, R91); then the telltales that become
active are evaluated afresh in turn (R80, R87); the plausibility tick runs (R43). No channel is left in SHORT_PROTECT. -/
def HomingEntered (s t : State) : Prop :=
  Reacted s.homingValues t ∧ (∀ ch : Fin 32, t.telltales.lamps[ch] ≠ .shortProtect) ∧
  ∃ w, NewlyActive s.time.part
      (State.relit { s.homingValues with speed := s.speed } (Vector.ofFn fun ch : Fin 32 =>
        if s.telltales.lamps[ch] = .shortProtect then .idle else s.telltales.lamps[ch])) w ∧
    t = { w with speed := { w.speed with tick := some 100 } }

/-- STANDBY entry as a whole: its own values; each telltale stands by in turn, and then those that become active are evaluated afresh
in turn (R80, R86); the bulb check ends and the lamps are recomputed (R88, R93). No telltale that is not standby-visible is left
other than OFF, with condition false. -/
def StandbyEntered (s t : State) : Prop :=
  Reacted s.standbyValues t ∧
  (∀ i : Fin 64, (s.tables.telltale[i]).standbyVisible = false →
    (t.telltales.records[i]).state = .off ∧ (t.telltales.records[i]).condition = false) ∧
  ∃ v w, InTurn StoodBy { s.standbyValues with telltales := s.telltales } v ∧ NewlyActive s.time.part v w ∧
    t = State.relit { w with telltales := { w.telltales with bulbCheck := none } } w.telltales.lamps

/-- HOMING with the filtered level on, STANDBY with it off (R152, R154). -/
def EnteredByLevel (s t : State) : Prop :=
  if s.time.filteredIgnition then HomingEntered s t else StandbyEntered s t

/-! ### Channels -/

/-- The target as a filter tick finds it: evaluated from the source slot for a TRACKING channel, otherwise kept (R57). -/
def State.tickTarget (s : State) (ch : Fin 6) : Nat :=
  let c := s.gauges.channels[ch]
  let e := s.tables.gauge[ch]
  if c.state = .tracking then e.target s.tables.curve[e.curve] (s.slot e.source) c.target else c.target

/-- What a filter tick makes of a channel, its target found: 32 microsteps of homing, which fails at MaxPos + 64 (R63, R64); the
damping step and the motion step (R60, R61); a parking step of Vmax (R68). -/
def tickedChannel (c : Channel) (e : GaugeEntry) (part : PartState) (target : Nat) : Channel :=
  match c.state with
  | .homing =>
    if e.maxPos + 64 ≤ c.homingDistance + 32 then
      { c with
        homingDistance := c.homingDistance + 32, position := 0, filter := 0, moved := false
        state := if e.valid = true ∧ c.stallCount < 3 then (if part = .standby then .parked else .tracking) else .disabled }
    else { c with homingDistance := c.homingDistance + 32, position := c.position - 32 }
  | .tracking =>
    let filter := damped e.damping target c.filter
    let position := movedPosition e.vmax e.maxPos filter c.position
    { c with target := target, filter := filter, position := position, moved := decide (position ≠ c.position) }
  | .parking =>
    let position := c.position - e.vmax
    { c with position := position, filter := 16 * position, state := if position = 0 then restingState e else .parking }
  | .unhomed | .parked | .disabled => c

/-- `s` with the two gauge conditions reported (R71). -/
def State.gaugesReported (s : State) : State :=
  { s with time := { s.time with homingDone := s.homingDoneNow, atRest := s.atRestNow } }

/-- The conditions are reported when a channel's state has changed since `s`, and stand as they were last reported otherwise
(R71). -/
def State.reportedSince (u s : State) : State :=
  if ∀ ch : Fin 6, (u.gauges.channels[ch]).state = (s.gauges.channels[ch]).state then u else u.gaugesReported

/-- One channel's work at a filter tick, in its turn (R56, R57, R60, R61, R63, R68); a homing that fails raises GAUGE_HOMING_FAIL with the
channel's number after the last 32 microsteps and before its end (R63, R64). -/
def ChannelTicked (s : State) (ch : Fin 6) (t : State) : Prop :=
  let c := s.gauges.channels[ch]
  let e := s.tables.gauge[ch]
  let after := tickedChannel c e s.time.part (s.tickTarget ch)
  if c.state = .homing ∧ e.maxPos + 64 ≤ c.homingDistance + 32 then
    ∃ u, Raised (s.setChannel ch { c with homingDistance := c.homingDistance + 32, position := c.position - 32 })
        .gaugeHomingFail (.item (BitVec.ofNat 8 ch.val)) u ∧
      t = u.setChannel ch { after with target := (u.gauges.channels[ch]).target }
  else t = s.setChannel ch after

/-- What a filter tick leaves before the reports (R56): the interval restarts, the channels do the work of their states one after another
in rising number (`run`), and a homing that has failed has raised GAUGE_HOMING_FAIL (R63). A channel on slot 127 finds the slot as
the failures of lower channels have left it, so its target is given at its turn alone. -/
structure Ticked (s u : State) : Prop where
  run : ∃ path : Nat → State, path 0 = { s with gauges := { s.gauges with tick := some 10 } } ∧ path 6 = u ∧
    ∀ ch : Fin 6, ChannelTicked (path ch.val) ch (path (ch.val + 1))
  tick : u.gauges.tick = some 10
  channels : ∀ ch : Fin 6, (s.tables.gauge[ch]).source ≠ 127 →
    u.gauges.channels[ch] = tickedChannel s.gauges.channels[ch] s.tables.gauge[ch] s.time.part (s.tickTarget ch)
  onSlot127 : ∀ ch : Fin 6, ∃ target, u.gauges.channels[ch] =
    { tickedChannel s.gauges.channels[ch] s.tables.gauge[ch] s.time.part target with
      target := (u.gauges.channels[ch]).target }
  failed : ∀ ch : Fin 6, (s.gauges.channels[ch]).state = .homing →
    (s.tables.gauge[ch]).maxPos + 64 ≤ (s.gauges.channels[ch]).homingDistance + 32 →
    u.faults.status[FaultClass.gaugeHomingFail.number] = true
  rest : Reacted { s with gauges := u.gauges } u

/-! ### Speed, crew and time -/

/-- `t` follows from `s` by a selection (R47, R48): the selection, then ROAD_SPEED with its event, then SPEED_SOURCE with its event. -/
structure Selected (s t : State) : Prop where
  selection : t.speed = { s.speed with selection := s.selectSpeed }
  road : t.slot 120 = s.roadContent s.selectSpeed
  source : t.slot 121 = s.selectSpeed.content
  events : t = derivedEvent publishSevere 121 ((derivedEvent publishSevere 120
    ({ s with speed := { s.speed with selection := s.selectSpeed } }.setSlot 120 (s.roadContent s.selectSpeed))).setSlot 121
      s.selectSpeed.content)
  rest : Observed s t

/-- One second of the keep-alive oscillator at the counters (R147, R148). -/
def State.secondPassed (s : State) : State :=
  { s with time := { s.time with
      mono := s.time.mono + 1, utc := if s.time.utcValid then s.time.utc + 1 else s.time.utc } }

/-- One accounting tick of an attached record (R126, R127): driving time below the top of the daily counter; a longer rest run,
with the crossings that it has just reached; nothing otherwise. -/
def tickedRecord (cfg : CrewConfig) (r : CrewRecord) : CrewRecord :=
  match r.activity with
  | .drive => if r.daily < 86400 then { r with daily := r.daily + 1, continuous := r.continuous + 1 } else r
  | .rest =>
    if r.run < 4294967295 then
      let full := r.run + 1 = cfg.breakFull
      let second := r.run + 1 = cfg.breakPartB ∧ r.breakState = .partA
      let day := r.run + 1 = cfg.dailyRest
      { r with
        run := r.run + 1
        continuous := if full ∨ second ∨ day then 0 else r.continuous
        daily := if day then 0 else r.daily
        breakState := if full ∨ second then .none else r.breakState }
    else r
  | .available | .work | .unknown => r

/-- What a wake makes of the part, before what the readers of slots 122 to 126 do (R134, R153, R154): WAKING, the wake credit,
slots 122 to 126, the settle interval. -/
def State.wakingValues (s : State) : State :=
  let u := ((State.creditCrew { s with time := { s.time with part := .waking } } s.sleepGap).storeRemaining).ignitionWritten
  { u with time := { u.time with settle := some (max 1 s.tables.system.wakeSettle) } }

/-- WAKING entry from SLEEP (R134, R150, R153, R154): the wake credit with slots 122 to 125, then slot 126, each with its event; then
the settle interval. -/
def WakingEntered (s t : State) : Prop :=
  Reacted s.wakingValues t ∧
  ∃ v w, RemainingTold (State.creditCrew { s with time := { s.time with part := .waking } } s.sleepGap) v ∧
    DerivedTold 126 v.ignitionWritten w ∧
    t = { w with time := { w.time with settle := some (max 1 s.tables.system.wakeSettle) } }

/-! ### The readers of a slot -/

/-- An activity applied to a record: leaving REST ends the rest run, which may leave the first part of a break (R124). -/
def activityTaken (cfg : CrewConfig) (a : Activity) (r : CrewRecord) : CrewRecord :=
  { r with
    activity := a
    run := if r.activity = .rest ∧ a ≠ .rest then 0 else r.run
    breakState := if r.activity = .rest ∧ a ≠ .rest ∧ cfg.breakPartA ≤ r.run ∧ r.run < cfg.breakFull ∧ r.breakState = .none
      then .partA else r.breakState }

/-- A derivation of a position's activity: applied to the record attached there; with none, nothing changes (R122, R124). -/
def ActivityDerived (x : CrewPosition) (s t : State) : Prop :=
  (s.crew.attached x = none → t = s) ∧
  ∀ (p : Fin 4) (r : CrewRecord), s.crew.places[p] = some r → r.place = .attached x →
    (∀ (q : Fin 4) (y : CrewRecord), q < p → s.crew.places[q] = some y → y.place ≠ .attached x) →
    t = { s with crew := { s.crew with
      places := (s.crew.places.set p (some (activityTaken s.tables.crew (s.derivedActivity x) r))) } }

/-- What one reader does with an event of a slot, the slots as they stand at its turn: the telltales in turn (R80), the acknowledge
detector with its press (R105, R106), the road reading and the activity with TACHO_CODE (R122), a selection (R47), a token
update with its slots and snapshot (R130), a tally update (R137), UTC (R140, R148). -/
def ReaderActed (k : Fin 128) (r : Reader) (s t : State) : Prop :=
  match r with
  | .telltales => TelltalesActedWith SevereTold k s t
  | .ack => AckActedWith SevereTold k s t
  | .road =>
    let read := fun (x : CrewPosition) (s t : State) =>
      if s.namedUsable (s.tables.crew.inputs x).activity = true then t = s else ActivityDerived x s t
    ∃ u, read .driver s u ∧ read .coDriver u t
  | .speed => Selected s t
  | .activity x =>
    let strange := (s.slot k).usable = true ∧ 3 < (s.slot k).value.toNat
    ∃ u, ActivityDerived x s u ∧
      if s.crew.attached x ≠ none ∧ strange then Raised u .tachoCode (.tacho x (s.slot k).value) t else t = u
  | .token x =>
    match s.crew.tokenUpdate s.tables.crew s.time.mono x (s.slot k).value with
    | none => t = s
    | some c => ∃ w, RemainingTold { s with crew := c } w ∧ Reacted (State.storeRemaining { s with crew := c }) w ∧
      Offered w w.snapshot t
  | .tally x counter => t = tallyEvent x counter (s.slot k).value s
  | .time => t = { s with time := { s.time with utc := (s.slot k).value, utcValid := true } }

/-- `t` follows from `s` by an event of a slot: each of its readers does what `ReaderActed` says. -/
def EventTaken (k : Fin 128) (readers : Reader → Prop) (s t : State) : Prop := EventTakenBy (ReaderActed k) k readers s t

/-! ### Table writes -/

/-- The block that owns a table accepts an entry's bytes (R3, R19, R30, R52, R54, R76, R108, R118, R160, R164). -/
def entryGood (t : TableId) (l : List Byte) : Bool :=
  match t with
  | .intake => (IntakeEntry.ofBytes l).any IntakeEntry.ok
  | .map => (MapEntry.ofBytes l).any MapEntry.ok
  | .slotConfig => (SlotConfig.ofBytes l).any SlotConfig.ok
  | .curve => (Curve.ofBytes l).any fun c => c.inRange && c.inOrder
  | .gauge => (GaugeEntry.ofBytes l).any GaugeEntry.ok
  | .telltale => (TelltaleEntry.ofBytes l).any TelltaleEntry.ok
  | .chime => (ChimePattern.ofBytes l).any ChimePattern.ok
  | .crewConfig => (CrewConfig.ofBytes l).any CrewConfig.ok
  | .systemConfig => (SystemConfig.ofBytes l).any SystemConfig.ok
  | .faultPolicy => (FaultPolicy.ofBytes l).isSome

/-- The status of an entry that its block does not accept: ORDER for a curve whose x alone are out of order, else RANGE (R52,
R177). -/
def entryStatus (t : TableId) (l : List Byte) : ReplyStatus :=
  if t = .curve ∧ (Curve.ofBytes l).any (fun c => c.inRange && !c.inOrder) then .order else .range

/-- `u` follows from `s` by the accepted write of an entry from its bytes (chapter 10 section 5; R12, R20, R31, R49, R53, R72, R94,
R105, R108, R119, R160, R164): the entry is replaced, and the write has its table's effect in use. -/
def EntryTaken (s : State) (t : TableId) (k : Nat) (l : List Byte) (w : Written) (u : State) : Prop :=
  match t with
  | .intake => ∃ (i : Fin 96) (e : IntakeEntry), i.val = k ∧ IntakeEntry.ofBytes l = some e ∧
      u = { s with
        tables := { s.tables with intake := (s.tables.intake.set i e) }
        intake := { s.intake with forwardMemory := (s.intake.forwardMemory.set i none) } }
  | .map => ∃ (i : Fin 192) (e : MapEntry), i.val = k ∧ MapEntry.ofBytes l = some e ∧
      u = { s with tables := { s.tables with map := (s.tables.map.set i e) } }
  | .slotConfig => ∃ (i : Fin 120) (e : SlotConfig), i.val = k ∧ SlotConfig.ofBytes l = some e ∧
      u = decodedEvent .quality i { s with
        tables := { s.tables with slotConfig := (s.tables.slotConfig.set i e) }
        store := { slots := (s.store.slots.set (decodedSlot i)
                    { s.slot (decodedSlot i) with quality := .unknown, clamped := false })
                   hold := (s.store.hold.set i none), stale := (s.store.stale.set i none) } }
  | .curve => ∃ (i : Fin 12) (e : Curve), i.val = k ∧ Curve.ofBytes l = some e ∧
      u = { s with tables := { s.tables with curve := (s.tables.curve.set i e) } }
  | .gauge => ∃ (i : Fin 6) (e : GaugeEntry), i.val = k ∧ GaugeEntry.ofBytes l = some e ∧
      u = State.gaugesReported { s with
        tables := { s.tables with gauge := (s.tables.gauge.set i e) }
        gauges := { s.gauges with channels := (s.gauges.channels.set i
          (if s.time.part = .homing ∨ s.time.part = .run ∨ s.time.part = .standby then
            { s.gauges.channels[i] with
              target := e.park, state := .homing, homingDistance := 0
              position := min (s.gauges.channels[i]).position e.maxPos }
          else { s.gauges.channels[i] with state := .unhomed, position := 0, filter := 0, target := 0 })) } }
  | .telltale => ∃ (i : Fin 64) (e : TelltaleEntry), i.val = k ∧ TelltaleEntry.ofBytes l = some e ∧
      TelltaleRewritten i (s.tables.telltale[i]).lamp
        { s with tables := { s.tables with telltale := (s.tables.telltale.set i e) } } u ∧
      Reacted { s with tables := { s.tables with telltale := (s.tables.telltale.set i e) } } u ∧
      (e.source ≠ 127 →
        (activeIn s.time.part e = false →
          (u.telltales.records[i]).state = .off ∧ (u.telltales.records[i]).condition = false) ∧
        (activeIn s.time.part e = true →
          (u.telltales.records[i]).condition = e.condition (s.slot e.source) false ∧
          (u.telltales.records[i]).state =
            if e.condition (s.slot e.source) false = true then (if e.onDebounce = 0 then .on else .rising) else .off))
  | .chime => ∃ (i : Fin 8) (e : ChimePattern), i.val = k ∧ ChimePattern.ofBytes l = some e ∧
      u = State.choose { s with tables := { s.tables with chime := (s.tables.chime.set i e) } }
  | .crewConfig => ∃ e : CrewConfig, k = 0 ∧ CrewConfig.ofBytes l = some e ∧
      RemainingTold { s with tables := { s.tables with crew := e } } u ∧
      Reacted (State.storeRemaining { s with tables := { s.tables with crew := e } }) u
  | .systemConfig => ∃ (e : SystemConfig) (v : State), k = 0 ∧ SystemConfig.ofBytes l = some e ∧
      v = { s with
        tables := { s.tables with system := e }
        messages := { s.messages with lastSeen := if w.covers 5 = true then .none else s.messages.lastSeen } } ∧
      if w.covers 1 = true ∨ w.covers 2 = true then
        Selected { v with speed :=
          { s.speed with ring := { s.speed.ring with position := 0, count := 0, lastSum := none }, state := .learning } } u
      else u = v
  | .faultPolicy => ∃ (i : Fin 16) (e : FaultPolicy), i.val = k ∧ FaultPolicy.ofBytes l = some e ∧
      SevereTold { s with tables := { s.tables with policy := (s.tables.policy.set i e) } } u ∧
      Reacted { s with tables := { s.tables with policy := (s.tables.policy.set i e) } } u

/-- SERVICE authority may write a field: the y of a curve point, or the factor or offset of a map entry whose calibration flag is
true (R182). -/
def State.serviceMay (s : State) (t : TableId) (k field : Nat) : Prop :=
  (t = .curve ∧ field ∈ [3, 5, 7, 9, 11, 13, 15, 17]) ∨
    (t = .map ∧ field ∈ [10, 12] ∧ ∃ i : Fin 192, i.val = k ∧ (s.tables.map[i]).calibration = true)

/-! ### Layouts -/

/-- The arguments that a request code needs after its tag, as R187 lays them out; a RESET_SECTION names one of the eight sections
(R177, check 1; R180). -/
def requestKnown (code : Byte) (args : List Byte) : Prop :=
  (code = 1 ∧ 2 ≤ args.length) ∨ (code = 2 ∧ 2 ≤ args.length) ∨ (code = 3 ∧ 7 ≤ args.length) ∨
    (code = 4 ∧ 3 ≤ args.length) ∨ (code = 5 ∧ 2 ≤ args.length) ∨ (code = 6 ∧ 2 ≤ args.length) ∨
    (code = 7 ∧ ∃ x rest, args = x :: rest ∧ x.toNat < 8) ∨ code = 8 ∨ code = 9

/-- A flag as a byte carries it (R185). -/
def carries (b : Byte) (flag : Bool) : Prop := b = if flag = true then 1 else 0

/-- A slot's 8 bytes (R189). -/
structure SlotLayout (x : Slot) (l : List Byte) : Prop where
  length : l.length = 8
  value : wordAt l 0 = x.value
  quality : byteAt l 4 = enumByte qualityCodes x.quality
  clamped : carries (byteAt l 5) x.clamped
  age : numAt l 6 2 = x.age % 2 ^ 16

/-- A gauge channel's 10 bytes (R189). -/
structure ChannelLayout (c : Channel) (l : List Byte) : Prop where
  length : l.length = 10
  state : byteAt l 0 = enumByte channelStateCodes c.state
  target : numAt l 1 2 = c.target % 2 ^ 16
  filter : numAt l 3 2 = c.filter % 2 ^ 16
  position : numAt l 5 2 = c.position % 2 ^ 16
  stallCount : numAt l 7 1 = c.stallCount % 2 ^ 8
  homingDistance : numAt l 8 2 = c.homingDistance % 2 ^ 16

/-- A telltale's 6 bytes (R189). -/
structure TelltaleLayout (r : Telltale) (l : List Byte) : Prop where
  length : l.length = 6
  state : byteAt l 0 = enumByte telltaleStateCodes r.state
  condition : carries (byteAt l 1) r.condition
  debounce : numAt l 2 2 = (r.debounce.getD 0) % 2 ^ 16
  acknowledged : carries (byteAt l 4) r.acknowledged
  held : byteAt l 5 = enumByte heldCodes r.held

/-- A lamp channel's 5 bytes (R88, R89, R189). -/
structure LampLayout (s : State) (ch : Fin 32) (l : List Byte) : Prop where
  length : l.length = 5
  state : byteAt l 0 = enumByte lampStateCodes s.telltales.lamps[ch]
  demanded : carries (byteAt l 1) (s.lampDemanded ch)
  driven : carries (byteAt l 2) (s.lampDriven ch)
  mode : byteAt l 3 = if s.lampDriven ch = true then enumByte lampModeCodes (s.lampMode ch) else 0
  bulb : s.bulbDemands ch = true → byteAt l 4 = 0xFE
  governing : s.bulbDemands ch = false → byteAt l 4 = match s.governing ch with
    | none => 0xFF
    | some i => BitVec.ofNat 8 i.val

/-- The presentation target's 50 bytes (R98, R114, R189). That bit n of the two request sets stands for telltale n is the model's choice
(log entry 39). -/
structure PresentationLayout (m : Messages) (l : List Byte) : Prop where
  length : l.length = 50
  noCurrent : m.current = none → l.take 5 = [0xFF, 0, 0, 0, 0]
  current : ∀ p, m.current = some p → byteAt l 0 = BitVec.ofNat 8 p.telltale.val ∧ numAt l 1 1 = p.priority % 2 ^ 8 ∧
    numAt l 2 2 = p.message % 2 ^ 16 ∧ carries (byteAt l 4) p.acknowledgeable
  counts : numAt l 5 1 = m.stack.length ∧ numAt l 6 1 = m.ring.length
  stack : ∀ j, j < 4 → byteAt l (7 + j) = match m.stack[j]? with
    | none => 0xFF
    | some p => BitVec.ofNat 8 p.telltale.val
  ring : ∀ j, j < 16 → byteAt l (11 + j) = match m.ring[j]? with
    | none => 0xFF
    | some p => BitVec.ofNat 8 p.telltale.val
  idle : m.arbiter = .idle → (l.drop 27).take 5 = [0, 0xFF, 0, 0, 0] ∧ byteAt l 33 = 0
  playing : ∀ t phase left tone, m.arbiter = .playing t phase left tone →
    byteAt l 27 = 1 ∧ byteAt l 28 = BitVec.ofNat 8 t.val ∧ (byteAt l 29 = match phase with | .on => 0 | .off => 1) ∧
    numAt l 30 2 = left % 2 ^ 16 ∧
    ∀ r, m.requests[t] = some r → numAt l 33 1 = (r.remaining.getD 0) % 2 ^ 8
  load : byteAt l 32 = match m.load with | .normal => 0 | .open => 1
  active : ∀ i : Fin 64, (numAt l 34 8).testBit i.val = true ↔ ∃ r, m.requests[i] = some r ∧ r.status = .active
  spent : ∀ i : Fin 64, (numAt l 42 8).testBit i.val = true ↔ ∃ r, m.requests[i] = some r ∧ r.status = .spent

/-- A crew place's 27 bytes (R120, R189): all 0 for an empty place. -/
structure CrewPlaceLayout (x : Option CrewRecord) (l : List Byte) : Prop where
  length : l.length = 27
  empty : x = none → ∀ j, byteAt l j = 0
  occupied : ∀ r, x = some r → byteAt l 0 = 1 ∧ wordAt l 1 = r.token ∧
    (byteAt l 5 = match r.place with | .attached .driver => 0 | .attached .coDriver => 1 | .detached _ => 2) ∧
    byteAt l 6 = enumByte activityCodes r.activity ∧ numAt l 7 4 = r.continuous % 2 ^ 32 ∧
    numAt l 11 4 = r.daily % 2 ^ 32 ∧ numAt l 15 4 = r.run % 2 ^ 32 ∧
    byteAt l 19 = enumByte breakStateCodes r.breakState ∧ carries (byteAt l 20) r.provisional ∧
    carries (byteAt l 21) r.contSeen ∧ carries (byteAt l 22) r.daySeen ∧
    wordAt l 23 = match r.place with | .attached _ => 0 | .detached since => since

/-- A pair value as its 3 bytes carry it, two's complement (R189). -/
def narrowed (v : Word32) : Int := max (-8388608) (min 8388607 v.toInt)

/-- The speed arbitration target's 56 bytes (R42, R189): the held pairs oldest first, a last sum held at the top of 32 bits. -/
structure SpeedLayout (x : Speed) (l : List Byte) : Prop where
  length : l.length = 56
  state : byteAt l 0 = enumByte arbitrationCodes x.state
  selection : byteAt l 1 = enumByte selectionCodes x.selection
  count : numAt l 2 1 = x.ring.count
  sumPresent : carries (byteAt l 3) x.ring.lastSum.isSome
  sum : numAt l 4 4 = min (x.ring.lastSum.getD 0) 4294967295
  pairs : ∀ j : Fin 8, j.val < x.ring.count →
    let p := if x.ring.count = 8 then x.ring.places[x.ring.position + j] else x.ring.places[j]
    (BitVec.ofNat 24 (numAt l (8 + 6 * j.val) 3)).toInt = narrowed p.1 ∧
      (BitVec.ofNat 24 (numAt l (11 + 6 * j.val) 3)).toInt = narrowed p.2
  unused : ∀ j, 8 + 6 * x.ring.count ≤ j → byteAt l j = 0

/-- The time and ignition target's 23 bytes (R151, R189). -/
structure TimeLayout (x : TimeBase) (l : List Byte) : Prop where
  length : l.length = 23
  part : byteAt l 0 = enumByte partStateCodes x.part
  counters : wordAt l 1 = x.ms ∧ wordAt l 5 = x.mono ∧ wordAt l 9 = x.utc
  utcValid : carries (byteAt l 13) x.utcValid
  level : carries (byteAt l 14) x.filteredIgnition
  started : carries (byteAt l 15) x.started
  settle : numAt l 16 2 = (x.settle.getD 0) % 2 ^ 16
  quiet : byteAt l 18 = match x.quiet with | .stopped => 0 | .running _ => 1 | .elapsed => 2
  quietLeft : numAt l 19 2 = match x.quiet with | .running left => left % 2 ^ 16 | .stopped | .elapsed => 0
  homingDone : carries (byteAt l 21) x.homingDone
  bulbCheckEnded : carries (byteAt l 22) x.bulbCheckEnded

/-- One position of a CREW_SNAPSHOT, in 12 bytes from an offset (R188). -/
structure SnapshotLayout (x : SnapshotPosition) (l : List Byte) (offset : Nat) : Prop where
  present : carries (byteAt l offset) x.present
  token : wordAt l (offset + 1) = x.token
  activity : byteAt l (offset + 5) = enumByte activityCodes x.activity
  left : numAt l (offset + 6) 2 = x.contLeft % 2 ^ 16 ∧ numAt l (offset + 8) 2 = x.dayLeft % 2 ^ 16
  breakState : byteAt l (offset + 10) = enumByte breakStateCodes x.breakState
  provisional : carries (byteAt l (offset + 11)) x.provisional

/-- A frame id in 5 bytes from an offset: kind, then number (R188). -/
def idAt (l : List Byte) (offset : Nat) (id : FrameId) : Prop :=
  match id with
  | .standard n => byteAt l offset = 0 ∧ wordAt l (offset + 1) = n.setWidth 32
  | .extended n => byteAt l offset = 1 ∧ wordAt l (offset + 1) = n.setWidth 32

/-- A detail's length and its bytes from an offset (R188). -/
def detailAt (l : List Byte) (offset : Nat) (d : FaultDetail) (length : Nat) : Prop :=
  match d with
  | .item v => length = 1 ∧ byteAt l offset = v
  | .frameShort p id m =>
    length = 7 ∧ (byteAt l offset = match p with | .a => 0 | .b => 1) ∧ idAt l (offset + 1) id ∧
      byteAt l (offset + 6) = BitVec.ofNat 8 m
  | .sum n => length = 4 ∧ numAt l offset 4 = n % 2 ^ 32
  | .tally x c own s =>
    length = 10 ∧ (byteAt l offset = match x with | .driver => 0 | .coDriver => 1) ∧
      (byteAt l (offset + 1) = match c with | .continuous => 0 | .daily => 1) ∧ numAt l (offset + 2) 4 = own % 2 ^ 32 ∧
      numAt l (offset + 6) 4 = s % 2 ^ 32
  | .tacho x v =>
    length = 5 ∧ (byteAt l offset = match x with | .driver => 0 | .coDriver => 1) ∧ wordAt l (offset + 1) = v

/-- The faults target's 41 bytes (R172, R189). -/
structure FaultsLayout (s : State) (l : List Byte) : Prop where
  length : l.length = 41
  status : ∀ c : Fin 16, (numAt l 0 2).testBit c.val = s.faults.status[c]
  empty : s.faults.capture = none → ∀ j, 2 ≤ j → j < 23 → byteAt l j = 0
  captured : ∀ k, s.faults.capture = some k → byteAt l 2 = 1 ∧ byteAt l 3 = BitVec.ofNat 8 k.faultClass.number.val ∧
    (∃ n, detailAt l 4 k.detail n ∧ ∀ j, 4 + n ≤ j → j < 14 → byteAt l j = 0) ∧ wordAt l 14 = k.stamp.mono ∧
    carries (byteAt l 18) k.stamp.utc.isSome ∧ wordAt l 19 = k.stamp.utc.getD 0
  overflow : carries (byteAt l 23) s.faults.overflow
  severe : byteAt l 24 = (s.slot 127).value.setWidth 8
  policy : ∀ c : Fin 16, ((byteAt l (25 + c.val)).getLsbD 0 = (s.tables.policy[c]).masked) ∧
    ((byteAt l (25 + c.val)).getLsbD 1 = decide ((s.tables.policy[c]).severity = .advisory)) ∧
    ((byteAt l (25 + c.val)).getLsbD 2 = (s.tables.policy[c]).serviceClearable) ∧ (byteAt l (25 + c.val)).toNat < 8

/-- A downstream record's payload, at the link record's bytes from 2 on, with its length (R186 to R188). -/
def payloadAt (l : List Byte) (r : EgressRecord) (length : Nat) : Prop :=
  match r with
  | .forward entry port id data =>
    byteAt l 0 = 0x81 ∧ length = 8 + data.length ∧ byteAt l 2 = BitVec.ofNat 8 entry.val ∧
      (byteAt l 3 = match port with | .a => 0 | .b => 1) ∧ idAt l 4 id ∧ numAt l 9 1 = data.length ∧
      (l.drop 10).take data.length = data
  | .present current depth ring =>
    byteAt l 0 = 0x82 ∧ length = 7 ∧ (current = none → (l.drop 2).take 5 = [0xFF, 0, 0, 0, 0]) ∧
      (∀ p, current = some p → byteAt l 2 = BitVec.ofNat 8 p.telltale.val ∧ numAt l 3 1 = p.priority % 2 ^ 8 ∧
        numAt l 4 2 = p.message % 2 ^ 16 ∧ carries (byteAt l 6) p.acknowledgeable) ∧
      numAt l 7 1 = depth % 2 ^ 8 ∧ numAt l 8 1 = ring % 2 ^ 8
  | .notice c d stamp status overflow =>
    byteAt l 0 = 0x83 ∧ byteAt l 2 = BitVec.ofNat 8 c.number.val ∧ wordAt l 3 = stamp.mono ∧
      carries (byteAt l 7) stamp.utc.isSome ∧ wordAt l 8 = stamp.utc.getD 0 ∧
      (∀ i : Fin 16, (numAt l 12 2).testBit i.val = status[i]) ∧ carries (byteAt l 14) overflow ∧
      ∃ n, length = 13 + n ∧ detailAt l 15 d n
  | .reply code tag status data =>
    byteAt l 0 = 0x84 ∧ length = 4 + data.length ∧ byteAt l 2 = code ∧ numAt l 3 2 = tag.toNat ∧
      byteAt l 5 = status.code ∧ (l.drop 6).take data.length = data
  | .crewSnapshot mono driver coDriver =>
    byteAt l 0 = 0x85 ∧ length = 28 ∧ wordAt l 2 = mono ∧ SnapshotLayout driver l 6 ∧ SnapshotLayout coDriver l 18

/-- The 64 bytes of a downstream record (R175, R186): kind, payload length, payload, zeros, and the check with its high byte first. -/
structure RecordLayout (r : EgressRecord) (l : List Byte) : Prop where
  length : l.length = 64
  payload : payloadAt l r (byteAt l 1).toNat
  zeros : ∀ j, 2 + (byteAt l 1).toNat ≤ j → j < 62 → byteAt l j = 0
  check : byteAt l 62 ++ byteAt l 63 = crc16 (l.take 62)

end Sys2Proof.Machine
end

