-- ==== Sys2Proof/Certificates/Slice0/Obligations.lean ====
section
/-! DEFINITION. The statements for the provers. A statement about a command says what the command itself does, as an equation or
through the relations of Safety.lean, and that the rest follows as reactions of the blocks that read what it changed.

Where a statement says that a command changes nothing because its interval is not due, its condition does not hold, or the part
is not awake, that clause is the model's choice (assumption log entries 2 and 4), not a rule's. So is the place of the moves to RUN
and SLEEP at the end of an event (`Concluded`, entries 15 and 16), and what warm start and SLEEP entry leave of slots at their
readers (`WarmStarted`, `SleepEntered`, entries 13 and 14). No statement fixes the order in which readers take an event (entry 5).
A statement that says `Raised` or `Offered` says R166 to R169 and R176 step by step, with what the readers of slot 127 do (`SevereTold`);
an event at the Telltale Unit or the Message Unit is taken whole before its reports go out: log entry 7 (`Reported`). -/

open Sys2Proof Sys2Proof.Machine

/-! ### The machine as a whole -/

/-- A step runs the command at the front of the queue with the queue's rest; on an empty queue the part idles. The model's choice (log
entry 1). -/
def Obligations.StepTakesTheFrontCommand : Prop :=
  (∀ (c : Instr) (rest : List Instr) (s : State),
    step { s with pending := c :: rest } = exec c { s with pending := rest }) ∧
  ∀ s : State, s.pending = [] → step s = .next s

/-- Every command completes in every state, leaves the queue as it is, and only the commands at the pins change the pins. That no
command stops the part is the model's choice (log entry 2). -/
def Obligations.EveryCommandCompletesAndKeepsTheQueue : Prop :=
  ∀ (c : Instr) (s : State), ∃ t, exec c s = .next t ∧ t.pending = s.pending ∧
    t.keepAlive = (match c with | .coldStart => true | .keepAliveRemoval => false | _ => s.keepAlive) ∧
    t.resetHeld = (match c with | .resetInputAssert => true | .resetInputRelease => false | _ => s.resetHeld) ∧
    t.rawIgnition = (match c with | .ignitionSenseChange level => level | _ => s.rawIgnition)

/-! ### Supplies and the reset input (R161, R162) -/

/-- COLD_START from any state gives the state after reset, with what stands outside the part as it was and the ignition filter
running when the raw level is on; the values of that state (R161, R172); and it meets every law of Safety.lean. That COLD_START is
taken from any state, and the pins of the reset state, are the model's choice (log entry 10). -/
def Obligations.ColdStartGivesTheResetStateWhichIsLawful : Prop :=
  ((∀ s : State, exec .coldStart s = .next
     { State.reset with
       resetHeld := s.resetHeld, rawIgnition := s.rawIgnition, choices := s.choices, pending := s.pending
       time := { State.reset.time with ignitionFilter := s.rawIgnition } }) ∧
   State.reset.time =
     { part := .unconfigured, ms := 0, mono := 0, sleepMark := 0, utc := 0, utcValid := false, filteredIgnition := false
       ignitionFilter := false, started := false, settle := none, quiet := .stopped, homingDone := false
       bulbCheckEnded := false, atRest := false } ∧
   (∀ k : Fin 120, State.reset.slot (decodedSlot k) = ⟨0, .unknown, false, 65535⟩) ∧
   State.reset.slot 126 = ⟨0, .fresh, false, 0⟩ ∧
   State.reset.faults.capture = some ⟨.timeLost, .item 0, ⟨0, none⟩⟩ ∧
   (∀ c : Fin 16, State.reset.faults.status[c] = decide (c = 0)) ∧
   State.reset.link.egress = [.notice .timeLost (.item 0) ⟨0, none⟩ State.reset.faults.status false]) ∧
  Tables.ok State.reset.tables ∧ QueueLaws State.reset ∧ FaultLaws State.reset ∧ MessageLaws State.reset ∧
    CrewLaws State.reset ∧ SlotLaws State.reset ∧ GaugeLaws State.reset ∧ SpeedLaws State.reset ∧ Settled State.reset

/-- KEEP_ALIVE_REMOVAL loses everything: what follows depends on the pins alone, only COLD_START and the pins' levels act until
then, and COLD_START acts as it would have. The model's choice of what an unsupplied part does (log entry 10). -/
def Obligations.KeepAliveRemovalLosesEverything : Prop :=
  (∀ s : State, ∃ t, exec .keepAliveRemoval s = .next t ∧ t.keepAlive = false ∧ exec .coldStart t = exec .coldStart s) ∧
  (∀ s x : State, s.resetHeld = x.resetHeld → s.rawIgnition = x.rawIgnition → s.choices = x.choices →
    s.pending = x.pending → exec .keepAliveRemoval s = exec .keepAliveRemoval x) ∧
  ∀ (c : Instr) (s : State), s.keepAlive = false →
    c ∉ [Instr.coldStart, .keepAliveRemoval, .resetInputAssert, .resetInputRelease, .ignitionSenseChange true,
      .ignitionSenseChange false] →
    exec c s = .next s

/-- In SLEEP and while the reset input is held, the counters of the keep-alive oscillator and the ignition filter run, the link
exchanges EMPTY, and no other command but those at the supplies and pins and the wakes has an effect (R147, R148, R149, R159, R162).
In a hold it rests on log entries 11 and 25. -/
def Obligations.AsleepOrHeldPartOnlyKeepsTime : Prop :=
  ∀ s : State, s.keepAlive = true → s.awake = false →
    (∀ c : Instr, (∀ u, c ≠ .linkTransfer u) →
      c ∉ [Instr.coldStart, .keepAliveRemoval, .resetInputAssert, .resetInputRelease, .ignitionSenseChange true,
        .ignitionSenseChange false, .ignitionOn, .ignitionOff, .portBFrameStart, .monotonicAdvance] →
      exec c s = .next s) ∧
    exec .monotonicAdvance s = .next s.secondPassed ∧
    (∀ u, exec (.linkTransfer u) s = .next { s with link := { s.link with sent := some (linkRecord 0 []) } }) ∧
    (s.resetHeld = true →
      exec .portBFrameStart s = .next s ∧
      exec .ignitionOn s = .next
        (if s.time.ignitionFilter = true ∧ s.rawIgnition = true then s.ignitionTaken true else s)) ∧
    exec .ignitionOff s = .next
      (if s.time.ignitionFilter = true ∧ s.rawIgnition = false then s.ignitionTaken false else s)

/-- RESET_INPUT_ASSERT holds the part: port B sends nothing, READY is inactive, every output is undriven. RESET_INPUT_RELEASE takes
one warm start, the wake credit first when the part was asleep. WARM_RESET offers its REPLY and then takes the warm start, which
empties the queue (R134, R162, R174, R180, R184). The idle transmitter and the silent chime in a hold are the model's choice (log
entries 11, 13 and 38). -/
def Obligations.ResetInputHoldsThePartAndWarmStarts : Prop :=
  (∀ s : State, ∃ t, exec .resetInputAssert s = .next t ∧
     t = { s with resetHeld := true, portB := { s.portB with transmit := .idle } } ∧ t.ready = false ∧
     t.chimeOutput = none ∧ (∀ ch, t.lampOutput ch = false) ∧ ∀ ch, t.motorDriven ch = false) ∧
  (∀ s : State,
     (s.resetHeld = true → s.keepAlive = true → ∃ t, exec .resetInputRelease s = .next t ∧
       WarmStarted (if s.time.part = .sleep then State.creditCrew { s with resetHeld := false } s.sleepGap
         else { s with resetHeld := false }) t) ∧
     (s.resetHeld = true → s.keepAlive = false → exec .resetInputRelease s = .next { s with resetHeld := false }) ∧
     (s.resetHeld = false → exec .resetInputRelease s = .next s)) ∧
  ∀ (tag : Word16) (s : State), s.awake = true → ∃ u t, exec (.warmReset tag) s = .next t ∧
    Offered s (.reply 9 tag .ok []) u ∧ WarmStarted u t

/-! ### Ignition (R149, R150, R153 to R158) -/

/-- The filter interval runs exactly while the raw level differs from the filtered level; an ignition event whose interval is not
running changes nothing (R149; the interval's length is left out, log entry 9); one that finds a state with no move for it writes
slot 126 with the new level, whose readers take the event, and moves nothing (R37, R150, R151). That a part without keep-alive
follows the raw level alone, and that its ignition events change nothing, is the model's choice (log entry 10). -/
def Obligations.IgnitionFilterAndEventsWithoutAMove : Prop :=
  ((∀ (level : Bool) (s : State), s.keepAlive = true → exec (.ignitionSenseChange level) s = .next
     { s with rawIgnition := level
              time := { s.time with ignitionFilter := decide (level ≠ s.time.filteredIgnition) } }) ∧
   (∀ (level : Bool) (s : State), s.keepAlive = false →
     exec (.ignitionSenseChange level) s = .next { s with rawIgnition := level }) ∧
   (∀ s : State, ¬ (s.keepAlive = true ∧ s.time.ignitionFilter = true ∧ s.rawIgnition = true) →
     exec .ignitionOn s = .next s) ∧
   ∀ s : State, ¬ (s.keepAlive = true ∧ s.time.ignitionFilter = true ∧ s.rawIgnition = false) →
     exec .ignitionOff s = .next s) ∧
  ∀ s : State, s.awake = true → s.time.ignitionFilter = true →
    (s.rawIgnition = true → s.time.part ∈ [PartState.unconfigured, .waking, .homing, .run] →
      ∃ t, exec .ignitionOn s = .next t ∧ DerivedTold 126 (s.ignitionTaken true).ignitionWritten t ∧
        Reacted (s.ignitionTaken true).ignitionWritten t) ∧
    (s.rawIgnition = false → s.time.part ∈ [PartState.unconfigured, .waking, .standby] →
      ∃ t, exec .ignitionOff s = .next t ∧ DerivedTold 126 (s.ignitionTaken false).ignitionWritten t ∧
        Reacted (s.ignitionTaken false).ignitionWritten t)

/-- IGNITION_ON in STANDBY writes slot 126, whose readers take the event (R150), and then enters HOMING (R155), from which RUN may
follow at once (R156); IGNITION_OFF in HOMING or RUN writes slot 126 and then enters STANDBY (R157), from which SLEEP may follow at
once (R158). At each entry the telltales move one after another, those that become active by a fresh evaluation (R80, R86, R87); the
two clauses on telltales alone hold whatever follows. That each move is whole before its reports go out is the model's choice (log
entry 7). -/
def Obligations.IgnitionEventsEnterHomingAndStandby : Prop :=
  (∀ s : State, s.awake = true → s.time.ignitionFilter = true → s.rawIgnition = true → s.time.part = .standby →
     ∃ v w t, exec .ignitionOn s = .next t ∧ Reacted (s.ignitionTaken true).ignitionWritten v ∧
       EventTaken 126 ((s.ignitionTaken true).ignitionWritten.derivedReader 126) (s.ignitionTaken true).ignitionWritten v ∧
       HomingEntered v w ∧ Concluded w t) ∧
  ∀ s : State, s.awake = true → s.time.ignitionFilter = true → s.rawIgnition = false →
    s.time.part = .homing ∨ s.time.part = .run →
    ∃ v w t, exec .ignitionOff s = .next t ∧ Reacted (s.ignitionTaken false).ignitionWritten v ∧
      EventTaken 126 ((s.ignitionTaken false).ignitionWritten.derivedReader 126) (s.ignitionTaken false).ignitionWritten v ∧
      StandbyEntered v w ∧ Concluded w t

/-- A wake event in SLEEP enters WAKING: the wake credit, slots 122 to 126 with their events, the settle interval (R134, R139, R150,
R154). A frame start in another state is no wake event (R153). -/
def Obligations.WakeEventsEnterWaking : Prop :=
  (∀ s : State, s.keepAlive = true → s.resetHeld = false → s.time.part = .sleep →
    (∃ t, exec .portBFrameStart s = .next t ∧ WakingEntered s t) ∧
    (s.time.ignitionFilter = true → s.rawIgnition = true →
      ∃ t, exec .ignitionOn s = .next t ∧ WakingEntered (s.ignitionTaken true) t)) ∧
  ∀ s : State, s.time.part ≠ .sleep → exec .portBFrameStart s = .next s

/-- SETTLE_EXPIRY enters HOMING or STANDBY by the filtered level (R154), the telltales moving in turn (R80, R86, R87; log entry 7).
QUIET_EXPIRY makes the quiet timer ELAPSED, and the part enters SLEEP if every channel is at rest (R158, R159). One that is not due
changes nothing. -/
def Obligations.SettleAndQuietExpiriesMoveThePart : Prop :=
  (∀ s : State, s.awake = true →
     (s.time.part = .waking → s.time.settle = some 0 →
       ∃ w t, exec .settleExpiry s = .next t ∧ EnteredByLevel s w ∧ Concluded w t) ∧
     (¬ (s.time.part = .waking ∧ s.time.settle = some 0) → exec .settleExpiry s = .next s)) ∧
  ∀ s : State, s.awake = true →
    (s.time.part = .standby → s.time.quiet = .running 0 → ∃ t, exec .quietExpiry s = .next t ∧
      (s.time.atRest = true → SleepEntered { s with time := { s.time with quiet := .elapsed } } t) ∧
      (s.time.atRest = false → t = { s with time := { s.time with quiet := .elapsed } })) ∧
    (¬ (s.time.part = .standby ∧ s.time.quiet = .running 0) → exec .quietExpiry s = .next s)

/-- START in UNCONFIGURED sets the started indication and enters HOMING or STANDBY before its REPLY, the telltales moving in turn (R80,
R86, R87; log entry 7); elsewhere it changes no state (R152, R180). -/
def Obligations.StartLeavesUnconfigured : Prop :=
  ∀ (tag : Word16) (s : State), s.awake = true →
    (s.time.part = .unconfigured → ∃ v w t, exec (.start tag) s = .next t ∧
      EnteredByLevel { s with time := { s.time with started := true } } v ∧ Offered v (.reply 8 tag .ok []) w ∧
      Concluded w t) ∧
    (s.time.part ≠ .unconfigured → ∃ w t, exec (.start tag) s = .next t ∧ Offered s (.reply 8 tag .ok []) w ∧
      Concluded w t)

/-! ### Counters (R146 to R148, R125 to R128, R142) -/

/-- MS_COUNTER_ADVANCE raises the counter and every slot's age, and brings every interval one ms nearer its expiry; nothing else
changes. -/
def Obligations.MsAdvancePacesEveryInterval : Prop :=
  ∀ s : State, s.awake = true → ∃ t, exec .msCounterAdvance s = .next t ∧
    t = { s with
      time := { s.time with
        ms := s.time.ms + 1
        settle := s.time.settle.map fun n => n - 1
        quiet := match s.time.quiet with
          | .running n => .running (n - 1)
          | q => q }
      intake := { s.intake with
        silenceA := { s.intake.silenceA with timer := s.intake.silenceA.timer.map fun n => n - 1 }
        silenceB := { s.intake.silenceB with timer := s.intake.silenceB.timer.map fun n => n - 1 } }
      store := t.store
      speed := { s.speed with tick := s.speed.tick.map fun n => n - 1 }
      gauges := { s.gauges with tick := s.gauges.tick.map fun n => n - 1 }
      telltales := { s.telltales with
        records := t.telltales.records, bulbCheck := s.telltales.bulbCheck.map fun n => n - 1 }
      messages := { s.messages with arbiter := match s.messages.arbiter with
        | .playing i phase n tone => .playing i phase (n - 1) tone
        | .idle => .idle }
      portB := { s.portB with queue := s.portB.queue.map fun q => { q with left := q.left - 1 } } } ∧
    (∀ k : Fin 128, t.slot k = { s.slot k with age := min ((s.slot k).age + 1) 65535 }) ∧
    (∀ k : Fin 120, t.store.hold[k] = (s.store.hold[k]).map (fun n => n - 1) ∧
      t.store.stale[k] = (s.store.stale[k]).map fun n => n - 1) ∧
    ∀ i : Fin 64, t.telltales.records[i] =
      { s.telltales.records[i] with debounce := (s.telltales.records[i]).debounce.map fun n => n - 1 }

/-- MONOTONIC_ADVANCE raises the counters; in the accounting states it is an accounting tick: accrual, slots 122 to 125 with their
events, and last the snapshot counter with its snapshot. -/
def Obligations.MonotonicAdvanceAccounts : Prop :=
  ∀ s : State, s.awake = true →
    (s.time.part = .unconfigured → exec .monotonicAdvance s = .next s.secondPassed) ∧
    (s.time.part ≠ .unconfigured → ∃ w x t, exec .monotonicAdvance s = .next t ∧
      RemainingTold { s.secondPassed with crew := s.crew.accrue s.tables.crew (s.time.mono + 1) } w ∧
      Reacted (State.storeRemaining
        { s.secondPassed with crew := s.crew.accrue s.tables.crew (s.time.mono + 1) }) w ∧
      (if s.tables.crew.snapshotInterval = 0 ∨ s.crew.snapshotCounter + 1 < s.tables.crew.snapshotInterval then x = w
        else Offered w w.snapshot x) ∧
      t = { x with crew := { x.crew with snapshotCounter :=
        if s.crew.snapshotCounter + 1 < s.tables.crew.snapshotInterval then s.crew.snapshotCounter + 1 else 0 } })

/-- What one accounting tick makes of each crew record: an attached one accrues by its activity (R126, R127), a detached one past
DetachedKeep is removed (R128). -/
def Obligations.AccountingTickAccruesEachRecord : Prop :=
  ∀ (s : State) (now : Word32) (p : Fin 4), CrewLaws s →
    (s.crew.accrue s.tables.crew now).places[p] =
      match s.crew.places[p] with
      | none => none
      | some r =>
        match r.place with
        | .attached _ => some (tickedRecord s.tables.crew r)
        | .detached since => if s.tables.crew.detachedKeep < (now - since).toNat then none else some r

/-! ### Frames (chapters 1 and 2) -/

/-- A frame matches an entry when the entry is valid, names the port and the id kind, and the ids agree in every mask bit (R5). -/
def Obligations.FrameMatchesByPortKindAndMaskedId : Prop :=
  ∀ (e : IntakeEntry) (f : Frame), e.claims f = true ↔
    e.valid = true ∧ (e.ports = .both ∨ (e.ports = .a ∧ f.port = .a) ∨ (e.ports = .b ∧ f.port = .b)) ∧
      match f.id with
      | .standard id => e.idKind = .standard ∧ id.setWidth 32 &&& e.idMask = e.idValue &&& e.idMask
      | .extended id => e.idKind = .extended ∧ id.setWidth 32 &&& e.idMask = e.idValue &&& e.idMask

/-- A remote request and a frame that no entry claims change nothing (R2, R6). A frame taken by a DECODE entry is reported as
matched, runs the entry's map range, and then is forwarded as the entry says (R6 to R10). -/
def Obligations.FramesAreDiscardedOrDecodedAndForwarded : Prop :=
  (∀ (f : Frame) (s : State), s.awake = true →
     f.remote = true ∨ (∀ i : Fin 96, (s.tables.intake[i]).claims f = false) →
     ∃ t, exec (.frameArrival f) s = .next t ∧ Concluded s t) ∧
  ∀ (f : Frame) (i : Fin 96) (s : State), s.awake = true → f.remote = false → s.takenBy f i →
    (s.tables.intake[i]).action = .decode →
    ∃ v w t, exec (.frameArrival f) s = .next t ∧
      MapRan f (s.tables.intake[i]).mapFirst (s.tables.intake[i]).mapCount (s.frameSeen f.port) v ∧
      Forwarded i f v w ∧ Concluded w t

/-- A frame taken by a MANAGE entry is the service request that its bytes carry, with the entry's reply address; bytes that carry
none are refused with RANGE (R11, R181, R190). -/
def Obligations.ManageFrameIsAServiceRequest : Prop :=
  ∀ (f : Frame) (i : Fin 96) (s : State), s.awake = true → f.remote = false → s.takenBy f i →
    (s.tables.intake[i]).action = .manage →
    let reply : ReplyAddress := ⟨(s.tables.intake[i]).idKind, (s.tables.intake[i]).replyId⟩
    let x := s.frameSeen f.port
    (∀ table index field v0 v1 v2 v3 rest, f.data = 3 :: table :: index :: field :: v0 :: v1 :: v2 :: v3 :: rest →
      ∃ u t, exec (.serviceSetField reply table index field (v3 ++ v2 ++ v1 ++ v0)) x = .next u ∧
        exec (.frameArrival f) s = .next t ∧ Concluded u t) ∧
    (∀ table index field rest, f.data = 4 :: table :: index :: field :: rest →
      ∃ u t, exec (.serviceReadField reply table index field) x = .next u ∧ exec (.frameArrival f) s = .next t ∧
        Concluded u t) ∧
    (∀ c0 c1 rest, f.data = 6 :: c0 :: c1 :: rest →
      ∃ u t, exec (.serviceClearFaults reply (c1 ++ c0)) x = .next u ∧ exec (.frameArrival f) s = .next t ∧
        Concluded u t) ∧
    (∀ rest, f.data = 10 :: rest →
      ∃ u t, exec (.readFaults reply) x = .next u ∧ exec (.frameArrival f) s = .next t ∧ Concluded u t) ∧
    (¬ serviceKnown f.data → ∃ u t, exec (.frameArrival f) s = .next t ∧
      (if s.portB.queue.length < 4 then
        Raised x .mgmtRefused (.item ReplyStatus.range.code) u ∧
          Concluded (u.replyPlaced reply [replyHead (f.data.headD 0) .range]) t
      else Raised x .mgmtRefused (.item ReplyStatus.busy.code) u ∧ Concluded u t))

/-- SILENCE_EXPIRY that is due in RUN opens the port's episode and raises PORT_SILENT with the port (R14). -/
def Obligations.SilenceExpiryRaisesPortSilent : Prop :=
  ∀ s : State, s.awake = true →
    (s.time.part = .run → s.intake.silenceA.timer = some 0 → ∃ t, exec (.silenceExpiry .a) s = .next t ∧
      Raised { s with intake := { s.intake with silenceA := ⟨none, true⟩ } } .portSilent (.item 0) t) ∧
    (s.time.part = .run → s.intake.silenceB.timer = some 0 → ∃ t, exec (.silenceExpiry .b) s = .next t ∧
      Raised { s with intake := { s.intake with silenceB := ⟨none, true⟩ } } .portSilent (.item 1) t) ∧
    (¬ (s.time.part = .run ∧ s.intake.silenceA.timer = some 0) → exec (.silenceExpiry .a) s = .next s) ∧
    (¬ (s.time.part = .run ∧ s.intake.silenceB.timer = some 0) → exec (.silenceExpiry .b) s = .next s)

/-- How a map entry reads a frame and forms a value: it is short when a selector in use lies beyond the data (R21); bit b of the
pattern is bit (offset + b) of the gathered word, whose bytes are the selected ones, the first selector's lowest (R22, R23); the two
codes are tested on the pattern (R24); then the raw value by its sign field (R25), the exact product (R26), the quotient by 2^S
rounded to the nearest integer with halves by the rounding field (R27), the clamp of the exact offset value (R28). -/
def Obligations.MapEntryArithmeticIsExactRoundedAndClamped : Prop :=
  (∀ (e : MapEntry) (data : List Byte),
    (e.short data = true ↔ ∃ j : Fin 4, j.val < e.gatherCount ∧ data.length ≤ (e.selectors[j]).val) ∧
    (e.ok = true → data = [] → e.short data = true) ∧
    (e.ok = true → e.short data = false →
      (∀ (b : Nat) (j : Fin 4), b < e.bitLength → j.val = (e.bitOffset + b) / 8 →
        (e.pattern data).testBit b = (byteAt data (e.selectors[j]).val).getLsbD ((e.bitOffset + b) % 8)) ∧
      ∀ b, e.bitLength ≤ b → (e.pattern data).testBit b = false)) ∧
  (∀ (e : MapEntry) (p : Nat), e.ok = true → p < 2 ^ e.bitLength →
    (e.naCodes = true → p = 2 ^ e.bitLength - 1 → e.read p = .notAvailable) ∧
    (e.naCodes = true → p = 2 ^ e.bitLength - 2 → e.read p = .error) ∧
    (e.naCodes = false ∨ p + 2 < 2 ^ e.bitLength → e.read p = .value p)) ∧
  (∀ (e : MapEntry) (p : Nat), e.ok = true → p < 2 ^ e.bitLength →
    e.raw p = (if e.signed = true then (BitVec.ofNat e.bitLength p).toInt else (p : Int)) ∧
    -(2 ^ 31) ≤ e.raw p ∧ e.raw p ≤ 2 ^ 32 - 1 ∧
    e.product p = e.raw p * e.factor.toInt ∧ -(2 ^ 47) < e.product p ∧ e.product p < 2 ^ 47) ∧
  (∀ (mode : Rounding) (q : Int) (n : Nat),
    let v := roundShift mode q n
    2 * |q - v * 2 ^ n| ≤ 2 ^ n ∧ (n = 0 → v = q) ∧
      (1 ≤ n → 2 * |q - v * 2 ^ n| = 2 ^ n →
        (mode = .convergent → v % 2 = 0) ∧ (mode = .halfUp → q < v * 2 ^ n))) ∧
  ∀ (e : MapEntry) (c : SlotConfig) (p : Nat),
    e.offsetValue p = roundShift e.rounding (e.product p) e.shift + e.offset.toInt ∧
    (e.offsetValue p < c.min.toInt → c.clamp (e.offsetValue p) = (c.min, true)) ∧
    (c.min.toInt ≤ e.offsetValue p → c.max.toInt < e.offsetValue p → c.clamp (e.offsetValue p) = (c.max, true)) ∧
    (c.min.toInt ≤ e.offsetValue p → e.offsetValue p ≤ c.max.toInt →
      (c.clamp (e.offsetValue p)).1.toInt = e.offsetValue p ∧ (c.clamp (e.offsetValue p)).2 = false)

/-- HOLD_EXPIRY and STALE_EXPIRY that are due change the quality as the two times say, keep value and clamped, give the slot's
readers its quality change event (R18), and raise SIGNAL_STALE for a watched slot that goes STALE (R32, R33). That the readers act
before SIGNAL_STALE is raised is the model's choice (log entry 35). -/
def Obligations.HoldAndStaleExpiriesAgeASlot : Prop :=
  ∀ (k : Fin 120) (s : State), s.awake = true →
    let c := s.tables.slotConfig[k]
    let aged := fun (q : Quality) (stale : Timer) =>
      { s with store :=
        { slots := (s.store.slots.set (decodedSlot k) { s.slot (decodedSlot k) with quality := q })
          hold := (s.store.hold.set k none), stale := (s.store.stale.set k stale) } }
    let wentStale := fun t => ∃ u, u = decodedEvent .quality k (aged .stale none) ∧ Observed (aged .stale none) u ∧
      if c.watch = true then Raised u .signalStale (.item (BitVec.ofNat 8 k.val)) t else t = u
    (s.store.hold[k] = some 0 → ∃ t, exec (.holdExpiry k) s = .next t ∧
      if c.staleTime ≠ 0 ∧ c.staleTime = c.holdTime then wentStale t
      else t = decodedEvent .quality k (aged .held s.store.stale[k]) ∧ Observed (aged .held s.store.stale[k]) t) ∧
    (s.store.stale[k] = some 0 → ∃ t, exec (.staleExpiry k) s = .next t ∧ wentStale t) ∧
    (s.store.hold[k] ≠ some 0 → exec (.holdExpiry k) s = .next s) ∧
    (s.store.stale[k] ≠ some 0 → exec (.staleExpiry k) s = .next s)

/-- An event of a slot reaches its readers, each once, in an order left open (R18; log entry 5). Of a decoded slot: telltales, the
acknowledge detector, Speed Arbitration, the crew readers of R122, R129 and R136, UTC (R140, R148); of a derived slot: telltales,
the detector, and the crew's road reading (R122). What each does is `ReaderActed`; the activity that R122 derives is its table.
Whatever the order, an active telltale on a decoded slot takes the condition of R77 and R78 and the state of the table of R81 and
R82, a HOMING or TRACKING channel its target (R57), the detector the slot as it stands (R105), UTC its value. That an OFF telltale
with a true condition and no debounce goes ON is log entry 19; that a channel with an invalid entry takes part is log entry 34; that
TACHO_CODE follows the change of activity is log entry 28; that a move or a press is whole before its reports go out is log entry
7. -/
def Obligations.SlotEventReachesItsReaders : Prop :=
  (∀ (change : SlotChange) (k : Fin 120) (s : State),
    EventTaken (decodedSlot k) (s.decodedReader change k) s (decodedEvent change k s)) ∧
  (∀ (k : Fin 128) (s : State), EventTaken k (s.derivedReader k) s (derivedEvent publishSevere k s)) ∧
  (∀ (s : State) (x : CrewPosition),
    (∀ k, (s.tables.crew.inputs x).activity = some k → (s.slot (decodedSlot k)).usable = true →
      s.derivedActivity x =
        match (s.slot (decodedSlot k)).value.toNat with
        | 0 => .rest
        | 1 => .available
        | 2 => .work
        | 3 => .drive
        | _ => .unknown) ∧
    (s.namedUsable (s.tables.crew.inputs x).activity = false →
      s.derivedActivity x =
        if (s.slot 120).usable = true ∧ (s.slot 120).value ≠ 0 then .unknown else s.tables.crew.silentActivity)) ∧
  ∀ (change : SlotChange) (k : Fin 120) (s : State),
    let t := decodedEvent change k s
    (∀ i : Fin 64, s.telltaleActive i = true → (s.tables.telltale[i]).source = decodedSlot k →
      let condition := (s.tables.telltale[i]).condition (s.slot (decodedSlot k)) (s.telltales.records[i]).condition
      (t.telltales.records[i]).condition = condition ∧
        (t.telltales.records[i]).state = s.evaluatedState i condition) ∧
    (∀ ch : Fin 6, (s.gauges.channels[ch]).state = .homing ∨ (s.gauges.channels[ch]).state = .tracking →
      (s.tables.gauge[ch]).source = decodedSlot k →
      (t.gauges.channels[ch]).target = (s.tables.gauge[ch]).target s.tables.curve[(s.tables.gauge[ch]).curve]
        (s.slot (decodedSlot k)) (s.gauges.channels[ch]).target) ∧
    (s.tables.system.ackSlot = some (decodedSlot k) →
      t.messages.lastSeen =
        if (s.slot (decodedSlot k)).usable = true then
          (if (s.slot (decodedSlot k)).value = 0 then .zero else .nonZero)
        else .none) ∧
    (change = .value → s.tables.crew.timeSlot = some k →
      t.time.utc = (s.slot (decodedSlot k)).value ∧ t.time.utcValid = true) ∧
    (change ≠ .value ∨ s.tables.crew.timeSlot ≠ some k → t.time = s.time)

/-! ### Road speed (chapter 3) -/

/-- PLAUSIBILITY_TICK that is due restarts the interval, samples the pair or empties the ring, evaluates a full ring by the table
of R45 with the exact sum, raises SPEED_CONFLICT on a move to CONFLICT, and selects (R43 to R48). -/
def Obligations.PlausibilityTickSamplesEvaluatesSelects : Prop :=
  ∀ s : State, s.awake = true →
    (s.speed.tick = some 0 →
      let old := s.speed.ring
      let pushed : PairRing :=
        { places := old.places.set old.position (s.namedValue s.tables.system.primarySpeed,
            s.namedValue s.tables.system.secondarySpeed)
          position := old.position + 1, count := min (old.count + 1) 8, lastSum := old.lastSum }
      let sum := (pushed.places.toList.map fun p => (p.1.toInt - p.2.toInt).natAbs).sum
      let both := s.namedUsable s.tables.system.primarySpeed = true ∧ s.namedUsable s.tables.system.secondarySpeed = true
      let ring : PairRing :=
        if both then (if pushed.count = 8 then { pushed with lastSum := some sum } else pushed)
        else { old with position := 0, count := 0, lastSum := none }
      let after : ArbitrationState :=
        if both then
          if pushed.count = 8 then
            if s.speed.state = .conflict then
              (if sum < s.tables.system.conflictLeave then .agree else .conflict)
            else if s.tables.system.conflictEnter < sum then .conflict else .agree
          else s.speed.state
        else if s.speed.state = .agree then .learning else s.speed.state
      let v := { s with speed := { ring := ring, state := after, selection := s.speed.selection, tick := some 100 } }
      ∃ u t, exec .plausibilityTick s = .next t ∧
        (if s.speed.state ≠ .conflict ∧ after = .conflict then
          Raised v .speedConflict (.sum (min sum 4294967295)) u
        else u = v) ∧
        Selected u t) ∧
    (s.speed.tick ≠ some 0 → exec .plausibilityTick s = .next s)

/-- The selection is the first line of R47's table that applies, and each event of a source slot makes one: ROAD_SPEED and
SPEED_SOURCE take what R48 gives (R47, R48). -/
def Obligations.SourceEventsSelectTheRoadSpeed : Prop :=
  (∀ s : State, s.selectSpeed =
    if s.speed.state = .conflict ∧ s.namedUsable s.tables.system.secondarySpeed = true then .secondary
    else if s.namedUsable s.tables.system.primarySpeed = true then .primary
    else if s.namedUsable s.tables.system.secondarySpeed = true then .secondary
    else .none) ∧
  ∀ (change : SlotChange) (k : Fin 120) (s : State),
    s.tables.system.primarySpeed = some k ∨ s.tables.system.secondarySpeed = some k →
    let t := decodedEvent change k s
    t.speed.selection = s.selectSpeed ∧
    (∀ p, s.selectSpeed = .primary → s.tables.system.primarySpeed = some p →
      t.slot 120 = { s.slot (decodedSlot p) with age := 0 } ∧ t.slot 121 = ⟨0, .fresh, false, 0⟩) ∧
    (∀ p, s.selectSpeed = .secondary → s.tables.system.secondarySpeed = some p →
      t.slot 120 = { s.slot (decodedSlot p) with age := 0 } ∧ t.slot 121 = ⟨1, .fresh, false, 0⟩) ∧
    (s.selectSpeed = .none →
      t.slot 120 = ⟨(s.slot 120).value, .notAvailable, false, 0⟩ ∧ t.slot 121 = ⟨2, .fresh, false, 0⟩)

/-! ### Gauges (chapter 4) -/

/-- FILTER_TICK that is due restarts the interval, lets the channels do the work of their states one after another, a homing that fails
raising GAUGE_HOMING_FAIL with its channel's number, and reports the two conditions if a channel's state has changed, on which RUN or
SLEEP may follow (R56, R57, R60, R61, R63, R68, R71). That one report follows the channels'
work is the model's choice (log entry 16). -/
def Obligations.FilterTickWorksEveryChannel : Prop :=
  ∀ s : State, s.awake = true →
    (s.gauges.tick = some 0 → ∃ u t, exec .filterTick s = .next t ∧ Ticked s u ∧ Concluded (u.reportedSince s) t) ∧
    (s.gauges.tick ≠ some 0 → exec .filterTick s = .next s)

/-- The target of R58 and R59: with a usable source and a valid curve, the curve value held within MaxPos, where the curve value is
the first y below the first point, the last y above the last, and between two points the exact quotient rounded to the nearest
integer, a half going away from zero; otherwise the park position, or the target as it was for STALE and UNKNOWN under HOLD. The
damping step of R60 and the motion step of R61: the filter state moves by the truncated fraction of what remains, by at least one
unit, and does not pass its goal; the position moves to the rounded filter state, by at most Vmax, within 0..MaxPos. -/
def Obligations.DampingAndMotionFollowTheirSteps : Prop :=
  (∀ (e : GaugeEntry) (c : Curve) (x : Slot) (before : Nat),
    let after := e.target c x before
    (x.quality = .fresh ∨ x.quality = .held → c.valid = true → after = min (c.value x.value.toInt) e.maxPos) ∧
    (x.quality = .fresh ∨ x.quality = .held → c.valid = false → after = e.park) ∧
    (x.quality = .stale ∨ x.quality = .unknown → after = match e.stalePolicy with | .hold => before | .park => e.park) ∧
    (x.quality = .notAvailable ∨ x.quality = .error → after = e.park)) ∧
  (∀ (c : Curve) (v : Int), c.inRange = true → c.inOrder = true →
    (v ≤ (c.points[0]).x.toInt → c.value v = (c.points[0]).y) ∧
    (∀ n : Fin 8, n.val + 1 = c.pointCount → (c.points[n]).x.toInt ≤ v → c.value v = (c.points[n]).y) ∧
    ∀ i j : Fin 8, j.val = i.val + 1 → j.val < c.pointCount → (c.points[i]).x.toInt ≤ v → v < (c.points[j]).x.toInt →
      let num := (v - (c.points[i]).x.toInt) * (((c.points[j]).y : Int) - (c.points[i]).y)
      let den := (c.points[j]).x.toInt - (c.points[i]).x.toInt
      let step := (c.value v : Int) - (c.points[i]).y
      2 * |num - step * den| ≤ den ∧ (2 * |num - step * den| = den → |num| < |step| * den)) ∧
  (∀ k target filter : Nat,
    let delta : Int := 16 * (target : Int) - filter
    let after := damped k target filter
    let step : Int := delta.tdiv (2 ^ k)
    ((after : Int) = filter + (if step = 0 ∧ delta ≠ 0 then delta.sign else step)) ∧
    (k = 0 → after = 16 * target) ∧
    (filter ≤ 16 * target → filter ≤ after ∧ after ≤ 16 * target) ∧
    (16 * target ≤ filter → 16 * target ≤ after ∧ after ≤ filter) ∧
    (filter ≠ 16 * target → after ≠ filter)) ∧
  ∀ vmax maxPos filter position : Nat,
    let after := movedPosition vmax maxPos filter position
    after ≤ maxPos ∧
    (position ≤ maxPos → after ≤ position + vmax ∧ position ≤ after + vmax) ∧
    ∀ d : Nat, 16 * d ≤ filter + 8 → filter + 8 < 16 * d + 16 →
      (d ≤ position + vmax → position ≤ d + vmax → after = min d maxPos) ∧
      (position + vmax < d → after = min (position + vmax) maxPos) ∧
      (d + vmax < position → after = min (position - vmax) maxPos)

/-- A TRACKING channel whose target stands still reaches it: after finitely many ticks the filter state is 16 × T and the position
T, and no later tick is a moving one (R60, R61). -/
def Obligations.StillTargetIsReached : Prop :=
  ∀ (c : Channel) (e : GaugeEntry), e.ok = true → c.target ≤ e.maxPos →
    ∃ n : Nat, ∀ m : Nat, n ≤ m →
      let d := (fun x : Channel => x.track e)^[m] c
      d.filter = 16 * c.target ∧ d.position = c.target ∧ d.target = c.target ∧ (d.track e).moved = false

/-- STALL_REPORT ends a homing; counts, with GAUGE_STALL, while TRACKING after a moving tick or PARKING with stall check on, with
DISABLED at the third and homing before; and is ignored otherwise (R64 to R66, R69, R71). -/
def Obligations.StallReportIsTakenByState : Prop :=
  ∀ (ch : Fin 6) (s : State), s.awake = true →
    let c := s.gauges.channels[ch]
    let e := s.tables.gauge[ch]
    let counts := (c.state = .tracking ∧ c.moved = true) ∨ (c.state = .parking ∧ c.stallCheck = true)
    (c.state = .homing → ∃ t, exec (.stallReport ch) s = .next t ∧
      Concluded (State.gaugesReported (s.setChannel ch
        { c with
          state := if e.valid = true ∧ c.stallCount < 3 then (if s.time.part = .standby then .parked else .tracking)
            else .disabled
          position := 0, filter := 0, moved := false })) t) ∧
    (counts → ∃ u t, exec (.stallReport ch) s = .next t ∧
      Raised s .gaugeStall (.item (BitVec.ofNat 8 ch.val)) u ∧
      Concluded (State.gaugesReported (u.setChannel ch
        (if 3 ≤ c.stallCount + 1 then
          { u.gauges.channels[ch] with stallCount := c.stallCount + 1, state := .disabled }
        else
          { u.gauges.channels[ch] with
            stallCount := c.stallCount + 1, state := .homing, homingDistance := 0
            position := min c.position e.maxPos }))) t) ∧
    (c.state ≠ .homing → ¬ counts → ∃ t, exec (.stallReport ch) s = .next t ∧ Concluded s t)

/-! ### Telltales and lamps (chapter 5) -/

/-- The condition of a telltale: by the operator's table of R77 when the slot is usable, by the unusable policy of R78 when not. -/
def Obligations.ConditionFollowsTheOperatorAndThePolicy : Prop :=
  ∀ (e : TelltaleEntry) (x : Slot) (before : Bool),
    let v := x.value.toInt
    let th := e.threshold.toInt
    let h : Int := e.hysteresis
    let after := e.condition x before
    (x.usable = true →
      (e.op = .gt → after = if before = false then decide (v > th) else !decide (v ≤ th - h)) ∧
      (e.op = .lt → after = if before = false then decide (v < th) else !decide (v ≥ th + h)) ∧
      (e.op = .eq → after = decide (v = th)) ∧
      (e.op = .ne → after = decide (v ≠ th)) ∧
      (e.op = .anyBits → (after = true ↔
        ∃ b : Nat, x.value.getLsbD b = true ∧ e.threshold.getLsbD b = true)) ∧
      (e.op = .noBits → (after = true ↔
        ∀ b : Nat, x.value.getLsbD b = true → e.threshold.getLsbD b = false))) ∧
    (x.usable = false →
      (e.unusablePolicy = .forceOn → after = true) ∧ (e.unusablePolicy = .forceOff → after = false) ∧
      (e.unusablePolicy = .hold → after = before))

/-- ON_DEBOUNCE_EXPIRY that is due takes a RISING telltale to ON: lamp, offer, chime request (R81, R83). OFF_DEBOUNCE_EXPIRY that
is due takes a FALLING telltale to LATCHED or to OFF (R82, R84). The move is whole, then its reports go out one after another, each
write of slot 127 told as it is made (R18, R163; log entry 7). One that is not due changes nothing (log entries 2 and 4). -/
def Obligations.DebounceExpiriesMoveTheTelltale : Prop :=
  (∀ (i : Fin 64) (s : State), s.awake = true →
     ((s.telltales.records[i]).state = .rising → (s.telltales.records[i]).debounce = some 0 →
       ∃ u reports t, exec (.onDebounceExpiry i) s = .next t ∧ WentOn s i u reports ∧ Reported reports u t) ∧
     (¬ ((s.telltales.records[i]).state = .rising ∧ (s.telltales.records[i]).debounce = some 0) →
       exec (.onDebounceExpiry i) s = .next s)) ∧
  ∀ (i : Fin 64) (s : State), s.awake = true →
    ((s.telltales.records[i]).state = .falling → (s.telltales.records[i]).debounce = some 0 →
      (s.fallen i = .latched → exec (.offDebounceExpiry i) s = .next
        (s.setTelltale i { s.telltales.records[i] with state := .latched, debounce := none })) ∧
      (s.fallen i = .off →
        ∃ u reports t, exec (.offDebounceExpiry i) s = .next t ∧ WentOff s i u reports ∧ Reported reports u t)) ∧
    (¬ ((s.telltales.records[i]).state = .falling ∧ (s.telltales.records[i]).debounce = some 0) →
      exec (.offDebounceExpiry i) s = .next s)

/-- A channel's demand, the telltale that governs it, its mode, and its output by the phase of the ms counter (R88, R89): the output
follows the mode as it stands, which is the model's choice where the governing telltale has just changed (log entry 36). Lamp reports:
no current in a lit phase opens a LIT channel with LAMP_OPEN, current present in a lit phase recovers an OPEN one, over-current protects
a driven one with LAMP_SHORT, and each entry into OPEN or SHORT_PROTECT brings the backup offers (R92; log entry 37; their reports,
log entry 7); other reports are ignored (R90, R91). BULB_CHECK_EXPIRY that is due ends the check, recomputes each channel's demand
from the telltales alone and reports the end, on which RUN may follow (R88, R93, R156). -/
def Obligations.LampReportsAndTheBulbCheckMoveTheChannels : Prop :=
  (∀ (ch : Fin 32) (s : State),
     let shown := fun i : Fin 64 => (s.tables.telltale[i]).valid = true ∧ (s.tables.telltale[i]).lamp = some ch ∧
       (s.telltales.records[i]).state ∈ [TelltaleState.on, .falling, .latched]
     let checked := s.telltales.bulbCheck ≠ none ∧ ∃ i : Fin 64, (s.tables.telltale[i]).valid = true ∧
       (s.tables.telltale[i]).lamp = some ch ∧ (s.tables.telltale[i]).bulbCheck = true
     (s.lampDemanded ch = true ↔ checked ∨ ∃ i, shown i) ∧
     (∀ i, s.governing ch = some i ↔ shown i ∧ ∀ j, shown j →
       (s.tables.telltale[j]).priority < (s.tables.telltale[i]).priority ∨
         ((s.tables.telltale[j]).priority = (s.tables.telltale[i]).priority ∧ i ≤ j)) ∧
     (checked → s.lampMode ch = .steady) ∧
     (¬ checked → ∀ i, s.governing ch = some i → s.lampMode ch = (s.tables.telltale[i]).lampMode) ∧
     (s.lampOutput ch = true ↔ s.awake = true ∧ s.lampDemanded ch = true ∧ s.telltales.lamps[ch] ≠ .shortProtect ∧
       match s.lampMode ch with
       | .steady => True
       | .slow => s.time.ms.toNat % 1000 ≤ 499
       | .fast => s.time.ms.toNat % 250 ≤ 124)) ∧
  (∀ (ch : Fin 32) (s : State), s.awake = true →
     let lamp := s.telltales.lamps[ch]
     (lamp = .lit → s.lampOutput ch = true → ∃ u t, exec (.lampNoCurrent ch) s = .next t ∧
       Raised (s.setLamp ch .open) .lampOpen (.item (BitVec.ofNat 8 ch.val)) u ∧ BackupsOffered ch u t ∧ Reacted u t ∧
       t.telltales.lamps[ch] = .open) ∧
     (¬ (lamp = .lit ∧ s.lampOutput ch = true) → exec (.lampNoCurrent ch) s = .next s) ∧
     (lamp = .open → s.lampOutput ch = true → exec (.lampCurrentPresent ch) s = .next (s.setLamp ch .lit)) ∧
     (¬ (lamp = .open ∧ s.lampOutput ch = true) → exec (.lampCurrentPresent ch) s = .next s) ∧
     (lamp = .lit ∨ lamp = .open → s.lampDemanded ch = true → ∃ u t, exec (.lampOverCurrent ch) s = .next t ∧
       Raised (s.setLamp ch .shortProtect) .lampShort (.item (BitVec.ofNat 8 ch.val)) u ∧ BackupsOffered ch u t ∧
       Reacted u t ∧
       t.telltales.lamps[ch] = .shortProtect) ∧
     (¬ ((lamp = .lit ∨ lamp = .open) ∧ s.lampDemanded ch = true) → exec (.lampOverCurrent ch) s = .next s)) ∧
  ∀ s : State, s.awake = true →
    (s.telltales.bulbCheck = some 0 → ∃ w t, exec .bulbCheckExpiry s = .next t ∧ Concluded w t ∧
      w = { s with
        time := { s.time with bulbCheckEnded := true }
        telltales := { s.telltales with bulbCheck := none, lamps := w.telltales.lamps } } ∧
      ∀ ch : Fin 32, w.telltales.lamps[ch] =
        if s.telltales.lamps[ch] = .idle ∧ (∃ i, s.lampShownBy i ch = true) then .lit
        else if s.telltales.lamps[ch] = .lit ∧ ¬ (∃ i, s.lampShownBy i ch = true) then .idle
        else s.telltales.lamps[ch]) ∧
    (s.telltales.bulbCheck ≠ some 0 → exec .bulbCheckExpiry s = .next s)

/-! ### Messages and the chime (chapter 6) -/

/-- An offer becomes current, preempts in its four steps or waits, and a record that finds the ring full is dropped with
PRESENT_DROPPED (R100 to R102); a withdrawal removes the telltale's record wherever it stands, and a removal of the current
presentation chooses the next (R103, R104); an acknowledge press removes an acknowledgeable current presentation, marks its telltale
acknowledged and withdraws its chime request (R106); each change of the current presentation offers one PRESENT record (R107). All
keep the laws of the three places (R99). The best ring record is the oldest of the highest priority, the weakest the oldest of the
lowest (R98). The reports go out one after another, each occurrence completed, slot 127 written and its readers told as the write is
made, before the next (R18, R163); that the event is whole before its first report is the model's choice (log entry 7). -/
def Obligations.PresentationsArePlacedByPriority : Prop :=
  (∀ (s : State) (p : Presentation), OfferTaken s p (s.placeOffer p).state (s.placeOffer p).reports ∧
     (PlaceLaws s.messages → p.telltale ∉ s.messages.standing.map Presentation.telltale →
       PlaceLaws (s.placeOffer p).state.messages)) ∧
  (∀ (s : State) (i : Fin 64), Withdrawn s i (s.withdraw i).state (s.withdraw i).reports ∧
     (PlaceLaws s.messages → PlaceLaws (s.withdraw i).state.messages ∧
       (∀ p ∈ (s.withdraw i).state.messages.standing, p.telltale ≠ i) ∧
       ∀ p ∈ s.messages.standing, p.telltale ≠ i → p ∈ (s.withdraw i).state.messages.standing)) ∧
  (∀ s : State, Pressed s s.press.state s.press.reports ∧ (PlaceLaws s.messages → PlaceLaws s.press.state.messages)) ∧
  (∀ c : Change, Reported c.reports c.state (c.reported publishSevere)) ∧
  ∀ l : List Presentation,
    (∀ b, bestRecord l = some b ↔ ∃ old new, l = old ++ b :: new ∧ (∀ p ∈ old, p.priority < b.priority) ∧
      ∀ p ∈ new, p.priority ≤ b.priority) ∧
    (∀ w, weakestRecord l = some w ↔ ∃ old new, l = old ++ w :: new ∧ (∀ p ∈ old, w.priority < p.priority) ∧
      ∀ p ∈ new, w.priority ≤ p.priority) ∧
    (bestRecord l = none ↔ l = []) ∧ (weakestRecord l = none ↔ l = [])

/-- The winner is the ACTIVE request of the highest pattern priority, then of the lowest telltale index; an idle arbiter starts it,
a playing one is preempted only by a strictly higher priority (R110, R112). -/
def Obligations.ChimeArbiterPlaysTheWinner : Prop :=
  ∀ s : State,
    (∀ i p, s.chimeWinner = some (i, p) ↔ s.activePattern i = some p ∧
      ∀ j q, s.activePattern j = some q →
        s.patternPriority q < s.patternPriority p ∨ (s.patternPriority q = s.patternPriority p ∧ i ≤ j)) ∧
    (s.chimeWinner = none ↔ ∀ i, s.activePattern i = none) ∧
    (s.messages.arbiter = .idle → ∀ i p, s.chimeWinner = some (i, p) →
      s.choose = { s with messages := { s.messages with
        arbiter := .playing i .on (s.tables.chime[p]).onTime (s.tables.chime[p]).tone } }) ∧
    (s.messages.arbiter = .idle → s.chimeWinner = none → s.choose = s) ∧
    ∀ t phase left tone r, s.messages.arbiter = .playing t phase left tone → s.messages.requests[t] = some r →
      (∀ i p, s.chimeWinner = some (i, p) → i ≠ t → s.patternPriority r.pattern < s.patternPriority p →
        s.choose = { s with messages := { s.messages with
          arbiter := .playing i .on (s.tables.chime[p]).onTime (s.tables.chime[p]).tone } }) ∧
      ((∀ i p, s.chimeWinner = some (i, p) → i ≠ t → s.patternPriority p ≤ s.patternPriority r.pattern) →
        s.choose = s)

/-- The chime's phase expiries: ON gives way to OFF; OFF completes the burst, counts it, and the winner starts the next or the
arbiter is IDLE; an expiry that is not due changes nothing (R111, R113). Its sense reports in an ON phase change the load state, no
current with CHIME_FAULT; other reports are ignored (R114). The output is a square wave of 400 + 100 × n Hz for tone n in the ON
phase, from 400 to 1900 Hz over the tones that the table accepts, and silent otherwise (R108, R111); that it is silent in a reset
hold is the model's choice (log entry 38). -/
def Obligations.ChimePhasesAndReports : Prop :=
  (∀ s : State,
     (∀ hz : Nat, s.chimeOutput = some hz ↔ s.awake = true ∧
       ∃ t left tone, s.messages.arbiter = .playing t .on left tone ∧ hz = 400 + 100 * tone) ∧
     ∀ (i : Fin 64) (p : Fin 8), Tables.ok s.tables → s.awake = true → s.messages.arbiter = .idle → s.chimeWinner = some (i, p) →
       ∃ hz, s.choose.chimeOutput = some hz ∧ hz = 400 + 100 * (s.tables.chime[p]).tone ∧ 400 ≤ hz ∧ hz ≤ 1900) ∧
  (∀ s : State, s.awake = true →
     (∀ t tone r, s.messages.arbiter = .playing t .on 0 tone → s.messages.requests[t] = some r →
       exec .chimeOnExpiry s = .next { s with messages := { s.messages with
         arbiter := .playing t .off (s.tables.chime[r.pattern]).offTime tone } }) ∧
     (∀ t tone r, s.messages.arbiter = .playing t .off 0 tone → s.messages.requests[t] = some r →
       let counted : ChimeRequest := match r.remaining with
         | none => r
         | some n => { r with remaining := some (n - 1), status := if n ≤ 1 then .spent else r.status }
       let u := { s with messages := { s.messages with requests := s.messages.requests.set t (some counted) } }
       exec .chimeOffExpiry s = .next { u with messages := { u.messages with
         arbiter := match u.chimeWinner with
           | none => .idle
           | some w => .playing w.1 .on (s.tables.chime[w.2]).onTime (s.tables.chime[w.2]).tone } }) ∧
     ((∀ t tone, s.messages.arbiter ≠ .playing t .on 0 tone) → exec .chimeOnExpiry s = .next s) ∧
     ((∀ t tone, s.messages.arbiter ≠ .playing t .off 0 tone) → exec .chimeOffExpiry s = .next s)) ∧
  ∀ s : State, s.awake = true →
    (∀ t left tone, s.messages.arbiter = .playing t .on left tone → s.messages.load = .normal →
      ∃ u, exec .chimeNoCurrent s = .next u ∧
        Raised { s with messages := { s.messages with load := .open } } .chimeFault (.item (BitVec.ofNat 8 t.val)) u) ∧
    (∀ t left tone, s.messages.arbiter = .playing t .on left tone → s.messages.load = .open →
      exec .chimeCurrentPresent s = .next { s with messages := { s.messages with load := .normal } }) ∧
    ((∀ t left tone, s.messages.arbiter ≠ .playing t .on left tone) ∨ s.messages.load = .open →
      exec .chimeNoCurrent s = .next s) ∧
    ((∀ t left tone, s.messages.arbiter ≠ .playing t .on left tone) ∨ s.messages.load = .normal →
      exec .chimeCurrentPresent s = .next s)

/-! ### Crew (chapter 7) -/

/-- A token update: no effect for the token that stands there and for 0 with no card; a detachment for 0; otherwise the token's
record attaches here, moved without credit, reattached with the rest credit, or made new, and the record that stood here is
detached; the laws are kept (R121, R130 to R132). -/
def Obligations.TokenUpdatesMoveTheCards : Prop :=
  ∀ (s : State) (now : Word32) (x : CrewPosition) (t : Word32), CrewLaws s →
    let update := s.crew.tokenUpdate s.tables.crew now x t
    let left := fun r : CrewRecord => if r.place = .attached x then { r with place := CardPlace.detached now } else r
    ((∃ (p : Fin 4) (r : CrewRecord), s.crew.places[p] = some r ∧ r.place = .attached x ∧ r.token = t) → update = none) ∧
    (t = 0 → (∀ (p : Fin 4) (r : CrewRecord), s.crew.places[p] = some r → r.place ≠ .attached x) → update = none) ∧
    (t = 0 → (∃ (p : Fin 4) (r : CrewRecord), s.crew.places[p] = some r ∧ r.place = .attached x) →
      ∃ c, update = some c ∧ ∀ p : Fin 4, c.places[p] = (s.crew.places[p]).map left) ∧
    (t ≠ 0 → (∀ (p : Fin 4) (r : CrewRecord), s.crew.places[p] = some r → r.place = .attached x → r.token ≠ t) →
      ∃ c, update = some c ∧ CrewLaws { s with crew := c } ∧
        (∀ (p : Fin 4) (r : CrewRecord), s.crew.places[p] = some r → r.token = t →
          (∀ q : Fin 4, q ≠ p → c.places[q] = (s.crew.places[q]).map left) ∧
          c.places[p] = some (match r.place with
            | .attached _ => { r with place := .attached x }
            | .detached since =>
              CrewRecord.credit s.tables.crew (now - since).toNat { r with place := .attached x })) ∧
        ((∀ (p : Fin 4) (r : CrewRecord), s.crew.places[p] = some r → r.token ≠ t) →
          ∃ p : Fin 4, (∀ q : Fin 4, q ≠ p → c.places[q] = (s.crew.places[q]).map left) ∧
            c.places[p] = some
              { token := t, place := .attached x, activity := .unknown, continuous := 0, daily := 0, run := 0
                breakState := .none, provisional := true, contSeen := false, daySeen := false } ∧
            ((∃ q : Fin 4, s.crew.places[q] = none) →
              s.crew.places[p] = none ∧ ∀ q : Fin 4, s.crew.places[q] = none → p ≤ q) ∧
            ((∀ q : Fin 4, s.crew.places[q] ≠ none) →
              ∃ r since, s.crew.places[p] = some r ∧ (left r).place = .detached since ∧
                ∀ (q : Fin 4) (y : CrewRecord) (z : Word32), s.crew.places[q] = some y → (left y).place = .detached z →
                  (now - z).toNat < (now - since).toNat ∨ ((now - z).toNat = (now - since).toNat ∧ p ≤ q))))

/-- A tally update of an attached record: the seconds, the comparison, the clamp, the seen flags, the slots with their events, and
TALLY_MISMATCH unless the record was provisional (R137, R139; the order of the last two, log entry 29). -/
def Obligations.TallyUpdatesConfirmOrReplaceACounter : Prop :=
  ∀ (s : State) (x : CrewPosition) (k : TallyCounter) (m : Word32) (p : Fin 4) (r : CrewRecord), CrewLaws s →
    s.crew.places[p] = some r → r.place = .attached x →
    let seconds := min (60 * m.toInt).toNat 86400
    let own := match k with | .continuous => r.continuous | .daily => r.daily
    let adopts := own + s.tables.crew.tallyTolerance < seconds ∨ seconds + s.tables.crew.tallyTolerance < own
    let daily := if adopts ∧ k = .daily then seconds else r.daily
    let continuous := if adopts ∧ k = .continuous then seconds else r.continuous
    let contSeen := decide (k = .continuous) || r.contSeen
    let daySeen := decide (k = .daily) || r.daySeen
    let after : CrewRecord :=
      { r with
        daily := daily, continuous := if adopts then min continuous daily else continuous
        contSeen := contSeen, daySeen := daySeen, provisional := r.provisional && !(contSeen && daySeen) }
    let u := { s with crew := { s.crew with places := (s.crew.places.set p (some after)) } }
    (¬ adopts → tallyEvent x k m s = u) ∧
    (adopts → r.provisional = true → RemainingTold u (tallyEvent x k m s) ∧
      Reacted u.storeRemaining (tallyEvent x k m s)) ∧
    (adopts → r.provisional = false → ∃ v, Raised u .tallyMismatch (.tally x k own seconds) v ∧
      RemainingTold v (tallyEvent x k m s) ∧ Reacted v.storeRemaining (tallyEvent x k m s))

/-- A rest credit of g seconds: the run, the crossings by the resulting run, REST, provisional (R133); a wake gives it to each
attached record and to no other (R134). -/
def Obligations.RestCreditExtendsTheRun : Prop :=
  (∀ (cfg : CrewConfig) (g : Nat) (r : CrewRecord),
    let run := if r.activity = .rest then min (r.run + g) 4294967295 else g
    let broken := cfg.breakFull ≤ run ∨ (cfg.breakPartB ≤ run ∧ r.breakState = .partA)
    CrewRecord.credit cfg g r =
      { r with
        run := run
        continuous := if broken ∨ cfg.dailyRest ≤ run then 0 else r.continuous
        daily := if cfg.dailyRest ≤ run then 0 else r.daily
        breakState := if broken then .none else r.breakState
        activity := .rest, provisional := true, contSeen := false, daySeen := false }) ∧
  ∀ (s : State) (g : Nat) (p : Fin 4), CrewLaws s →
    (s.creditCrew g).crew.places[p] = (s.crew.places[p]).map fun r =>
      match r.place with
      | .attached _ => CrewRecord.credit s.tables.crew g r
      | .detached _ => r

/-- Slots 122 to 125 as the Crew Unit writes them: whole minutes left of the record attached, in 0..1440, FRESH; without a record
the value kept, NOT_AVAILABLE (R138). -/
def Obligations.RemainingTimeSlotsShowTheMinutesLeft : Prop :=
  ∀ s : State, s.tables.crew.ok = true →
    (∀ r, s.crew.attached .driver = some r →
      ((writeRemaining s).slot 122 =
        ⟨BitVec.ofNat 32 ((s.tables.crew.contLimit - r.continuous) / 60), .fresh, false, 0⟩ ∧
      (writeRemaining s).slot 123 =
        ⟨BitVec.ofNat 32 ((s.tables.crew.dayLimit - r.daily) / 60), .fresh, false, 0⟩) ∧
      ((writeRemaining s).slot 122).value.toNat ≤ 1440 ∧ ((writeRemaining s).slot 123).value.toNat ≤ 1440) ∧
    (∀ r, s.crew.attached .coDriver = some r →
      ((writeRemaining s).slot 124 =
        ⟨BitVec.ofNat 32 ((s.tables.crew.contLimit - r.continuous) / 60), .fresh, false, 0⟩ ∧
      (writeRemaining s).slot 125 =
        ⟨BitVec.ofNat 32 ((s.tables.crew.dayLimit - r.daily) / 60), .fresh, false, 0⟩) ∧
      ((writeRemaining s).slot 124).value.toNat ≤ 1440 ∧ ((writeRemaining s).slot 125).value.toNat ≤ 1440) ∧
    (s.crew.attached .driver = none → ∀ k ∈ [(122 : Fin 128), 123],
      (writeRemaining s).slot k = ⟨(s.slot k).value, .notAvailable, false, 0⟩) ∧
    (s.crew.attached .coDriver = none → ∀ k ∈ [(124 : Fin 128), 125],
      (writeRemaining s).slot k = ⟨(s.slot k).value, .notAvailable, false, 0⟩)

/-! ### Faults (chapter 9) and the egress queue (R176) -/

/-- CLEAR_FAULTS clears the named classes, under SERVICE authority those that are service-clearable; the capture goes with its
class; slot 127 is written and its readers take the event when a status changed; the reply carries the statuses after the clear,
PARTIAL when a named class stays set (R170, R180, R183). -/
def Obligations.ClearFaultsClearsTheNamedClasses : Prop :=
  ∀ (classes : Word16) (s : State), s.awake = true →
    let cleared := fun permitted : Fin 16 → Bool =>
      let gone := fun c : Fin 16 => classes.getLsbD c.val && permitted c && s.faults.status[c]
      let captured := match s.faults.capture with
        | none => false
        | some k => gone k.faultClass.number
      { s with faults :=
        { status := Vector.ofFn fun c : Fin 16 => s.faults.status[c] && !gone c
          capture := if captured then none else s.faults.capture
          overflow := s.faults.overflow && !captured } }
    let cluster := cleared fun _ => true
    let service := cleared fun c => (s.tables.policy[c]).serviceClearable
    let partly := ∃ c : Fin 16, classes.getLsbD c.val = true ∧ service.faults.status[c] = true
    (∀ tag : Word16, ∃ u t, exec (.clearFaults tag classes) s = .next t ∧ Reacted cluster u ∧
      (cluster.faults.status = s.faults.status → u = cluster) ∧
      (cluster.faults.status ≠ s.faults.status → SevereTold cluster u) ∧
      Offered u (.reply 6 tag .ok (statusBytes cluster.faults.status)) t) ∧
    (∀ reply : ReplyAddress, s.portB.queue.length < 4 → ∃ u t, exec (.serviceClearFaults reply classes) s = .next t ∧
      Reacted service u ∧ (service.faults.status = s.faults.status → u = service) ∧
      (service.faults.status ≠ s.faults.status → SevereTold service u) ∧
      (partly → t = u.replyPlaced reply (replyHead 6 .partialClear :: statusBytes service.faults.status)) ∧
      (¬ partly → t = u.replyPlaced reply (replyHead 6 .ok :: statusBytes service.faults.status)))

/-! ### Section resets (R180) -/

/-- The INTAKE, PRESENTATION, CREW and FAULTS section resets, each followed by its REPLY (R16, R117, R145, R171); the last
writes slot 127 with 0, and its readers take the event (R169, R171). -/
def Obligations.SectionResetsEmptyTheirBlocks : Prop :=
  ∀ (tag : Word16) (s : State), s.awake = true →
    let replied := fun (u t : State) => Offered u (.reply 7 tag .ok []) t
    let silence : Silence :=
      { timer := if s.time.part ≠ .run ∨ s.tables.system.portSilence = 0 then none else some s.tables.system.portSilence
        episode := false }
    let absent : SnapshotPosition := ⟨false, 0, .unknown, 0, 0, .none, false⟩
    (∃ t, exec (.intakeSectionReset tag) s = .next t ∧
      replied { s with intake :=
        { forwardMemory := Vector.replicate 96 none, silenceA := silence, silenceB := silence } } t) ∧
    (∃ u v t, exec (.presentationSectionReset tag) s = .next t ∧
      u = { s with
        telltales := { s.telltales with records := u.telltales.records }
        messages := { s.messages with
          current := none, stack := [], ring := [], requests := Vector.replicate 64 none, arbiter := .idle
          load := .normal } } ∧
      (∀ i : Fin 64, u.telltales.records[i] = { s.telltales.records[i] with held := .none }) ∧
      (if s.messages.current = none then v = u else Offered u (.present none 0 0) v) ∧ replied v t) ∧
    (∃ u v t, exec (.crewSectionReset tag) s = .next t ∧
      RemainingTold { s with crew := { places := Vector.replicate 4 none, snapshotCounter := 0 } } u ∧
      Reacted (State.storeRemaining { s with crew := { places := Vector.replicate 4 none, snapshotCounter := 0 } }) u ∧
      Offered u (.crewSnapshot s.time.mono absent absent) v ∧ replied v t) ∧
    (∃ u t, exec (.faultsSectionReset tag) s = .next t ∧
      let cleared := { s with faults := { status := Vector.replicate 16 false, capture := none, overflow := false } }
      cleared.severeWritten = cleared.setSlot 127 ⟨0, .fresh, false, 0⟩ ∧ SevereTold cleared u ∧ Reacted cleared u ∧ replied u t)

/-- The SIGNALS, SPEED, GAUGES and TELLTALES section resets, each followed by its REPLY (R40, R51, R75, R97): the decoded slots go
UNKNOWN one after another, each with its event; the gauge conditions are reported when a channel's state has changed (R71); the
telltales go OFF in turn, the lamp faults are cleared, the active telltales are evaluated afresh in turn, those on slot 127 too
(R80), and the lamps follow (R88). Log entry 18; each move whole before its reports, log entry 7. -/
def Obligations.SectionResetsReturnTheirBlocks : Prop :=
  (∀ (tag : Word16) (s : State), s.awake = true →
     (∃ u t, exec (.signalsSectionReset tag) s = .next t ∧
       (∃ path : Nat → State, path 0 = s ∧ path 120 = u ∧ ∀ k : Fin 120, path (k.val + 1) =
         decodedEvent .quality k { path k.val with store :=
           { slots := ((path k.val).store.slots.set (decodedSlot k)
               ⟨((path k.val).slot (decodedSlot k)).value, .unknown, false, 65535⟩)
             hold := ((path k.val).store.hold.set k none), stale := ((path k.val).store.stale.set k none) } }) ∧
       (∀ k : Fin 120, u.slot (decodedSlot k) = ⟨(s.slot (decodedSlot k)).value, .unknown, false, 65535⟩ ∧
         u.store.hold[k] = none ∧ u.store.stale[k] = none) ∧
       Observed (s.withDecoded u) u ∧ Offered u (.reply 7 tag .ok []) t) ∧
     (∃ u t, exec (.speedSectionReset tag) s = .next t ∧
       Selected { s with speed :=
         { s.speed with
           ring := { s.speed.ring with position := 0, count := 0, lastSum := none }, state := .learning } } u ∧
       Offered u (.reply 7 tag .ok []) t)) ∧
  ∀ (tag : Word16) (s : State), s.awake = true →
    (∃ u t, exec (.gaugesSectionReset tag) s = .next t ∧
      Offered (State.reportedSince { s with gauges := { s.gauges with channels := Vector.ofFn fun ch : Fin 6 =>
        if (s.time.part = .homing ∨ s.time.part = .run) ∧ (s.tables.gauge[ch]).valid = true then
          { s.gauges.channels[ch] with
            stallCount := 0, target := (s.tables.gauge[ch]).park, state := .homing, homingDistance := 0
            position := min (s.gauges.channels[ch]).position (s.tables.gauge[ch]).maxPos }
        else { s.gauges.channels[ch] with stallCount := 0 } } } s) (.reply 7 tag .ok []) u ∧
      Concluded u t) ∧
    (∃ v w u t, exec (.telltalesSectionReset tag) s = .next t ∧ Reacted s u ∧
      InTurn Cleared s v ∧
      InTurn (fun s i t => if s.telltaleActive i = true then FreshlyEvaluated s i t else t = s)
        { v with telltales := { v.telltales with lamps := Vector.ofFn fun ch : Fin 32 =>
          if v.telltales.lamps[ch] = .lit then .lit else .idle } } w ∧
      u = w.relit w.telltales.lamps ∧
      (∀ i : Fin 64, s.telltaleActive i = false →
        (u.telltales.records[i]).state = .off ∧ (u.telltales.records[i]).condition = false) ∧
      (∀ i : Fin 64, s.telltaleActive i = true → (s.tables.telltale[i]).source ≠ 127 →
        let condition := (s.tables.telltale[i]).condition (s.slot (s.tables.telltale[i]).source) false
        (u.telltales.records[i]).condition = condition ∧
          (u.telltales.records[i]).state =
            if condition = true then (if (s.tables.telltale[i]).onDebounce = 0 then .on else .rising) else .off) ∧
      (∀ ch : Fin 32, u.telltales.lamps[ch] = if u.lampDemanded ch = true then .lit else .idle) ∧
      Offered u (.reply 7 tag .ok []) t)

/-! ### The link and management requests (chapter 10) -/

/-- LINK_TRANSFER sends the queue's head or EMPTY, discards an upstream EMPTY, and discards a record that fails R175 with LINK_CHECK
(R173, R175). A MGMT_REQUEST whose code is not known on the link, whose payload is too short for its request, or that names no
section is refused with RANGE, the REPLY with code 0 and tag 0 where the payload is too short for them (R177, R180, R187). READY is
active in an awake part exactly while the queue holds a record (R174). -/
def Obligations.TransferSendsTheHeadAndChecksTheRecord : Prop :=
  (∀ (r : List Byte) (s : State), s.awake = true →
     (upstreamGood r → byteAt r 0 = 0 → ∃ t, exec (.linkTransfer r) s = .next t ∧ Concluded s.downstreamSent t) ∧
     (¬ upstreamGood r → ∃ u t, exec (.linkTransfer r) s = .next t ∧
       Raised s.downstreamSent .linkCheck (.item (byteAt r 0)) u ∧ Concluded u t) ∧
     (upstreamGood r → byteAt r 0 = 1 →
       let payload := (r.drop 2).take (byteAt r 1).toNat
       let refused := fun (code : Byte) (tag : Word16) => ∃ u t, exec (.linkTransfer r) s = .next t ∧
         Refused s.downstreamSent code tag .range u ∧ Concluded u t
       (payload = [] → refused 0 0) ∧
       (∀ code, payload = [code] → refused code 0) ∧
       (∀ code t0, payload = [code, t0] → refused code 0) ∧
       ∀ code t0 t1 args, payload = code :: t0 :: t1 :: args → ¬ requestKnown code args → refused code (t1 ++ t0))) ∧
  ∀ s : State, (s.awake = true → (s.ready = true ↔ s.link.egress ≠ [])) ∧ (s.awake = false → s.ready = false)

/-- A transfer whose upstream record carries a request, in the layout of R186 and R187 with its check, runs exactly that request,
after the downstream record has been sent (R173, R177, R187). -/
def Obligations.TransferRunsTheRequestItCarries : Prop :=
  ∀ (c : Instr) (l : List Byte) (s : State), s.awake = true → Settled s → c.wellFormed = true → requestPayload c = some l →
    exec (.linkTransfer (linkRecord 0x01 l)) s = exec c s.downstreamSent

/-- LOAD replaces the entry whole when its block accepts it, with the effect of a write in use (R12, R20, R31, R49, R53, R72, R94,
R105, R108, R119, R160, R164), and answers OK; a failed check refuses it with its status and changes nothing (R177, R178). The
effect of a write in use is that of chapter 10 section 5: for a telltale the whole of R94 (presentation and chime request withdrawn,
acknowledged cleared, timer stopped, both lamp channels' demand recomputed, a fresh evaluation if active; each step whole before its
reports, log entry 7), for a Fault Policy entry the write of slot 127 with its readers (R164, R169), for Crew Config slots
122 to 125 with theirs (R119). That a Slot Config write keeps the slot's age is log entry 17, and the order of the detector and the
ring at a System Config write log entry 20. -/
def Obligations.LoadReplacesTheEntryOrIsRefused : Prop :=
  ∀ (tag : Word16) (table index : Byte) (entry : List Byte) (s : State), s.awake = true →
    (byteEnum tableCodes table = none → ∃ u t, exec (.load tag table index entry) s = .next t ∧
      Refused s 1 tag .badTable u ∧ Concluded u t) ∧
    ∀ id, byteEnum tableCodes table = some id →
      (id.size ≤ index.toNat → ∃ u t, exec (.load tag table index entry) s = .next t ∧
        Refused s 1 tag .badIndex u ∧ Concluded u t) ∧
      (index.toNat < id.size → entry.length < id.entryLength → ∃ u t, exec (.load tag table index entry) s = .next t ∧
        Refused s 1 tag .range u ∧ Concluded u t) ∧
      (index.toNat < id.size → id.entryLength ≤ entry.length → entryGood id (entry.take id.entryLength) = false →
        ∃ u t, exec (.load tag table index entry) s = .next t ∧
          Refused s 1 tag (entryStatus id (entry.take id.entryLength)) u ∧ Concluded u t) ∧
      (index.toNat < id.size → id.entryLength ≤ entry.length → entryGood id (entry.take id.entryLength) = true →
        ∃ u v t, exec (.load tag table index entry) s = .next t ∧
          EntryTaken s id index.toNat (entry.take id.entryLength) .all u ∧ Offered u (.reply 1 tag .ok []) v ∧
          Concluded v t)

/-- SET_FIELD writes one field with the others as they stand, checked as the whole entry, with the effect of a write in use (R12,
R20, R31, R49, R53, R72, R94, R105, R108, R119, R160, R164); a failed check refuses it with its status and changes nothing (R177,
R178). The effect of a write in use is that of chapter 10 section 5: for a telltale the whole of R94 (presentation and chime request
withdrawn, acknowledged cleared, timer stopped, both lamp channels' demand recomputed, a fresh evaluation if active; each step
whole before its reports, log entry 7), for a Fault Policy entry the write of slot 127 with its readers (R164, R169), for Crew
Config slots 122 to 125 with theirs (R119). That a Slot Config write keeps the slot's age is log entry 17, and the order of the
detector and the ring at a System Config write log entry 20. -/
def Obligations.SetFieldWritesOneFieldOrIsRefused : Prop :=
  ∀ (tag : Word16) (table index field : Byte) (value : Word32) (s : State), s.awake = true →
    let refused := fun r => ∃ u t, exec (.setField tag table index field value) s = .next t ∧ Refused s 3 tag r u ∧
      Concluded u t
    (byteEnum tableCodes table = none → refused .badTable) ∧
    ∀ id, byteEnum tableCodes table = some id →
      (id.size ≤ index.toNat → refused .badIndex) ∧
      ∀ l, s.entryBytes id index.toNat = some l →
        (id.fields.length ≤ field.toNat → refused .badField) ∧
        ∀ f, id.fields[field.toNat]? = some f →
          (f.fits value = false → refused .range) ∧
          (f.fits value = true → entryGood id (f.splice l value) = false → refused (entryStatus id (f.splice l value))) ∧
          (f.fits value = true → entryGood id (f.splice l value) = true →
            ∃ u v t, exec (.setField tag table index field value) s = .next t ∧
              EntryTaken s id index.toNat (f.splice l value) (.field field.toNat) u ∧
              Offered u (.reply 3 tag .ok []) v ∧ Concluded v t)

/-- READ, READ_FIELD and STATE answer with what stands, or with the status of the check that failed, and change nothing else (R177
to R179). The data of each of the nine STATE targets stands at the offsets of R189, in the encodings of R185; the codes of the part
states are log entry 12, what stands for an item that does not apply, such as the mode of a lamp channel that is not driven, is log
entry 22, and that bit n of the ACTIVE and SPENT sets stands for telltale n is the model's choice (log entry 39). -/
def Obligations.ReadsAnswerWhatStands : Prop :=
  ∀ (tag : Word16) (table index field : Byte) (s : State), s.awake = true →
    (∃ t, exec (.read tag table index) s = .next t ∧
      match byteEnum tableCodes table with
      | none => Refused s 2 tag .badTable t
      | some id =>
        match s.entryBytes id index.toNat with
        | none => Refused s 2 tag .badIndex t
        | some l => Offered s (.reply 2 tag .ok l) t) ∧
    (∃ t, exec (.readField tag table index field) s = .next t ∧
      match byteEnum tableCodes table with
      | none => Refused s 4 tag .badTable t
      | some id =>
        match s.entryBytes id index.toNat with
        | none => Refused s 4 tag .badIndex t
        | some l =>
          match id.fields[field.toNat]? with
          | none => Refused s 4 tag .badField t
          | some f => Offered s (.reply 4 tag .ok (wordBytes (f.value l))) t) ∧
    (∃ t, exec (.state tag table index) s = .next t ∧
      match s.stateData table index with
      | .error r => Refused s 5 tag r t
      | .ok data => Offered s (.reply 5 tag .ok data) t) ∧
    (∀ x : StateTarget, byteEnum stateTargetCodes table = some x →
      let answered := fun (n : Nat) (lawful : Nat → List Byte → Prop) =>
        (n ≤ index.toNat → s.stateData table index = .error .badIndex) ∧
        (index.toNat < n → ∃ l, s.stateData table index = .ok l ∧ lawful index.toNat l)
      match x with
      | .slot => answered 128 fun n l => ∀ k : Fin 128, k.val = n → SlotLayout (s.slot k) l
      | .gauge => answered 6 fun n l => ∀ ch : Fin 6, ch.val = n → ChannelLayout s.gauges.channels[ch] l
      | .telltale => answered 64 fun n l => ∀ i : Fin 64, i.val = n → TelltaleLayout s.telltales.records[i] l
      | .lamp => answered 32 fun n l => ∀ ch : Fin 32, ch.val = n → LampLayout s ch l
      | .crew => answered 4 fun n l => ∀ p : Fin 4, p.val = n → CrewPlaceLayout s.crew.places[p] l
      | .presentation => s.messages.stack.length ≤ 4 → s.messages.ring.length ≤ 16 →
        ∃ l, s.stateData table index = .ok l ∧ PresentationLayout s.messages l
      | .speed => s.speed.ring.count ≤ 8 → ∃ l, s.stateData table index = .ok l ∧ SpeedLayout s.speed l
      | .faults => ∃ l, s.stateData table index = .ok l ∧ FaultsLayout s l
      | .time => ∃ l, s.stateData table index = .ok l ∧ TimeLayout s.time l) ∧
    (byteEnum stateTargetCodes table = none → s.stateData table index = .error .badTable)

/-- READ returns what an accepted LOAD wrote, byte for byte, for every entry of every table (R178, R191). -/
def Obligations.ReadReturnsWhatLoadWrote : Prop :=
  ∀ (tag again : Word16) (table index : Byte) (entry : List Byte) (id : TableId) (s t : State), s.awake = true →
    byteEnum tableCodes table = some id → index.toNat < id.size → id.entryLength ≤ entry.length →
    entryGood id (entry.take id.entryLength) = true → exec (.load tag table index entry) s = .next t → t.awake = true →
    ∃ x, exec (.read again table index) t = .next x ∧ Offered t (.reply 2 again .ok (entry.take id.entryLength)) x

/-- Every table entry that satisfies its constraints is read back from its bytes, every field at every value (R185, R191). -/
def Obligations.EntryBytesReadBack : Prop :=
  (∀ e : IntakeEntry, e.ok = true → IntakeEntry.ofBytes e.bytes = some e) ∧
  (∀ e : MapEntry, e.ok = true → MapEntry.ofBytes e.bytes = some e) ∧
  (∀ e : SlotConfig, e.ok = true → SlotConfig.ofBytes e.bytes = some e) ∧
  (∀ e : Curve, e.inRange = true → Curve.ofBytes e.bytes = some e) ∧
  (∀ e : GaugeEntry, e.ok = true → GaugeEntry.ofBytes e.bytes = some e) ∧
  (∀ e : TelltaleEntry, e.ok = true → TelltaleEntry.ofBytes e.bytes = some e) ∧
  (∀ e : ChimePattern, e.ok = true → ChimePattern.ofBytes e.bytes = some e) ∧
  (∀ e : CrewConfig, e.ok = true → CrewConfig.ofBytes e.bytes = some e) ∧
  (∀ e : SystemConfig, e.ok = true → SystemConfig.ofBytes e.bytes = some e) ∧
  ∀ e : FaultPolicy, FaultPolicy.ofBytes e.bytes = some e

/-! ### Service requests and reply frames (R181 to R184) -/

/-- A service request that finds four reply frames queued is not executed and gets no reply; MGMT_REFUSED is raised with BUSY. With
room, READ_FIELD and READ_FAULTS answer with what stands or with the status of the failed check (R181, R183). In byte 3 of READ_FAULTS' data, that bits 0 to 3 are 0 when the capture is empty and
bits 6 and 7 always is the model's choice (log entry 40): R190 states no value for them. -/
def Obligations.ServiceReadsAnswerUnlessBusy : Prop :=
  ∀ (reply : ReplyAddress) (table index field : Byte) (value : Word32) (classes : Word16) (s : State), s.awake = true →
    (4 ≤ s.portB.queue.length →
      ∀ c ∈ [Instr.serviceSetField reply table index field value, .serviceReadField reply table index field,
          .serviceClearFaults reply classes, .readFaults reply],
        ∃ t, exec c s = .next t ∧ Raised s .mgmtRefused (.item ReplyStatus.busy.code) t) ∧
    (s.portB.queue.length < 4 →
      (∃ t, exec (.serviceReadField reply table index field) s = .next t ∧
        let refused := fun r => ∃ u, Raised s .mgmtRefused (.item r.code) u ∧ t = u.replyPlaced reply [replyHead 4 r]
        match byteEnum tableCodes table with
        | none => refused ReplyStatus.badTable
        | some id =>
          match s.entryBytes id index.toNat with
          | none => refused .badIndex
          | some l =>
            match id.fields[field.toNat]? with
            | none => refused .badField
            | some f => t = s.replyPlaced reply (replyHead 4 .ok :: wordBytes (f.value l))) ∧
      ∃ t, exec (.readFaults reply) s = .next t ∧
        t = s.replyPlaced reply (replyHead 10 .ok :: (statusBytes s.faults.status ++
          [((match s.faults.capture with
            | none => 0x10
            | some k => BitVec.ofNat 8 k.faultClass.number.val) : Byte) |||
            (if s.faults.overflow = true then 0x20 else 0)] ++
          wordBytes (match s.faults.capture with
            | none => 0
            | some k => k.stamp.mono))))

/-- SERVICE SET_FIELD passes the checks of R177 and R182 in their order, and is then executed as the same write by the host (R182). -/
def Obligations.ServiceSetFieldPassesItsChecksInOrder : Prop :=
  ∀ (reply : ReplyAddress) (table index field : Byte) (value : Word32) (s : State), s.awake = true →
    s.portB.queue.length < 4 →
    let refused := fun r => ∃ u t, exec (.serviceSetField reply table index field value) s = .next t ∧
      Raised s .mgmtRefused (.item (ReplyStatus.code r)) u ∧ t = u.replyPlaced reply [replyHead 3 r]
    (byteEnum tableCodes table = none → refused .badTable) ∧
    ∀ id, byteEnum tableCodes table = some id →
      (id.size ≤ index.toNat → refused .badIndex) ∧
      ∀ l, s.entryBytes id index.toNat = some l →
        (id.fields.length ≤ field.toNat → refused .badField) ∧
        ∀ f, id.fields[field.toNat]? = some f →
          (¬ s.serviceMay id index.toNat field.toNat → refused .notPermitted) ∧
          (s.serviceMay id index.toNat field.toNat → s.workshopCondition = false → refused .notStationary) ∧
          (s.serviceMay id index.toNat field.toNat → s.workshopCondition = true →
            (f.fits value = false ∨ entryGood id (f.splice l value) = false →
              refused (if f.fits value = true then entryStatus id (f.splice l value) else .range)) ∧
            (f.fits value = true → entryGood id (f.splice l value) = true →
              ∃ u t, exec (.serviceSetField reply table index field value) s = .next t ∧
                EntryTaken s id index.toNat (f.splice l value) (.field field.toNat) u ∧
                t = u.replyPlaced reply [replyHead 3 .ok]))

/-- Whatever arrives at the part, other than the host's LOAD and SET_FIELD, a link transfer (which runs the request that it carries,
and no other: TransferSendsTheHeadAndChecksTheRecord, TransferRunsTheRequestItCarries) and a loss of supply, changes at most the y
of one curve point, or F or O of one calibration map entry, and that only under the workshop condition (R177, R182). -/
def Obligations.OnlyTheHostWritesBeyondCalibration : Prop :=
  ∀ (c : Instr) (s t : State), Tables.ok s.tables → exec c s = .next t →
    (∀ tag table index entry, c ≠ .load tag table index entry) →
    (∀ tag table index field value, c ≠ .setField tag table index field value) → (∀ u, c ≠ .linkTransfer u) →
    c ≠ .coldStart → c ≠ .keepAliveRemoval →
    CalibrationOnly s.tables t.tables ∧ (t.tables ≠ s.tables → s.workshopCondition = true)

/-- Port B's reply frames: the head is sent when port B is idle, leaves when sent, stays when not sent, and any frame leaves at its
expiry, without a fault (R184). -/
def Obligations.ReplyFramesAreSentOrExpire : Prop :=
  ∀ s : State, s.awake = true →
    (∀ q rest, s.portB.transmit = .idle → s.portB.queue = q :: rest →
      exec .replyFrameSend s = .next { s with portB := { s.portB with transmit := .sending q.frame true } }) ∧
    (s.portB.transmit ≠ .idle ∨ s.portB.queue = [] → exec .replyFrameSend s = .next s) ∧
    (∀ f, s.portB.transmit = .sending f true → exec .replyFrameSent s = .next
      { s with portB := { queue := s.portB.queue.tail, transmit := .idle } }) ∧
    (∀ f, s.portB.transmit = .sending f false → exec .replyFrameSent s = .next
      { s with portB := { s.portB with transmit := .idle } }) ∧
    (∀ f b, s.portB.transmit = .sending f b → exec .replyFrameNotSent s = .next
      { s with portB := { s.portB with transmit := .idle } }) ∧
    (s.portB.transmit = .idle → exec .replyFrameSent s = .next s ∧ exec .replyFrameNotSent s = .next s) ∧
    ∀ place : Fin 4,
      (∀ q, s.portB.queue[place.val]? = some q → q.left = 0 → exec (.replyExpiry place) s = .next
        { s with portB :=
          { queue := s.portB.queue.eraseIdx place.val
            transmit := match s.portB.transmit with
              | .sending f b => .sending f (b && !decide (place = 0))
              | .idle => .idle } }) ∧
      ((∀ q, s.portB.queue[place.val]? = some q → q.left ≠ 0) → exec (.replyExpiry place) s = .next s)

/-! ### The laws that every step keeps -/

/-- Every table entry keeps satisfying its constraints (R3, R19, R30, R52, R54, R76, R108, R118, R160). -/
def Obligations.StepsKeepEveryEntryWithinItsConstraints : Prop :=
  ∀ s t : State, Tables.ok s.tables → step s = .next t → Tables.ok t.tables

/-- The two queues keep their bounds (R176, R184). -/
def Obligations.StepsKeepTheQueueBounds : Prop :=
  ∀ s t : State, QueueLaws s → step s = .next t → QueueLaws t

/-- The captured class stays set, the overflow flag is clear without a capture, and slot 127 counts the unmasked SEVERE classes that
are set (R167, R169). -/
def Obligations.StepsKeepTheFaultLaws : Prop :=
  ∀ s t : State, FaultLaws s → step s = .next t → FaultLaws t

/-- The laws of the three presentation places (R99). -/
def Obligations.StepsKeepThePresentationLaws : Prop :=
  ∀ s t : State, MessageLaws s → step s = .next t → MessageLaws t

/-- The laws of the Crew Table (R121). -/
def Obligations.StepsKeepTheCrewLaws : Prop :=
  ∀ s t : State, CrewLaws s → step s = .next t → CrewLaws t

/-- A usable decoded slot holds a value of its Slot Config range, and a hold timer runs only for a FRESH slot (R31, R32). -/
def Obligations.StepsKeepTheSlotLaws : Prop :=
  ∀ s t : State, SlotLaws s → step s = .next t → SlotLaws t

/-- Positions, targets and filter states keep within MaxPos (R58 to R61); the arbitration state and the ring count stay tied
together (R45). -/
def Obligations.StepsKeepTheGaugeAndSpeedLaws : Prop :=
  (∀ s t : State, Tables.ok s.tables → GaugeLaws s → step s = .next t → GaugeLaws t) ∧
  ∀ s t : State, SpeedLaws s → step s = .next t → SpeedLaws t

/-- No step leaves a move to RUN or to SLEEP undone (R156, R158). -/
def Obligations.StepsLeaveNoMoveUndone : Prop :=
  ∀ s t : State, Settled s → step s = .next t → Settled t

/-! ### The records sent downstream (R186 to R188) -/

/-- Every downstream record is 64 bytes in the layout of R186 and R188, and a REPLY in that of R187: kind, payload length, payload
at its offsets, zeros, and the check over bytes 0 to 61 with its high byte first (R175, R185). The zeros of an absent presentation
are log entry 22. -/
def Obligations.DownstreamRecordsCarryTheirLayout : Prop :=
  (∀ r : EgressRecord,
    (∀ entry port id data, r = .forward entry port id data → data.length ≤ 8) →
    (∀ code tag status data, r = .reply code tag status data → data.length ≤ 56) → RecordLayout r r.bytes) ∧
  emptyRecord.length = 64 ∧ (∀ j, j < 62 → byteAt emptyRecord j = 0) ∧
    byteAt emptyRecord 62 ++ byteAt emptyRecord 63 = crc16 (emptyRecord.take 62)
end

