-- ==== Sys2Proof/Laws/State.lean ====
section
/-! SUPPORT. What each update of one piece of state leaves in each field: one lemma a field, true by unfolding the update. -/

namespace Sys2Proof.Machine

variable (s : State)

@[simp] theorem State.setSlot_keepAlive (k : Fin 128) (x : Slot) : (s.setSlot k x).keepAlive = s.keepAlive := rfl
@[simp] theorem State.setSlot_resetHeld (k : Fin 128) (x : Slot) : (s.setSlot k x).resetHeld = s.resetHeld := rfl
@[simp] theorem State.setSlot_rawIgnition (k : Fin 128) (x : Slot) : (s.setSlot k x).rawIgnition = s.rawIgnition := rfl
@[simp] theorem State.setSlot_time (k : Fin 128) (x : Slot) : (s.setSlot k x).time = s.time := rfl
@[simp] theorem State.setSlot_tables (k : Fin 128) (x : Slot) : (s.setSlot k x).tables = s.tables := rfl
@[simp] theorem State.setSlot_intake (k : Fin 128) (x : Slot) : (s.setSlot k x).intake = s.intake := rfl
@[simp] theorem State.setSlot_speed (k : Fin 128) (x : Slot) : (s.setSlot k x).speed = s.speed := rfl
@[simp] theorem State.setSlot_gauges (k : Fin 128) (x : Slot) : (s.setSlot k x).gauges = s.gauges := rfl
@[simp] theorem State.setSlot_telltales (k : Fin 128) (x : Slot) : (s.setSlot k x).telltales = s.telltales := rfl
@[simp] theorem State.setSlot_messages (k : Fin 128) (x : Slot) : (s.setSlot k x).messages = s.messages := rfl
@[simp] theorem State.setSlot_crew (k : Fin 128) (x : Slot) : (s.setSlot k x).crew = s.crew := rfl
@[simp] theorem State.setSlot_faults (k : Fin 128) (x : Slot) : (s.setSlot k x).faults = s.faults := rfl
@[simp] theorem State.setSlot_link (k : Fin 128) (x : Slot) : (s.setSlot k x).link = s.link := rfl
@[simp] theorem State.setSlot_portB (k : Fin 128) (x : Slot) : (s.setSlot k x).portB = s.portB := rfl
@[simp] theorem State.setSlot_choices (k : Fin 128) (x : Slot) : (s.setSlot k x).choices = s.choices := rfl
@[simp] theorem State.setSlot_pending (k : Fin 128) (x : Slot) : (s.setSlot k x).pending = s.pending := rfl
@[simp] theorem State.setSlot_store_slots (k : Fin 128) (x : Slot) : (s.setSlot k x).store.slots = s.store.slots.set k x := rfl
@[simp] theorem State.setSlot_store_hold (k : Fin 128) (x : Slot) : (s.setSlot k x).store.hold = s.store.hold := rfl
@[simp] theorem State.setSlot_store_stale (k : Fin 128) (x : Slot) : (s.setSlot k x).store.stale = s.store.stale := rfl

@[simp] theorem State.setSlotTimers_keepAlive (k : Fin 120) (h w : Timer) : (s.setSlotTimers k h w).keepAlive = s.keepAlive := rfl
@[simp] theorem State.setSlotTimers_resetHeld (k : Fin 120) (h w : Timer) : (s.setSlotTimers k h w).resetHeld = s.resetHeld := rfl
@[simp] theorem State.setSlotTimers_rawIgnition (k : Fin 120) (h w : Timer) : (s.setSlotTimers k h w).rawIgnition = s.rawIgnition := rfl
@[simp] theorem State.setSlotTimers_time (k : Fin 120) (h w : Timer) : (s.setSlotTimers k h w).time = s.time := rfl
@[simp] theorem State.setSlotTimers_tables (k : Fin 120) (h w : Timer) : (s.setSlotTimers k h w).tables = s.tables := rfl
@[simp] theorem State.setSlotTimers_intake (k : Fin 120) (h w : Timer) : (s.setSlotTimers k h w).intake = s.intake := rfl
@[simp] theorem State.setSlotTimers_speed (k : Fin 120) (h w : Timer) : (s.setSlotTimers k h w).speed = s.speed := rfl
@[simp] theorem State.setSlotTimers_gauges (k : Fin 120) (h w : Timer) : (s.setSlotTimers k h w).gauges = s.gauges := rfl
@[simp] theorem State.setSlotTimers_telltales (k : Fin 120) (h w : Timer) : (s.setSlotTimers k h w).telltales = s.telltales := rfl
@[simp] theorem State.setSlotTimers_messages (k : Fin 120) (h w : Timer) : (s.setSlotTimers k h w).messages = s.messages := rfl
@[simp] theorem State.setSlotTimers_crew (k : Fin 120) (h w : Timer) : (s.setSlotTimers k h w).crew = s.crew := rfl
@[simp] theorem State.setSlotTimers_faults (k : Fin 120) (h w : Timer) : (s.setSlotTimers k h w).faults = s.faults := rfl
@[simp] theorem State.setSlotTimers_link (k : Fin 120) (h w : Timer) : (s.setSlotTimers k h w).link = s.link := rfl
@[simp] theorem State.setSlotTimers_portB (k : Fin 120) (h w : Timer) : (s.setSlotTimers k h w).portB = s.portB := rfl
@[simp] theorem State.setSlotTimers_choices (k : Fin 120) (h w : Timer) : (s.setSlotTimers k h w).choices = s.choices := rfl
@[simp] theorem State.setSlotTimers_pending (k : Fin 120) (h w : Timer) : (s.setSlotTimers k h w).pending = s.pending := rfl
@[simp] theorem State.setSlotTimers_store_slots (k : Fin 120) (h w : Timer) : (s.setSlotTimers k h w).store.slots = s.store.slots := rfl
@[simp] theorem State.setSlotTimers_store_hold (k : Fin 120) (h w : Timer) : (s.setSlotTimers k h w).store.hold = s.store.hold.set k h := rfl
@[simp] theorem State.setSlotTimers_store_stale (k : Fin 120) (h w : Timer) : (s.setSlotTimers k h w).store.stale = s.store.stale.set k w := rfl

@[simp] theorem State.setTelltale_keepAlive (i : Fin 64) (r : Telltale) : (s.setTelltale i r).keepAlive = s.keepAlive := rfl
@[simp] theorem State.setTelltale_resetHeld (i : Fin 64) (r : Telltale) : (s.setTelltale i r).resetHeld = s.resetHeld := rfl
@[simp] theorem State.setTelltale_rawIgnition (i : Fin 64) (r : Telltale) : (s.setTelltale i r).rawIgnition = s.rawIgnition := rfl
@[simp] theorem State.setTelltale_time (i : Fin 64) (r : Telltale) : (s.setTelltale i r).time = s.time := rfl
@[simp] theorem State.setTelltale_tables (i : Fin 64) (r : Telltale) : (s.setTelltale i r).tables = s.tables := rfl
@[simp] theorem State.setTelltale_intake (i : Fin 64) (r : Telltale) : (s.setTelltale i r).intake = s.intake := rfl
@[simp] theorem State.setTelltale_store (i : Fin 64) (r : Telltale) : (s.setTelltale i r).store = s.store := rfl
@[simp] theorem State.setTelltale_speed (i : Fin 64) (r : Telltale) : (s.setTelltale i r).speed = s.speed := rfl
@[simp] theorem State.setTelltale_gauges (i : Fin 64) (r : Telltale) : (s.setTelltale i r).gauges = s.gauges := rfl
@[simp] theorem State.setTelltale_messages (i : Fin 64) (r : Telltale) : (s.setTelltale i r).messages = s.messages := rfl
@[simp] theorem State.setTelltale_crew (i : Fin 64) (r : Telltale) : (s.setTelltale i r).crew = s.crew := rfl
@[simp] theorem State.setTelltale_faults (i : Fin 64) (r : Telltale) : (s.setTelltale i r).faults = s.faults := rfl
@[simp] theorem State.setTelltale_link (i : Fin 64) (r : Telltale) : (s.setTelltale i r).link = s.link := rfl
@[simp] theorem State.setTelltale_portB (i : Fin 64) (r : Telltale) : (s.setTelltale i r).portB = s.portB := rfl
@[simp] theorem State.setTelltale_choices (i : Fin 64) (r : Telltale) : (s.setTelltale i r).choices = s.choices := rfl
@[simp] theorem State.setTelltale_pending (i : Fin 64) (r : Telltale) : (s.setTelltale i r).pending = s.pending := rfl
@[simp] theorem State.setTelltale_telltales_records (i : Fin 64) (r : Telltale) : (s.setTelltale i r).telltales.records = s.telltales.records.set i r := rfl
@[simp] theorem State.setTelltale_telltales_lamps (i : Fin 64) (r : Telltale) : (s.setTelltale i r).telltales.lamps = s.telltales.lamps := rfl
@[simp] theorem State.setTelltale_telltales_bulbCheck (i : Fin 64) (r : Telltale) : (s.setTelltale i r).telltales.bulbCheck = s.telltales.bulbCheck := rfl

@[simp] theorem State.setLamp_keepAlive (c : Fin 32) (l : LampState) : (s.setLamp c l).keepAlive = s.keepAlive := rfl
@[simp] theorem State.setLamp_resetHeld (c : Fin 32) (l : LampState) : (s.setLamp c l).resetHeld = s.resetHeld := rfl
@[simp] theorem State.setLamp_rawIgnition (c : Fin 32) (l : LampState) : (s.setLamp c l).rawIgnition = s.rawIgnition := rfl
@[simp] theorem State.setLamp_time (c : Fin 32) (l : LampState) : (s.setLamp c l).time = s.time := rfl
@[simp] theorem State.setLamp_tables (c : Fin 32) (l : LampState) : (s.setLamp c l).tables = s.tables := rfl
@[simp] theorem State.setLamp_intake (c : Fin 32) (l : LampState) : (s.setLamp c l).intake = s.intake := rfl
@[simp] theorem State.setLamp_store (c : Fin 32) (l : LampState) : (s.setLamp c l).store = s.store := rfl
@[simp] theorem State.setLamp_speed (c : Fin 32) (l : LampState) : (s.setLamp c l).speed = s.speed := rfl
@[simp] theorem State.setLamp_gauges (c : Fin 32) (l : LampState) : (s.setLamp c l).gauges = s.gauges := rfl
@[simp] theorem State.setLamp_messages (c : Fin 32) (l : LampState) : (s.setLamp c l).messages = s.messages := rfl
@[simp] theorem State.setLamp_crew (c : Fin 32) (l : LampState) : (s.setLamp c l).crew = s.crew := rfl
@[simp] theorem State.setLamp_faults (c : Fin 32) (l : LampState) : (s.setLamp c l).faults = s.faults := rfl
@[simp] theorem State.setLamp_link (c : Fin 32) (l : LampState) : (s.setLamp c l).link = s.link := rfl
@[simp] theorem State.setLamp_portB (c : Fin 32) (l : LampState) : (s.setLamp c l).portB = s.portB := rfl
@[simp] theorem State.setLamp_choices (c : Fin 32) (l : LampState) : (s.setLamp c l).choices = s.choices := rfl
@[simp] theorem State.setLamp_pending (c : Fin 32) (l : LampState) : (s.setLamp c l).pending = s.pending := rfl
@[simp] theorem State.setLamp_telltales_records (c : Fin 32) (l : LampState) : (s.setLamp c l).telltales.records = s.telltales.records := rfl
@[simp] theorem State.setLamp_telltales_lamps (c : Fin 32) (l : LampState) : (s.setLamp c l).telltales.lamps = s.telltales.lamps.set c l := rfl
@[simp] theorem State.setLamp_telltales_bulbCheck (c : Fin 32) (l : LampState) : (s.setLamp c l).telltales.bulbCheck = s.telltales.bulbCheck := rfl

@[simp] theorem State.setChannel_keepAlive (c : Fin 6) (x : Channel) : (s.setChannel c x).keepAlive = s.keepAlive := rfl
@[simp] theorem State.setChannel_resetHeld (c : Fin 6) (x : Channel) : (s.setChannel c x).resetHeld = s.resetHeld := rfl
@[simp] theorem State.setChannel_rawIgnition (c : Fin 6) (x : Channel) : (s.setChannel c x).rawIgnition = s.rawIgnition := rfl
@[simp] theorem State.setChannel_time (c : Fin 6) (x : Channel) : (s.setChannel c x).time = s.time := rfl
@[simp] theorem State.setChannel_tables (c : Fin 6) (x : Channel) : (s.setChannel c x).tables = s.tables := rfl
@[simp] theorem State.setChannel_intake (c : Fin 6) (x : Channel) : (s.setChannel c x).intake = s.intake := rfl
@[simp] theorem State.setChannel_store (c : Fin 6) (x : Channel) : (s.setChannel c x).store = s.store := rfl
@[simp] theorem State.setChannel_speed (c : Fin 6) (x : Channel) : (s.setChannel c x).speed = s.speed := rfl
@[simp] theorem State.setChannel_telltales (c : Fin 6) (x : Channel) : (s.setChannel c x).telltales = s.telltales := rfl
@[simp] theorem State.setChannel_messages (c : Fin 6) (x : Channel) : (s.setChannel c x).messages = s.messages := rfl
@[simp] theorem State.setChannel_crew (c : Fin 6) (x : Channel) : (s.setChannel c x).crew = s.crew := rfl
@[simp] theorem State.setChannel_faults (c : Fin 6) (x : Channel) : (s.setChannel c x).faults = s.faults := rfl
@[simp] theorem State.setChannel_link (c : Fin 6) (x : Channel) : (s.setChannel c x).link = s.link := rfl
@[simp] theorem State.setChannel_portB (c : Fin 6) (x : Channel) : (s.setChannel c x).portB = s.portB := rfl
@[simp] theorem State.setChannel_choices (c : Fin 6) (x : Channel) : (s.setChannel c x).choices = s.choices := rfl
@[simp] theorem State.setChannel_pending (c : Fin 6) (x : Channel) : (s.setChannel c x).pending = s.pending := rfl
@[simp] theorem State.setChannel_gauges_channels (c : Fin 6) (x : Channel) : (s.setChannel c x).gauges.channels = s.gauges.channels.set c x := rfl
@[simp] theorem State.setChannel_gauges_tick (c : Fin 6) (x : Channel) : (s.setChannel c x).gauges.tick = s.gauges.tick := rfl

@[simp] theorem State.setEgress_keepAlive (q : List EgressRecord) : (s.setEgress q).keepAlive = s.keepAlive := rfl
@[simp] theorem State.setEgress_resetHeld (q : List EgressRecord) : (s.setEgress q).resetHeld = s.resetHeld := rfl
@[simp] theorem State.setEgress_rawIgnition (q : List EgressRecord) : (s.setEgress q).rawIgnition = s.rawIgnition := rfl
@[simp] theorem State.setEgress_time (q : List EgressRecord) : (s.setEgress q).time = s.time := rfl
@[simp] theorem State.setEgress_tables (q : List EgressRecord) : (s.setEgress q).tables = s.tables := rfl
@[simp] theorem State.setEgress_intake (q : List EgressRecord) : (s.setEgress q).intake = s.intake := rfl
@[simp] theorem State.setEgress_store (q : List EgressRecord) : (s.setEgress q).store = s.store := rfl
@[simp] theorem State.setEgress_speed (q : List EgressRecord) : (s.setEgress q).speed = s.speed := rfl
@[simp] theorem State.setEgress_gauges (q : List EgressRecord) : (s.setEgress q).gauges = s.gauges := rfl
@[simp] theorem State.setEgress_telltales (q : List EgressRecord) : (s.setEgress q).telltales = s.telltales := rfl
@[simp] theorem State.setEgress_messages (q : List EgressRecord) : (s.setEgress q).messages = s.messages := rfl
@[simp] theorem State.setEgress_crew (q : List EgressRecord) : (s.setEgress q).crew = s.crew := rfl
@[simp] theorem State.setEgress_faults (q : List EgressRecord) : (s.setEgress q).faults = s.faults := rfl
@[simp] theorem State.setEgress_portB (q : List EgressRecord) : (s.setEgress q).portB = s.portB := rfl
@[simp] theorem State.setEgress_choices (q : List EgressRecord) : (s.setEgress q).choices = s.choices := rfl
@[simp] theorem State.setEgress_pending (q : List EgressRecord) : (s.setEgress q).pending = s.pending := rfl
@[simp] theorem State.setEgress_link_egress (q : List EgressRecord) : (s.setEgress q).link.egress = q := rfl
@[simp] theorem State.setEgress_link_sent (q : List EgressRecord) : (s.setEgress q).link.sent = s.link.sent := rfl

@[simp] theorem State.setSent_keepAlive (l : List Byte) : (s.setSent l).keepAlive = s.keepAlive := rfl
@[simp] theorem State.setSent_resetHeld (l : List Byte) : (s.setSent l).resetHeld = s.resetHeld := rfl
@[simp] theorem State.setSent_rawIgnition (l : List Byte) : (s.setSent l).rawIgnition = s.rawIgnition := rfl
@[simp] theorem State.setSent_time (l : List Byte) : (s.setSent l).time = s.time := rfl
@[simp] theorem State.setSent_tables (l : List Byte) : (s.setSent l).tables = s.tables := rfl
@[simp] theorem State.setSent_intake (l : List Byte) : (s.setSent l).intake = s.intake := rfl
@[simp] theorem State.setSent_store (l : List Byte) : (s.setSent l).store = s.store := rfl
@[simp] theorem State.setSent_speed (l : List Byte) : (s.setSent l).speed = s.speed := rfl
@[simp] theorem State.setSent_gauges (l : List Byte) : (s.setSent l).gauges = s.gauges := rfl
@[simp] theorem State.setSent_telltales (l : List Byte) : (s.setSent l).telltales = s.telltales := rfl
@[simp] theorem State.setSent_messages (l : List Byte) : (s.setSent l).messages = s.messages := rfl
@[simp] theorem State.setSent_crew (l : List Byte) : (s.setSent l).crew = s.crew := rfl
@[simp] theorem State.setSent_faults (l : List Byte) : (s.setSent l).faults = s.faults := rfl
@[simp] theorem State.setSent_portB (l : List Byte) : (s.setSent l).portB = s.portB := rfl
@[simp] theorem State.setSent_choices (l : List Byte) : (s.setSent l).choices = s.choices := rfl
@[simp] theorem State.setSent_pending (l : List Byte) : (s.setSent l).pending = s.pending := rfl
@[simp] theorem State.setSent_link_egress (l : List Byte) : (s.setSent l).link.egress = s.link.egress := rfl
@[simp] theorem State.setSent_link_sent (l : List Byte) : (s.setSent l).link.sent = some l := rfl

@[simp] theorem State.setArbiter_keepAlive (a : Arbiter) : (s.setArbiter a).keepAlive = s.keepAlive := rfl
@[simp] theorem State.setArbiter_resetHeld (a : Arbiter) : (s.setArbiter a).resetHeld = s.resetHeld := rfl
@[simp] theorem State.setArbiter_rawIgnition (a : Arbiter) : (s.setArbiter a).rawIgnition = s.rawIgnition := rfl
@[simp] theorem State.setArbiter_time (a : Arbiter) : (s.setArbiter a).time = s.time := rfl
@[simp] theorem State.setArbiter_tables (a : Arbiter) : (s.setArbiter a).tables = s.tables := rfl
@[simp] theorem State.setArbiter_intake (a : Arbiter) : (s.setArbiter a).intake = s.intake := rfl
@[simp] theorem State.setArbiter_store (a : Arbiter) : (s.setArbiter a).store = s.store := rfl
@[simp] theorem State.setArbiter_speed (a : Arbiter) : (s.setArbiter a).speed = s.speed := rfl
@[simp] theorem State.setArbiter_gauges (a : Arbiter) : (s.setArbiter a).gauges = s.gauges := rfl
@[simp] theorem State.setArbiter_telltales (a : Arbiter) : (s.setArbiter a).telltales = s.telltales := rfl
@[simp] theorem State.setArbiter_crew (a : Arbiter) : (s.setArbiter a).crew = s.crew := rfl
@[simp] theorem State.setArbiter_faults (a : Arbiter) : (s.setArbiter a).faults = s.faults := rfl
@[simp] theorem State.setArbiter_link (a : Arbiter) : (s.setArbiter a).link = s.link := rfl
@[simp] theorem State.setArbiter_portB (a : Arbiter) : (s.setArbiter a).portB = s.portB := rfl
@[simp] theorem State.setArbiter_choices (a : Arbiter) : (s.setArbiter a).choices = s.choices := rfl
@[simp] theorem State.setArbiter_pending (a : Arbiter) : (s.setArbiter a).pending = s.pending := rfl
@[simp] theorem State.setArbiter_messages_current (a : Arbiter) : (s.setArbiter a).messages.current = s.messages.current := rfl
@[simp] theorem State.setArbiter_messages_stack (a : Arbiter) : (s.setArbiter a).messages.stack = s.messages.stack := rfl
@[simp] theorem State.setArbiter_messages_ring (a : Arbiter) : (s.setArbiter a).messages.ring = s.messages.ring := rfl
@[simp] theorem State.setArbiter_messages_lastSeen (a : Arbiter) : (s.setArbiter a).messages.lastSeen = s.messages.lastSeen := rfl
@[simp] theorem State.setArbiter_messages_requests (a : Arbiter) : (s.setArbiter a).messages.requests = s.messages.requests := rfl
@[simp] theorem State.setArbiter_messages_arbiter (a : Arbiter) : (s.setArbiter a).messages.arbiter = a := rfl
@[simp] theorem State.setArbiter_messages_load (a : Arbiter) : (s.setArbiter a).messages.load = s.messages.load := rfl

@[simp] theorem State.setRequest_keepAlive (i : Fin 64) (r : Option ChimeRequest) : (s.setRequest i r).keepAlive = s.keepAlive := rfl
@[simp] theorem State.setRequest_resetHeld (i : Fin 64) (r : Option ChimeRequest) : (s.setRequest i r).resetHeld = s.resetHeld := rfl
@[simp] theorem State.setRequest_rawIgnition (i : Fin 64) (r : Option ChimeRequest) : (s.setRequest i r).rawIgnition = s.rawIgnition := rfl
@[simp] theorem State.setRequest_time (i : Fin 64) (r : Option ChimeRequest) : (s.setRequest i r).time = s.time := rfl
@[simp] theorem State.setRequest_tables (i : Fin 64) (r : Option ChimeRequest) : (s.setRequest i r).tables = s.tables := rfl
@[simp] theorem State.setRequest_intake (i : Fin 64) (r : Option ChimeRequest) : (s.setRequest i r).intake = s.intake := rfl
@[simp] theorem State.setRequest_store (i : Fin 64) (r : Option ChimeRequest) : (s.setRequest i r).store = s.store := rfl
@[simp] theorem State.setRequest_speed (i : Fin 64) (r : Option ChimeRequest) : (s.setRequest i r).speed = s.speed := rfl
@[simp] theorem State.setRequest_gauges (i : Fin 64) (r : Option ChimeRequest) : (s.setRequest i r).gauges = s.gauges := rfl
@[simp] theorem State.setRequest_telltales (i : Fin 64) (r : Option ChimeRequest) : (s.setRequest i r).telltales = s.telltales := rfl
@[simp] theorem State.setRequest_crew (i : Fin 64) (r : Option ChimeRequest) : (s.setRequest i r).crew = s.crew := rfl
@[simp] theorem State.setRequest_faults (i : Fin 64) (r : Option ChimeRequest) : (s.setRequest i r).faults = s.faults := rfl
@[simp] theorem State.setRequest_link (i : Fin 64) (r : Option ChimeRequest) : (s.setRequest i r).link = s.link := rfl
@[simp] theorem State.setRequest_portB (i : Fin 64) (r : Option ChimeRequest) : (s.setRequest i r).portB = s.portB := rfl
@[simp] theorem State.setRequest_choices (i : Fin 64) (r : Option ChimeRequest) : (s.setRequest i r).choices = s.choices := rfl
@[simp] theorem State.setRequest_pending (i : Fin 64) (r : Option ChimeRequest) : (s.setRequest i r).pending = s.pending := rfl
@[simp] theorem State.setRequest_messages_current (i : Fin 64) (r : Option ChimeRequest) : (s.setRequest i r).messages.current = s.messages.current := rfl
@[simp] theorem State.setRequest_messages_stack (i : Fin 64) (r : Option ChimeRequest) : (s.setRequest i r).messages.stack = s.messages.stack := rfl
@[simp] theorem State.setRequest_messages_ring (i : Fin 64) (r : Option ChimeRequest) : (s.setRequest i r).messages.ring = s.messages.ring := rfl
@[simp] theorem State.setRequest_messages_lastSeen (i : Fin 64) (r : Option ChimeRequest) : (s.setRequest i r).messages.lastSeen = s.messages.lastSeen := rfl
@[simp] theorem State.setRequest_messages_requests (i : Fin 64) (r : Option ChimeRequest) : (s.setRequest i r).messages.requests = s.messages.requests.set i r := rfl
@[simp] theorem State.setRequest_messages_arbiter (i : Fin 64) (r : Option ChimeRequest) : (s.setRequest i r).messages.arbiter = s.messages.arbiter := rfl
@[simp] theorem State.setRequest_messages_load (i : Fin 64) (r : Option ChimeRequest) : (s.setRequest i r).messages.load = s.messages.load := rfl

@[simp] theorem State.setLoad_keepAlive (l : LoadState) : (s.setLoad l).keepAlive = s.keepAlive := rfl
@[simp] theorem State.setLoad_resetHeld (l : LoadState) : (s.setLoad l).resetHeld = s.resetHeld := rfl
@[simp] theorem State.setLoad_rawIgnition (l : LoadState) : (s.setLoad l).rawIgnition = s.rawIgnition := rfl
@[simp] theorem State.setLoad_time (l : LoadState) : (s.setLoad l).time = s.time := rfl
@[simp] theorem State.setLoad_tables (l : LoadState) : (s.setLoad l).tables = s.tables := rfl
@[simp] theorem State.setLoad_intake (l : LoadState) : (s.setLoad l).intake = s.intake := rfl
@[simp] theorem State.setLoad_store (l : LoadState) : (s.setLoad l).store = s.store := rfl
@[simp] theorem State.setLoad_speed (l : LoadState) : (s.setLoad l).speed = s.speed := rfl
@[simp] theorem State.setLoad_gauges (l : LoadState) : (s.setLoad l).gauges = s.gauges := rfl
@[simp] theorem State.setLoad_telltales (l : LoadState) : (s.setLoad l).telltales = s.telltales := rfl
@[simp] theorem State.setLoad_crew (l : LoadState) : (s.setLoad l).crew = s.crew := rfl
@[simp] theorem State.setLoad_faults (l : LoadState) : (s.setLoad l).faults = s.faults := rfl
@[simp] theorem State.setLoad_link (l : LoadState) : (s.setLoad l).link = s.link := rfl
@[simp] theorem State.setLoad_portB (l : LoadState) : (s.setLoad l).portB = s.portB := rfl
@[simp] theorem State.setLoad_choices (l : LoadState) : (s.setLoad l).choices = s.choices := rfl
@[simp] theorem State.setLoad_pending (l : LoadState) : (s.setLoad l).pending = s.pending := rfl
@[simp] theorem State.setLoad_messages_current (l : LoadState) : (s.setLoad l).messages.current = s.messages.current := rfl
@[simp] theorem State.setLoad_messages_stack (l : LoadState) : (s.setLoad l).messages.stack = s.messages.stack := rfl
@[simp] theorem State.setLoad_messages_ring (l : LoadState) : (s.setLoad l).messages.ring = s.messages.ring := rfl
@[simp] theorem State.setLoad_messages_lastSeen (l : LoadState) : (s.setLoad l).messages.lastSeen = s.messages.lastSeen := rfl
@[simp] theorem State.setLoad_messages_requests (l : LoadState) : (s.setLoad l).messages.requests = s.messages.requests := rfl
@[simp] theorem State.setLoad_messages_arbiter (l : LoadState) : (s.setLoad l).messages.arbiter = s.messages.arbiter := rfl
@[simp] theorem State.setLoad_messages_load (l : LoadState) : (s.setLoad l).messages.load = l := rfl

@[simp] theorem State.resetDetector_keepAlive : (s.resetDetector).keepAlive = s.keepAlive := rfl
@[simp] theorem State.resetDetector_resetHeld : (s.resetDetector).resetHeld = s.resetHeld := rfl
@[simp] theorem State.resetDetector_rawIgnition : (s.resetDetector).rawIgnition = s.rawIgnition := rfl
@[simp] theorem State.resetDetector_time : (s.resetDetector).time = s.time := rfl
@[simp] theorem State.resetDetector_tables : (s.resetDetector).tables = s.tables := rfl
@[simp] theorem State.resetDetector_intake : (s.resetDetector).intake = s.intake := rfl
@[simp] theorem State.resetDetector_store : (s.resetDetector).store = s.store := rfl
@[simp] theorem State.resetDetector_speed : (s.resetDetector).speed = s.speed := rfl
@[simp] theorem State.resetDetector_gauges : (s.resetDetector).gauges = s.gauges := rfl
@[simp] theorem State.resetDetector_telltales : (s.resetDetector).telltales = s.telltales := rfl
@[simp] theorem State.resetDetector_crew : (s.resetDetector).crew = s.crew := rfl
@[simp] theorem State.resetDetector_faults : (s.resetDetector).faults = s.faults := rfl
@[simp] theorem State.resetDetector_link : (s.resetDetector).link = s.link := rfl
@[simp] theorem State.resetDetector_portB : (s.resetDetector).portB = s.portB := rfl
@[simp] theorem State.resetDetector_choices : (s.resetDetector).choices = s.choices := rfl
@[simp] theorem State.resetDetector_pending : (s.resetDetector).pending = s.pending := rfl
@[simp] theorem State.resetDetector_messages_current : (s.resetDetector).messages.current = s.messages.current := rfl
@[simp] theorem State.resetDetector_messages_stack : (s.resetDetector).messages.stack = s.messages.stack := rfl
@[simp] theorem State.resetDetector_messages_ring : (s.resetDetector).messages.ring = s.messages.ring := rfl
@[simp] theorem State.resetDetector_messages_lastSeen : (s.resetDetector).messages.lastSeen = .none := rfl
@[simp] theorem State.resetDetector_messages_requests : (s.resetDetector).messages.requests = s.messages.requests := rfl
@[simp] theorem State.resetDetector_messages_arbiter : (s.resetDetector).messages.arbiter = s.messages.arbiter := rfl
@[simp] theorem State.resetDetector_messages_load : (s.resetDetector).messages.load = s.messages.load := rfl

@[simp] theorem State.setHeld_keepAlive (i : Fin 64) (h : Held) : (s.setHeld i h).keepAlive = s.keepAlive := rfl
@[simp] theorem State.setHeld_resetHeld (i : Fin 64) (h : Held) : (s.setHeld i h).resetHeld = s.resetHeld := rfl
@[simp] theorem State.setHeld_rawIgnition (i : Fin 64) (h : Held) : (s.setHeld i h).rawIgnition = s.rawIgnition := rfl
@[simp] theorem State.setHeld_time (i : Fin 64) (h : Held) : (s.setHeld i h).time = s.time := rfl
@[simp] theorem State.setHeld_tables (i : Fin 64) (h : Held) : (s.setHeld i h).tables = s.tables := rfl
@[simp] theorem State.setHeld_intake (i : Fin 64) (h : Held) : (s.setHeld i h).intake = s.intake := rfl
@[simp] theorem State.setHeld_store (i : Fin 64) (h : Held) : (s.setHeld i h).store = s.store := rfl
@[simp] theorem State.setHeld_speed (i : Fin 64) (h : Held) : (s.setHeld i h).speed = s.speed := rfl
@[simp] theorem State.setHeld_gauges (i : Fin 64) (h : Held) : (s.setHeld i h).gauges = s.gauges := rfl
@[simp] theorem State.setHeld_messages (i : Fin 64) (h : Held) : (s.setHeld i h).messages = s.messages := rfl
@[simp] theorem State.setHeld_crew (i : Fin 64) (h : Held) : (s.setHeld i h).crew = s.crew := rfl
@[simp] theorem State.setHeld_faults (i : Fin 64) (h : Held) : (s.setHeld i h).faults = s.faults := rfl
@[simp] theorem State.setHeld_link (i : Fin 64) (h : Held) : (s.setHeld i h).link = s.link := rfl
@[simp] theorem State.setHeld_portB (i : Fin 64) (h : Held) : (s.setHeld i h).portB = s.portB := rfl
@[simp] theorem State.setHeld_choices (i : Fin 64) (h : Held) : (s.setHeld i h).choices = s.choices := rfl
@[simp] theorem State.setHeld_pending (i : Fin 64) (h : Held) : (s.setHeld i h).pending = s.pending := rfl
@[simp] theorem State.setHeld_telltales_records (i : Fin 64) (h : Held) : (s.setHeld i h).telltales.records = s.telltales.records.set i { s.telltales.records[i] with held := h } := rfl
@[simp] theorem State.setHeld_telltales_lamps (i : Fin 64) (h : Held) : (s.setHeld i h).telltales.lamps = s.telltales.lamps := rfl
@[simp] theorem State.setHeld_telltales_bulbCheck (i : Fin 64) (h : Held) : (s.setHeld i h).telltales.bulbCheck = s.telltales.bulbCheck := rfl

@[simp] theorem State.setCondition_keepAlive (i : Fin 64) (c : Bool) : (s.setCondition i c).keepAlive = s.keepAlive := rfl
@[simp] theorem State.setCondition_resetHeld (i : Fin 64) (c : Bool) : (s.setCondition i c).resetHeld = s.resetHeld := rfl
@[simp] theorem State.setCondition_rawIgnition (i : Fin 64) (c : Bool) : (s.setCondition i c).rawIgnition = s.rawIgnition := rfl
@[simp] theorem State.setCondition_time (i : Fin 64) (c : Bool) : (s.setCondition i c).time = s.time := rfl
@[simp] theorem State.setCondition_tables (i : Fin 64) (c : Bool) : (s.setCondition i c).tables = s.tables := rfl
@[simp] theorem State.setCondition_intake (i : Fin 64) (c : Bool) : (s.setCondition i c).intake = s.intake := rfl
@[simp] theorem State.setCondition_store (i : Fin 64) (c : Bool) : (s.setCondition i c).store = s.store := rfl
@[simp] theorem State.setCondition_speed (i : Fin 64) (c : Bool) : (s.setCondition i c).speed = s.speed := rfl
@[simp] theorem State.setCondition_gauges (i : Fin 64) (c : Bool) : (s.setCondition i c).gauges = s.gauges := rfl
@[simp] theorem State.setCondition_messages (i : Fin 64) (c : Bool) : (s.setCondition i c).messages = s.messages := rfl
@[simp] theorem State.setCondition_crew (i : Fin 64) (c : Bool) : (s.setCondition i c).crew = s.crew := rfl
@[simp] theorem State.setCondition_faults (i : Fin 64) (c : Bool) : (s.setCondition i c).faults = s.faults := rfl
@[simp] theorem State.setCondition_link (i : Fin 64) (c : Bool) : (s.setCondition i c).link = s.link := rfl
@[simp] theorem State.setCondition_portB (i : Fin 64) (c : Bool) : (s.setCondition i c).portB = s.portB := rfl
@[simp] theorem State.setCondition_choices (i : Fin 64) (c : Bool) : (s.setCondition i c).choices = s.choices := rfl
@[simp] theorem State.setCondition_pending (i : Fin 64) (c : Bool) : (s.setCondition i c).pending = s.pending := rfl
@[simp] theorem State.setCondition_telltales_records (i : Fin 64) (c : Bool) : (s.setCondition i c).telltales.records = s.telltales.records.set i { s.telltales.records[i] with condition := c } := rfl
@[simp] theorem State.setCondition_telltales_lamps (i : Fin 64) (c : Bool) : (s.setCondition i c).telltales.lamps = s.telltales.lamps := rfl
@[simp] theorem State.setCondition_telltales_bulbCheck (i : Fin 64) (c : Bool) : (s.setCondition i c).telltales.bulbCheck = s.telltales.bulbCheck := rfl

@[simp] theorem State.setBulbCheck_keepAlive (t : Timer) : (s.setBulbCheck t).keepAlive = s.keepAlive := rfl
@[simp] theorem State.setBulbCheck_resetHeld (t : Timer) : (s.setBulbCheck t).resetHeld = s.resetHeld := rfl
@[simp] theorem State.setBulbCheck_rawIgnition (t : Timer) : (s.setBulbCheck t).rawIgnition = s.rawIgnition := rfl
@[simp] theorem State.setBulbCheck_time (t : Timer) : (s.setBulbCheck t).time = s.time := rfl
@[simp] theorem State.setBulbCheck_tables (t : Timer) : (s.setBulbCheck t).tables = s.tables := rfl
@[simp] theorem State.setBulbCheck_intake (t : Timer) : (s.setBulbCheck t).intake = s.intake := rfl
@[simp] theorem State.setBulbCheck_store (t : Timer) : (s.setBulbCheck t).store = s.store := rfl
@[simp] theorem State.setBulbCheck_speed (t : Timer) : (s.setBulbCheck t).speed = s.speed := rfl
@[simp] theorem State.setBulbCheck_gauges (t : Timer) : (s.setBulbCheck t).gauges = s.gauges := rfl
@[simp] theorem State.setBulbCheck_messages (t : Timer) : (s.setBulbCheck t).messages = s.messages := rfl
@[simp] theorem State.setBulbCheck_crew (t : Timer) : (s.setBulbCheck t).crew = s.crew := rfl
@[simp] theorem State.setBulbCheck_faults (t : Timer) : (s.setBulbCheck t).faults = s.faults := rfl
@[simp] theorem State.setBulbCheck_link (t : Timer) : (s.setBulbCheck t).link = s.link := rfl
@[simp] theorem State.setBulbCheck_portB (t : Timer) : (s.setBulbCheck t).portB = s.portB := rfl
@[simp] theorem State.setBulbCheck_choices (t : Timer) : (s.setBulbCheck t).choices = s.choices := rfl
@[simp] theorem State.setBulbCheck_pending (t : Timer) : (s.setBulbCheck t).pending = s.pending := rfl
@[simp] theorem State.setBulbCheck_telltales_records (t : Timer) : (s.setBulbCheck t).telltales.records = s.telltales.records := rfl
@[simp] theorem State.setBulbCheck_telltales_lamps (t : Timer) : (s.setBulbCheck t).telltales.lamps = s.telltales.lamps := rfl
@[simp] theorem State.setBulbCheck_telltales_bulbCheck (t : Timer) : (s.setBulbCheck t).telltales.bulbCheck = t := rfl

@[simp] theorem State.setFilterTick_keepAlive (t : Timer) : (s.setFilterTick t).keepAlive = s.keepAlive := rfl
@[simp] theorem State.setFilterTick_resetHeld (t : Timer) : (s.setFilterTick t).resetHeld = s.resetHeld := rfl
@[simp] theorem State.setFilterTick_rawIgnition (t : Timer) : (s.setFilterTick t).rawIgnition = s.rawIgnition := rfl
@[simp] theorem State.setFilterTick_time (t : Timer) : (s.setFilterTick t).time = s.time := rfl
@[simp] theorem State.setFilterTick_tables (t : Timer) : (s.setFilterTick t).tables = s.tables := rfl
@[simp] theorem State.setFilterTick_intake (t : Timer) : (s.setFilterTick t).intake = s.intake := rfl
@[simp] theorem State.setFilterTick_store (t : Timer) : (s.setFilterTick t).store = s.store := rfl
@[simp] theorem State.setFilterTick_speed (t : Timer) : (s.setFilterTick t).speed = s.speed := rfl
@[simp] theorem State.setFilterTick_telltales (t : Timer) : (s.setFilterTick t).telltales = s.telltales := rfl
@[simp] theorem State.setFilterTick_messages (t : Timer) : (s.setFilterTick t).messages = s.messages := rfl
@[simp] theorem State.setFilterTick_crew (t : Timer) : (s.setFilterTick t).crew = s.crew := rfl
@[simp] theorem State.setFilterTick_faults (t : Timer) : (s.setFilterTick t).faults = s.faults := rfl
@[simp] theorem State.setFilterTick_link (t : Timer) : (s.setFilterTick t).link = s.link := rfl
@[simp] theorem State.setFilterTick_portB (t : Timer) : (s.setFilterTick t).portB = s.portB := rfl
@[simp] theorem State.setFilterTick_choices (t : Timer) : (s.setFilterTick t).choices = s.choices := rfl
@[simp] theorem State.setFilterTick_pending (t : Timer) : (s.setFilterTick t).pending = s.pending := rfl
@[simp] theorem State.setFilterTick_gauges_channels (t : Timer) : (s.setFilterTick t).gauges.channels = s.gauges.channels := rfl
@[simp] theorem State.setFilterTick_gauges_tick (t : Timer) : (s.setFilterTick t).gauges.tick = t := rfl

@[simp] theorem State.setPlausibility_keepAlive (t : Timer) : (s.setPlausibility t).keepAlive = s.keepAlive := rfl
@[simp] theorem State.setPlausibility_resetHeld (t : Timer) : (s.setPlausibility t).resetHeld = s.resetHeld := rfl
@[simp] theorem State.setPlausibility_rawIgnition (t : Timer) : (s.setPlausibility t).rawIgnition = s.rawIgnition := rfl
@[simp] theorem State.setPlausibility_time (t : Timer) : (s.setPlausibility t).time = s.time := rfl
@[simp] theorem State.setPlausibility_tables (t : Timer) : (s.setPlausibility t).tables = s.tables := rfl
@[simp] theorem State.setPlausibility_intake (t : Timer) : (s.setPlausibility t).intake = s.intake := rfl
@[simp] theorem State.setPlausibility_store (t : Timer) : (s.setPlausibility t).store = s.store := rfl
@[simp] theorem State.setPlausibility_gauges (t : Timer) : (s.setPlausibility t).gauges = s.gauges := rfl
@[simp] theorem State.setPlausibility_telltales (t : Timer) : (s.setPlausibility t).telltales = s.telltales := rfl
@[simp] theorem State.setPlausibility_messages (t : Timer) : (s.setPlausibility t).messages = s.messages := rfl
@[simp] theorem State.setPlausibility_crew (t : Timer) : (s.setPlausibility t).crew = s.crew := rfl
@[simp] theorem State.setPlausibility_faults (t : Timer) : (s.setPlausibility t).faults = s.faults := rfl
@[simp] theorem State.setPlausibility_link (t : Timer) : (s.setPlausibility t).link = s.link := rfl
@[simp] theorem State.setPlausibility_portB (t : Timer) : (s.setPlausibility t).portB = s.portB := rfl
@[simp] theorem State.setPlausibility_choices (t : Timer) : (s.setPlausibility t).choices = s.choices := rfl
@[simp] theorem State.setPlausibility_pending (t : Timer) : (s.setPlausibility t).pending = s.pending := rfl
@[simp] theorem State.setPlausibility_speed_ring (t : Timer) : (s.setPlausibility t).speed.ring = s.speed.ring := rfl
@[simp] theorem State.setPlausibility_speed_state (t : Timer) : (s.setPlausibility t).speed.state = s.speed.state := rfl
@[simp] theorem State.setPlausibility_speed_selection (t : Timer) : (s.setPlausibility t).speed.selection = s.speed.selection := rfl
@[simp] theorem State.setPlausibility_speed_tick (t : Timer) : (s.setPlausibility t).speed.tick = t := rfl

@[simp] theorem State.setSelection_keepAlive (x : Selection) : (s.setSelection x).keepAlive = s.keepAlive := rfl
@[simp] theorem State.setSelection_resetHeld (x : Selection) : (s.setSelection x).resetHeld = s.resetHeld := rfl
@[simp] theorem State.setSelection_rawIgnition (x : Selection) : (s.setSelection x).rawIgnition = s.rawIgnition := rfl
@[simp] theorem State.setSelection_time (x : Selection) : (s.setSelection x).time = s.time := rfl
@[simp] theorem State.setSelection_tables (x : Selection) : (s.setSelection x).tables = s.tables := rfl
@[simp] theorem State.setSelection_intake (x : Selection) : (s.setSelection x).intake = s.intake := rfl
@[simp] theorem State.setSelection_store (x : Selection) : (s.setSelection x).store = s.store := rfl
@[simp] theorem State.setSelection_gauges (x : Selection) : (s.setSelection x).gauges = s.gauges := rfl
@[simp] theorem State.setSelection_telltales (x : Selection) : (s.setSelection x).telltales = s.telltales := rfl
@[simp] theorem State.setSelection_messages (x : Selection) : (s.setSelection x).messages = s.messages := rfl
@[simp] theorem State.setSelection_crew (x : Selection) : (s.setSelection x).crew = s.crew := rfl
@[simp] theorem State.setSelection_faults (x : Selection) : (s.setSelection x).faults = s.faults := rfl
@[simp] theorem State.setSelection_link (x : Selection) : (s.setSelection x).link = s.link := rfl
@[simp] theorem State.setSelection_portB (x : Selection) : (s.setSelection x).portB = s.portB := rfl
@[simp] theorem State.setSelection_choices (x : Selection) : (s.setSelection x).choices = s.choices := rfl
@[simp] theorem State.setSelection_pending (x : Selection) : (s.setSelection x).pending = s.pending := rfl
@[simp] theorem State.setSelection_speed_ring (x : Selection) : (s.setSelection x).speed.ring = s.speed.ring := rfl
@[simp] theorem State.setSelection_speed_state (x : Selection) : (s.setSelection x).speed.state = s.speed.state := rfl
@[simp] theorem State.setSelection_speed_selection (x : Selection) : (s.setSelection x).speed.selection = x := rfl
@[simp] theorem State.setSelection_speed_tick (x : Selection) : (s.setSelection x).speed.tick = s.speed.tick := rfl

@[simp] theorem State.setRing_keepAlive (r : PairRing) (a : ArbitrationState) : (s.setRing r a).keepAlive = s.keepAlive := rfl
@[simp] theorem State.setRing_resetHeld (r : PairRing) (a : ArbitrationState) : (s.setRing r a).resetHeld = s.resetHeld := rfl
@[simp] theorem State.setRing_rawIgnition (r : PairRing) (a : ArbitrationState) : (s.setRing r a).rawIgnition = s.rawIgnition := rfl
@[simp] theorem State.setRing_time (r : PairRing) (a : ArbitrationState) : (s.setRing r a).time = s.time := rfl
@[simp] theorem State.setRing_tables (r : PairRing) (a : ArbitrationState) : (s.setRing r a).tables = s.tables := rfl
@[simp] theorem State.setRing_intake (r : PairRing) (a : ArbitrationState) : (s.setRing r a).intake = s.intake := rfl
@[simp] theorem State.setRing_store (r : PairRing) (a : ArbitrationState) : (s.setRing r a).store = s.store := rfl
@[simp] theorem State.setRing_gauges (r : PairRing) (a : ArbitrationState) : (s.setRing r a).gauges = s.gauges := rfl
@[simp] theorem State.setRing_telltales (r : PairRing) (a : ArbitrationState) : (s.setRing r a).telltales = s.telltales := rfl
@[simp] theorem State.setRing_messages (r : PairRing) (a : ArbitrationState) : (s.setRing r a).messages = s.messages := rfl
@[simp] theorem State.setRing_crew (r : PairRing) (a : ArbitrationState) : (s.setRing r a).crew = s.crew := rfl
@[simp] theorem State.setRing_faults (r : PairRing) (a : ArbitrationState) : (s.setRing r a).faults = s.faults := rfl
@[simp] theorem State.setRing_link (r : PairRing) (a : ArbitrationState) : (s.setRing r a).link = s.link := rfl
@[simp] theorem State.setRing_portB (r : PairRing) (a : ArbitrationState) : (s.setRing r a).portB = s.portB := rfl
@[simp] theorem State.setRing_choices (r : PairRing) (a : ArbitrationState) : (s.setRing r a).choices = s.choices := rfl
@[simp] theorem State.setRing_pending (r : PairRing) (a : ArbitrationState) : (s.setRing r a).pending = s.pending := rfl
@[simp] theorem State.setRing_speed_ring (r : PairRing) (a : ArbitrationState) : (s.setRing r a).speed.ring = r := rfl
@[simp] theorem State.setRing_speed_state (r : PairRing) (a : ArbitrationState) : (s.setRing r a).speed.state = a := rfl
@[simp] theorem State.setRing_speed_selection (r : PairRing) (a : ArbitrationState) : (s.setRing r a).speed.selection = s.speed.selection := rfl
@[simp] theorem State.setRing_speed_tick (r : PairRing) (a : ArbitrationState) : (s.setRing r a).speed.tick = s.speed.tick := rfl

@[simp] theorem State.setSnapshotCounter_keepAlive (n : Nat) : (s.setSnapshotCounter n).keepAlive = s.keepAlive := rfl
@[simp] theorem State.setSnapshotCounter_resetHeld (n : Nat) : (s.setSnapshotCounter n).resetHeld = s.resetHeld := rfl
@[simp] theorem State.setSnapshotCounter_rawIgnition (n : Nat) : (s.setSnapshotCounter n).rawIgnition = s.rawIgnition := rfl
@[simp] theorem State.setSnapshotCounter_time (n : Nat) : (s.setSnapshotCounter n).time = s.time := rfl
@[simp] theorem State.setSnapshotCounter_tables (n : Nat) : (s.setSnapshotCounter n).tables = s.tables := rfl
@[simp] theorem State.setSnapshotCounter_intake (n : Nat) : (s.setSnapshotCounter n).intake = s.intake := rfl
@[simp] theorem State.setSnapshotCounter_store (n : Nat) : (s.setSnapshotCounter n).store = s.store := rfl
@[simp] theorem State.setSnapshotCounter_speed (n : Nat) : (s.setSnapshotCounter n).speed = s.speed := rfl
@[simp] theorem State.setSnapshotCounter_gauges (n : Nat) : (s.setSnapshotCounter n).gauges = s.gauges := rfl
@[simp] theorem State.setSnapshotCounter_telltales (n : Nat) : (s.setSnapshotCounter n).telltales = s.telltales := rfl
@[simp] theorem State.setSnapshotCounter_messages (n : Nat) : (s.setSnapshotCounter n).messages = s.messages := rfl
@[simp] theorem State.setSnapshotCounter_faults (n : Nat) : (s.setSnapshotCounter n).faults = s.faults := rfl
@[simp] theorem State.setSnapshotCounter_link (n : Nat) : (s.setSnapshotCounter n).link = s.link := rfl
@[simp] theorem State.setSnapshotCounter_portB (n : Nat) : (s.setSnapshotCounter n).portB = s.portB := rfl
@[simp] theorem State.setSnapshotCounter_choices (n : Nat) : (s.setSnapshotCounter n).choices = s.choices := rfl
@[simp] theorem State.setSnapshotCounter_pending (n : Nat) : (s.setSnapshotCounter n).pending = s.pending := rfl
@[simp] theorem State.setSnapshotCounter_crew_places (n : Nat) : (s.setSnapshotCounter n).crew.places = s.crew.places := rfl
@[simp] theorem State.setSnapshotCounter_crew_snapshotCounter (n : Nat) : (s.setSnapshotCounter n).crew.snapshotCounter = n := rfl

@[simp] theorem State.setReplies_keepAlive (q : List QueuedReply) : (s.setReplies q).keepAlive = s.keepAlive := rfl
@[simp] theorem State.setReplies_resetHeld (q : List QueuedReply) : (s.setReplies q).resetHeld = s.resetHeld := rfl
@[simp] theorem State.setReplies_rawIgnition (q : List QueuedReply) : (s.setReplies q).rawIgnition = s.rawIgnition := rfl
@[simp] theorem State.setReplies_time (q : List QueuedReply) : (s.setReplies q).time = s.time := rfl
@[simp] theorem State.setReplies_tables (q : List QueuedReply) : (s.setReplies q).tables = s.tables := rfl
@[simp] theorem State.setReplies_intake (q : List QueuedReply) : (s.setReplies q).intake = s.intake := rfl
@[simp] theorem State.setReplies_store (q : List QueuedReply) : (s.setReplies q).store = s.store := rfl
@[simp] theorem State.setReplies_speed (q : List QueuedReply) : (s.setReplies q).speed = s.speed := rfl
@[simp] theorem State.setReplies_gauges (q : List QueuedReply) : (s.setReplies q).gauges = s.gauges := rfl
@[simp] theorem State.setReplies_telltales (q : List QueuedReply) : (s.setReplies q).telltales = s.telltales := rfl
@[simp] theorem State.setReplies_messages (q : List QueuedReply) : (s.setReplies q).messages = s.messages := rfl
@[simp] theorem State.setReplies_crew (q : List QueuedReply) : (s.setReplies q).crew = s.crew := rfl
@[simp] theorem State.setReplies_faults (q : List QueuedReply) : (s.setReplies q).faults = s.faults := rfl
@[simp] theorem State.setReplies_link (q : List QueuedReply) : (s.setReplies q).link = s.link := rfl
@[simp] theorem State.setReplies_choices (q : List QueuedReply) : (s.setReplies q).choices = s.choices := rfl
@[simp] theorem State.setReplies_pending (q : List QueuedReply) : (s.setReplies q).pending = s.pending := rfl
@[simp] theorem State.setReplies_portB_queue (q : List QueuedReply) : (s.setReplies q).portB.queue = q := rfl
@[simp] theorem State.setReplies_portB_transmit (q : List QueuedReply) : (s.setReplies q).portB.transmit = s.portB.transmit := rfl

@[simp] theorem State.setTransmit_keepAlive (t : PortTransmit) : (s.setTransmit t).keepAlive = s.keepAlive := rfl
@[simp] theorem State.setTransmit_resetHeld (t : PortTransmit) : (s.setTransmit t).resetHeld = s.resetHeld := rfl
@[simp] theorem State.setTransmit_rawIgnition (t : PortTransmit) : (s.setTransmit t).rawIgnition = s.rawIgnition := rfl
@[simp] theorem State.setTransmit_time (t : PortTransmit) : (s.setTransmit t).time = s.time := rfl
@[simp] theorem State.setTransmit_tables (t : PortTransmit) : (s.setTransmit t).tables = s.tables := rfl
@[simp] theorem State.setTransmit_intake (t : PortTransmit) : (s.setTransmit t).intake = s.intake := rfl
@[simp] theorem State.setTransmit_store (t : PortTransmit) : (s.setTransmit t).store = s.store := rfl
@[simp] theorem State.setTransmit_speed (t : PortTransmit) : (s.setTransmit t).speed = s.speed := rfl
@[simp] theorem State.setTransmit_gauges (t : PortTransmit) : (s.setTransmit t).gauges = s.gauges := rfl
@[simp] theorem State.setTransmit_telltales (t : PortTransmit) : (s.setTransmit t).telltales = s.telltales := rfl
@[simp] theorem State.setTransmit_messages (t : PortTransmit) : (s.setTransmit t).messages = s.messages := rfl
@[simp] theorem State.setTransmit_crew (t : PortTransmit) : (s.setTransmit t).crew = s.crew := rfl
@[simp] theorem State.setTransmit_faults (t : PortTransmit) : (s.setTransmit t).faults = s.faults := rfl
@[simp] theorem State.setTransmit_link (t : PortTransmit) : (s.setTransmit t).link = s.link := rfl
@[simp] theorem State.setTransmit_choices (t : PortTransmit) : (s.setTransmit t).choices = s.choices := rfl
@[simp] theorem State.setTransmit_pending (t : PortTransmit) : (s.setTransmit t).pending = s.pending := rfl
@[simp] theorem State.setTransmit_portB_queue (t : PortTransmit) : (s.setTransmit t).portB.queue = s.portB.queue := rfl
@[simp] theorem State.setTransmit_portB_transmit (t : PortTransmit) : (s.setTransmit t).portB.transmit = t := rfl

@[simp] theorem State.setMemory_keepAlive (i : Fin 96) (m : Option (List Byte)) : (s.setMemory i m).keepAlive = s.keepAlive := rfl
@[simp] theorem State.setMemory_resetHeld (i : Fin 96) (m : Option (List Byte)) : (s.setMemory i m).resetHeld = s.resetHeld := rfl
@[simp] theorem State.setMemory_rawIgnition (i : Fin 96) (m : Option (List Byte)) : (s.setMemory i m).rawIgnition = s.rawIgnition := rfl
@[simp] theorem State.setMemory_time (i : Fin 96) (m : Option (List Byte)) : (s.setMemory i m).time = s.time := rfl
@[simp] theorem State.setMemory_tables (i : Fin 96) (m : Option (List Byte)) : (s.setMemory i m).tables = s.tables := rfl
@[simp] theorem State.setMemory_store (i : Fin 96) (m : Option (List Byte)) : (s.setMemory i m).store = s.store := rfl
@[simp] theorem State.setMemory_speed (i : Fin 96) (m : Option (List Byte)) : (s.setMemory i m).speed = s.speed := rfl
@[simp] theorem State.setMemory_gauges (i : Fin 96) (m : Option (List Byte)) : (s.setMemory i m).gauges = s.gauges := rfl
@[simp] theorem State.setMemory_telltales (i : Fin 96) (m : Option (List Byte)) : (s.setMemory i m).telltales = s.telltales := rfl
@[simp] theorem State.setMemory_messages (i : Fin 96) (m : Option (List Byte)) : (s.setMemory i m).messages = s.messages := rfl
@[simp] theorem State.setMemory_crew (i : Fin 96) (m : Option (List Byte)) : (s.setMemory i m).crew = s.crew := rfl
@[simp] theorem State.setMemory_faults (i : Fin 96) (m : Option (List Byte)) : (s.setMemory i m).faults = s.faults := rfl
@[simp] theorem State.setMemory_link (i : Fin 96) (m : Option (List Byte)) : (s.setMemory i m).link = s.link := rfl
@[simp] theorem State.setMemory_portB (i : Fin 96) (m : Option (List Byte)) : (s.setMemory i m).portB = s.portB := rfl
@[simp] theorem State.setMemory_choices (i : Fin 96) (m : Option (List Byte)) : (s.setMemory i m).choices = s.choices := rfl
@[simp] theorem State.setMemory_pending (i : Fin 96) (m : Option (List Byte)) : (s.setMemory i m).pending = s.pending := rfl
@[simp] theorem State.setMemory_intake_forwardMemory (i : Fin 96) (m : Option (List Byte)) : (s.setMemory i m).intake.forwardMemory = s.intake.forwardMemory.set i m := rfl
@[simp] theorem State.setMemory_intake_silenceA (i : Fin 96) (m : Option (List Byte)) : (s.setMemory i m).intake.silenceA = s.intake.silenceA := rfl
@[simp] theorem State.setMemory_intake_silenceB (i : Fin 96) (m : Option (List Byte)) : (s.setMemory i m).intake.silenceB = s.intake.silenceB := rfl

@[simp] theorem State.setSilence_keepAlive (x : Silence) : (s.setSilence x).keepAlive = s.keepAlive := rfl
@[simp] theorem State.setSilence_resetHeld (x : Silence) : (s.setSilence x).resetHeld = s.resetHeld := rfl
@[simp] theorem State.setSilence_rawIgnition (x : Silence) : (s.setSilence x).rawIgnition = s.rawIgnition := rfl
@[simp] theorem State.setSilence_time (x : Silence) : (s.setSilence x).time = s.time := rfl
@[simp] theorem State.setSilence_tables (x : Silence) : (s.setSilence x).tables = s.tables := rfl
@[simp] theorem State.setSilence_store (x : Silence) : (s.setSilence x).store = s.store := rfl
@[simp] theorem State.setSilence_speed (x : Silence) : (s.setSilence x).speed = s.speed := rfl
@[simp] theorem State.setSilence_gauges (x : Silence) : (s.setSilence x).gauges = s.gauges := rfl
@[simp] theorem State.setSilence_telltales (x : Silence) : (s.setSilence x).telltales = s.telltales := rfl
@[simp] theorem State.setSilence_messages (x : Silence) : (s.setSilence x).messages = s.messages := rfl
@[simp] theorem State.setSilence_crew (x : Silence) : (s.setSilence x).crew = s.crew := rfl
@[simp] theorem State.setSilence_faults (x : Silence) : (s.setSilence x).faults = s.faults := rfl
@[simp] theorem State.setSilence_link (x : Silence) : (s.setSilence x).link = s.link := rfl
@[simp] theorem State.setSilence_portB (x : Silence) : (s.setSilence x).portB = s.portB := rfl
@[simp] theorem State.setSilence_choices (x : Silence) : (s.setSilence x).choices = s.choices := rfl
@[simp] theorem State.setSilence_pending (x : Silence) : (s.setSilence x).pending = s.pending := rfl
@[simp] theorem State.setSilence_intake_forwardMemory (x : Silence) : (s.setSilence x).intake.forwardMemory = s.intake.forwardMemory := rfl
@[simp] theorem State.setSilence_intake_silenceA (x : Silence) : (s.setSilence x).intake.silenceA = x := rfl
@[simp] theorem State.setSilence_intake_silenceB (x : Silence) : (s.setSilence x).intake.silenceB = x := rfl

@[simp] theorem State.emptyMemories_keepAlive : (s.emptyMemories).keepAlive = s.keepAlive := rfl
@[simp] theorem State.emptyMemories_resetHeld : (s.emptyMemories).resetHeld = s.resetHeld := rfl
@[simp] theorem State.emptyMemories_rawIgnition : (s.emptyMemories).rawIgnition = s.rawIgnition := rfl
@[simp] theorem State.emptyMemories_time : (s.emptyMemories).time = s.time := rfl
@[simp] theorem State.emptyMemories_tables : (s.emptyMemories).tables = s.tables := rfl
@[simp] theorem State.emptyMemories_store : (s.emptyMemories).store = s.store := rfl
@[simp] theorem State.emptyMemories_speed : (s.emptyMemories).speed = s.speed := rfl
@[simp] theorem State.emptyMemories_gauges : (s.emptyMemories).gauges = s.gauges := rfl
@[simp] theorem State.emptyMemories_telltales : (s.emptyMemories).telltales = s.telltales := rfl
@[simp] theorem State.emptyMemories_messages : (s.emptyMemories).messages = s.messages := rfl
@[simp] theorem State.emptyMemories_crew : (s.emptyMemories).crew = s.crew := rfl
@[simp] theorem State.emptyMemories_faults : (s.emptyMemories).faults = s.faults := rfl
@[simp] theorem State.emptyMemories_link : (s.emptyMemories).link = s.link := rfl
@[simp] theorem State.emptyMemories_portB : (s.emptyMemories).portB = s.portB := rfl
@[simp] theorem State.emptyMemories_choices : (s.emptyMemories).choices = s.choices := rfl
@[simp] theorem State.emptyMemories_pending : (s.emptyMemories).pending = s.pending := rfl
@[simp] theorem State.emptyMemories_intake_forwardMemory : (s.emptyMemories).intake.forwardMemory = Vector.replicate 96 none := rfl
@[simp] theorem State.emptyMemories_intake_silenceA : (s.emptyMemories).intake.silenceA = s.intake.silenceA := rfl
@[simp] theorem State.emptyMemories_intake_silenceB : (s.emptyMemories).intake.silenceB = s.intake.silenceB := rfl

@[simp] theorem State.setPart_keepAlive (p : PartState) : (s.setPart p).keepAlive = s.keepAlive := rfl
@[simp] theorem State.setPart_resetHeld (p : PartState) : (s.setPart p).resetHeld = s.resetHeld := rfl
@[simp] theorem State.setPart_rawIgnition (p : PartState) : (s.setPart p).rawIgnition = s.rawIgnition := rfl
@[simp] theorem State.setPart_tables (p : PartState) : (s.setPart p).tables = s.tables := rfl
@[simp] theorem State.setPart_intake (p : PartState) : (s.setPart p).intake = s.intake := rfl
@[simp] theorem State.setPart_store (p : PartState) : (s.setPart p).store = s.store := rfl
@[simp] theorem State.setPart_speed (p : PartState) : (s.setPart p).speed = s.speed := rfl
@[simp] theorem State.setPart_gauges (p : PartState) : (s.setPart p).gauges = s.gauges := rfl
@[simp] theorem State.setPart_telltales (p : PartState) : (s.setPart p).telltales = s.telltales := rfl
@[simp] theorem State.setPart_messages (p : PartState) : (s.setPart p).messages = s.messages := rfl
@[simp] theorem State.setPart_crew (p : PartState) : (s.setPart p).crew = s.crew := rfl
@[simp] theorem State.setPart_faults (p : PartState) : (s.setPart p).faults = s.faults := rfl
@[simp] theorem State.setPart_link (p : PartState) : (s.setPart p).link = s.link := rfl
@[simp] theorem State.setPart_portB (p : PartState) : (s.setPart p).portB = s.portB := rfl
@[simp] theorem State.setPart_choices (p : PartState) : (s.setPart p).choices = s.choices := rfl
@[simp] theorem State.setPart_pending (p : PartState) : (s.setPart p).pending = s.pending := rfl
@[simp] theorem State.setPart_time_part (p : PartState) : (s.setPart p).time.part = p := rfl
@[simp] theorem State.setPart_time_ms (p : PartState) : (s.setPart p).time.ms = s.time.ms := rfl
@[simp] theorem State.setPart_time_mono (p : PartState) : (s.setPart p).time.mono = s.time.mono := rfl
@[simp] theorem State.setPart_time_sleepMark (p : PartState) : (s.setPart p).time.sleepMark = s.time.sleepMark := rfl
@[simp] theorem State.setPart_time_utc (p : PartState) : (s.setPart p).time.utc = s.time.utc := rfl
@[simp] theorem State.setPart_time_utcValid (p : PartState) : (s.setPart p).time.utcValid = s.time.utcValid := rfl
@[simp] theorem State.setPart_time_filteredIgnition (p : PartState) : (s.setPart p).time.filteredIgnition = s.time.filteredIgnition := rfl
@[simp] theorem State.setPart_time_ignitionFilter (p : PartState) : (s.setPart p).time.ignitionFilter = s.time.ignitionFilter := rfl
@[simp] theorem State.setPart_time_started (p : PartState) : (s.setPart p).time.started = s.time.started := rfl
@[simp] theorem State.setPart_time_settle (p : PartState) : (s.setPart p).time.settle = s.time.settle := rfl
@[simp] theorem State.setPart_time_quiet (p : PartState) : (s.setPart p).time.quiet = s.time.quiet := rfl
@[simp] theorem State.setPart_time_homingDone (p : PartState) : (s.setPart p).time.homingDone = s.time.homingDone := rfl
@[simp] theorem State.setPart_time_bulbCheckEnded (p : PartState) : (s.setPart p).time.bulbCheckEnded = s.time.bulbCheckEnded := rfl
@[simp] theorem State.setPart_time_atRest (p : PartState) : (s.setPart p).time.atRest = s.time.atRest := rfl

@[simp] theorem State.setQuiet_keepAlive (q : QuietTimer) : (s.setQuiet q).keepAlive = s.keepAlive := rfl
@[simp] theorem State.setQuiet_resetHeld (q : QuietTimer) : (s.setQuiet q).resetHeld = s.resetHeld := rfl
@[simp] theorem State.setQuiet_rawIgnition (q : QuietTimer) : (s.setQuiet q).rawIgnition = s.rawIgnition := rfl
@[simp] theorem State.setQuiet_tables (q : QuietTimer) : (s.setQuiet q).tables = s.tables := rfl
@[simp] theorem State.setQuiet_intake (q : QuietTimer) : (s.setQuiet q).intake = s.intake := rfl
@[simp] theorem State.setQuiet_store (q : QuietTimer) : (s.setQuiet q).store = s.store := rfl
@[simp] theorem State.setQuiet_speed (q : QuietTimer) : (s.setQuiet q).speed = s.speed := rfl
@[simp] theorem State.setQuiet_gauges (q : QuietTimer) : (s.setQuiet q).gauges = s.gauges := rfl
@[simp] theorem State.setQuiet_telltales (q : QuietTimer) : (s.setQuiet q).telltales = s.telltales := rfl
@[simp] theorem State.setQuiet_messages (q : QuietTimer) : (s.setQuiet q).messages = s.messages := rfl
@[simp] theorem State.setQuiet_crew (q : QuietTimer) : (s.setQuiet q).crew = s.crew := rfl
@[simp] theorem State.setQuiet_faults (q : QuietTimer) : (s.setQuiet q).faults = s.faults := rfl
@[simp] theorem State.setQuiet_link (q : QuietTimer) : (s.setQuiet q).link = s.link := rfl
@[simp] theorem State.setQuiet_portB (q : QuietTimer) : (s.setQuiet q).portB = s.portB := rfl
@[simp] theorem State.setQuiet_choices (q : QuietTimer) : (s.setQuiet q).choices = s.choices := rfl
@[simp] theorem State.setQuiet_pending (q : QuietTimer) : (s.setQuiet q).pending = s.pending := rfl
@[simp] theorem State.setQuiet_time_part (q : QuietTimer) : (s.setQuiet q).time.part = s.time.part := rfl
@[simp] theorem State.setQuiet_time_ms (q : QuietTimer) : (s.setQuiet q).time.ms = s.time.ms := rfl
@[simp] theorem State.setQuiet_time_mono (q : QuietTimer) : (s.setQuiet q).time.mono = s.time.mono := rfl
@[simp] theorem State.setQuiet_time_sleepMark (q : QuietTimer) : (s.setQuiet q).time.sleepMark = s.time.sleepMark := rfl
@[simp] theorem State.setQuiet_time_utc (q : QuietTimer) : (s.setQuiet q).time.utc = s.time.utc := rfl
@[simp] theorem State.setQuiet_time_utcValid (q : QuietTimer) : (s.setQuiet q).time.utcValid = s.time.utcValid := rfl
@[simp] theorem State.setQuiet_time_filteredIgnition (q : QuietTimer) : (s.setQuiet q).time.filteredIgnition = s.time.filteredIgnition := rfl
@[simp] theorem State.setQuiet_time_ignitionFilter (q : QuietTimer) : (s.setQuiet q).time.ignitionFilter = s.time.ignitionFilter := rfl
@[simp] theorem State.setQuiet_time_started (q : QuietTimer) : (s.setQuiet q).time.started = s.time.started := rfl
@[simp] theorem State.setQuiet_time_settle (q : QuietTimer) : (s.setQuiet q).time.settle = s.time.settle := rfl
@[simp] theorem State.setQuiet_time_quiet (q : QuietTimer) : (s.setQuiet q).time.quiet = q := rfl
@[simp] theorem State.setQuiet_time_homingDone (q : QuietTimer) : (s.setQuiet q).time.homingDone = s.time.homingDone := rfl
@[simp] theorem State.setQuiet_time_bulbCheckEnded (q : QuietTimer) : (s.setQuiet q).time.bulbCheckEnded = s.time.bulbCheckEnded := rfl
@[simp] theorem State.setQuiet_time_atRest (q : QuietTimer) : (s.setQuiet q).time.atRest = s.time.atRest := rfl

@[simp] theorem State.setUtc_keepAlive (u : Word32) : (s.setUtc u).keepAlive = s.keepAlive := rfl
@[simp] theorem State.setUtc_resetHeld (u : Word32) : (s.setUtc u).resetHeld = s.resetHeld := rfl
@[simp] theorem State.setUtc_rawIgnition (u : Word32) : (s.setUtc u).rawIgnition = s.rawIgnition := rfl
@[simp] theorem State.setUtc_tables (u : Word32) : (s.setUtc u).tables = s.tables := rfl
@[simp] theorem State.setUtc_intake (u : Word32) : (s.setUtc u).intake = s.intake := rfl
@[simp] theorem State.setUtc_store (u : Word32) : (s.setUtc u).store = s.store := rfl
@[simp] theorem State.setUtc_speed (u : Word32) : (s.setUtc u).speed = s.speed := rfl
@[simp] theorem State.setUtc_gauges (u : Word32) : (s.setUtc u).gauges = s.gauges := rfl
@[simp] theorem State.setUtc_telltales (u : Word32) : (s.setUtc u).telltales = s.telltales := rfl
@[simp] theorem State.setUtc_messages (u : Word32) : (s.setUtc u).messages = s.messages := rfl
@[simp] theorem State.setUtc_crew (u : Word32) : (s.setUtc u).crew = s.crew := rfl
@[simp] theorem State.setUtc_faults (u : Word32) : (s.setUtc u).faults = s.faults := rfl
@[simp] theorem State.setUtc_link (u : Word32) : (s.setUtc u).link = s.link := rfl
@[simp] theorem State.setUtc_portB (u : Word32) : (s.setUtc u).portB = s.portB := rfl
@[simp] theorem State.setUtc_choices (u : Word32) : (s.setUtc u).choices = s.choices := rfl
@[simp] theorem State.setUtc_pending (u : Word32) : (s.setUtc u).pending = s.pending := rfl
@[simp] theorem State.setUtc_time_part (u : Word32) : (s.setUtc u).time.part = s.time.part := rfl
@[simp] theorem State.setUtc_time_ms (u : Word32) : (s.setUtc u).time.ms = s.time.ms := rfl
@[simp] theorem State.setUtc_time_mono (u : Word32) : (s.setUtc u).time.mono = s.time.mono := rfl
@[simp] theorem State.setUtc_time_sleepMark (u : Word32) : (s.setUtc u).time.sleepMark = s.time.sleepMark := rfl
@[simp] theorem State.setUtc_time_utc (u : Word32) : (s.setUtc u).time.utc = u := rfl
@[simp] theorem State.setUtc_time_utcValid (u : Word32) : (s.setUtc u).time.utcValid = true := rfl
@[simp] theorem State.setUtc_time_filteredIgnition (u : Word32) : (s.setUtc u).time.filteredIgnition = s.time.filteredIgnition := rfl
@[simp] theorem State.setUtc_time_ignitionFilter (u : Word32) : (s.setUtc u).time.ignitionFilter = s.time.ignitionFilter := rfl
@[simp] theorem State.setUtc_time_started (u : Word32) : (s.setUtc u).time.started = s.time.started := rfl
@[simp] theorem State.setUtc_time_settle (u : Word32) : (s.setUtc u).time.settle = s.time.settle := rfl
@[simp] theorem State.setUtc_time_quiet (u : Word32) : (s.setUtc u).time.quiet = s.time.quiet := rfl
@[simp] theorem State.setUtc_time_homingDone (u : Word32) : (s.setUtc u).time.homingDone = s.time.homingDone := rfl
@[simp] theorem State.setUtc_time_bulbCheckEnded (u : Word32) : (s.setUtc u).time.bulbCheckEnded = s.time.bulbCheckEnded := rfl
@[simp] theorem State.setUtc_time_atRest (u : Word32) : (s.setUtc u).time.atRest = s.time.atRest := rfl

@[simp] theorem State.setIgnition_keepAlive (b : Bool) : (s.setIgnition b).keepAlive = s.keepAlive := rfl
@[simp] theorem State.setIgnition_resetHeld (b : Bool) : (s.setIgnition b).resetHeld = s.resetHeld := rfl
@[simp] theorem State.setIgnition_rawIgnition (b : Bool) : (s.setIgnition b).rawIgnition = s.rawIgnition := rfl
@[simp] theorem State.setIgnition_tables (b : Bool) : (s.setIgnition b).tables = s.tables := rfl
@[simp] theorem State.setIgnition_intake (b : Bool) : (s.setIgnition b).intake = s.intake := rfl
@[simp] theorem State.setIgnition_store (b : Bool) : (s.setIgnition b).store = s.store := rfl
@[simp] theorem State.setIgnition_speed (b : Bool) : (s.setIgnition b).speed = s.speed := rfl
@[simp] theorem State.setIgnition_gauges (b : Bool) : (s.setIgnition b).gauges = s.gauges := rfl
@[simp] theorem State.setIgnition_telltales (b : Bool) : (s.setIgnition b).telltales = s.telltales := rfl
@[simp] theorem State.setIgnition_messages (b : Bool) : (s.setIgnition b).messages = s.messages := rfl
@[simp] theorem State.setIgnition_crew (b : Bool) : (s.setIgnition b).crew = s.crew := rfl
@[simp] theorem State.setIgnition_faults (b : Bool) : (s.setIgnition b).faults = s.faults := rfl
@[simp] theorem State.setIgnition_link (b : Bool) : (s.setIgnition b).link = s.link := rfl
@[simp] theorem State.setIgnition_portB (b : Bool) : (s.setIgnition b).portB = s.portB := rfl
@[simp] theorem State.setIgnition_choices (b : Bool) : (s.setIgnition b).choices = s.choices := rfl
@[simp] theorem State.setIgnition_pending (b : Bool) : (s.setIgnition b).pending = s.pending := rfl
@[simp] theorem State.setIgnition_time_part (b : Bool) : (s.setIgnition b).time.part = s.time.part := rfl
@[simp] theorem State.setIgnition_time_ms (b : Bool) : (s.setIgnition b).time.ms = s.time.ms := rfl
@[simp] theorem State.setIgnition_time_mono (b : Bool) : (s.setIgnition b).time.mono = s.time.mono := rfl
@[simp] theorem State.setIgnition_time_sleepMark (b : Bool) : (s.setIgnition b).time.sleepMark = s.time.sleepMark := rfl
@[simp] theorem State.setIgnition_time_utc (b : Bool) : (s.setIgnition b).time.utc = s.time.utc := rfl
@[simp] theorem State.setIgnition_time_utcValid (b : Bool) : (s.setIgnition b).time.utcValid = s.time.utcValid := rfl
@[simp] theorem State.setIgnition_time_filteredIgnition (b : Bool) : (s.setIgnition b).time.filteredIgnition = b := rfl
@[simp] theorem State.setIgnition_time_ignitionFilter (b : Bool) : (s.setIgnition b).time.ignitionFilter = false := rfl
@[simp] theorem State.setIgnition_time_started (b : Bool) : (s.setIgnition b).time.started = s.time.started := rfl
@[simp] theorem State.setIgnition_time_settle (b : Bool) : (s.setIgnition b).time.settle = s.time.settle := rfl
@[simp] theorem State.setIgnition_time_quiet (b : Bool) : (s.setIgnition b).time.quiet = s.time.quiet := rfl
@[simp] theorem State.setIgnition_time_homingDone (b : Bool) : (s.setIgnition b).time.homingDone = s.time.homingDone := rfl
@[simp] theorem State.setIgnition_time_bulbCheckEnded (b : Bool) : (s.setIgnition b).time.bulbCheckEnded = s.time.bulbCheckEnded := rfl
@[simp] theorem State.setIgnition_time_atRest (b : Bool) : (s.setIgnition b).time.atRest = s.time.atRest := rfl

@[simp] theorem State.startSettle_keepAlive : (s.startSettle).keepAlive = s.keepAlive := rfl
@[simp] theorem State.startSettle_resetHeld : (s.startSettle).resetHeld = s.resetHeld := rfl
@[simp] theorem State.startSettle_rawIgnition : (s.startSettle).rawIgnition = s.rawIgnition := rfl
@[simp] theorem State.startSettle_tables : (s.startSettle).tables = s.tables := rfl
@[simp] theorem State.startSettle_intake : (s.startSettle).intake = s.intake := rfl
@[simp] theorem State.startSettle_store : (s.startSettle).store = s.store := rfl
@[simp] theorem State.startSettle_speed : (s.startSettle).speed = s.speed := rfl
@[simp] theorem State.startSettle_gauges : (s.startSettle).gauges = s.gauges := rfl
@[simp] theorem State.startSettle_telltales : (s.startSettle).telltales = s.telltales := rfl
@[simp] theorem State.startSettle_messages : (s.startSettle).messages = s.messages := rfl
@[simp] theorem State.startSettle_crew : (s.startSettle).crew = s.crew := rfl
@[simp] theorem State.startSettle_faults : (s.startSettle).faults = s.faults := rfl
@[simp] theorem State.startSettle_link : (s.startSettle).link = s.link := rfl
@[simp] theorem State.startSettle_portB : (s.startSettle).portB = s.portB := rfl
@[simp] theorem State.startSettle_choices : (s.startSettle).choices = s.choices := rfl
@[simp] theorem State.startSettle_pending : (s.startSettle).pending = s.pending := rfl
@[simp] theorem State.startSettle_time_part : (s.startSettle).time.part = s.time.part := rfl
@[simp] theorem State.startSettle_time_ms : (s.startSettle).time.ms = s.time.ms := rfl
@[simp] theorem State.startSettle_time_mono : (s.startSettle).time.mono = s.time.mono := rfl
@[simp] theorem State.startSettle_time_sleepMark : (s.startSettle).time.sleepMark = s.time.sleepMark := rfl
@[simp] theorem State.startSettle_time_utc : (s.startSettle).time.utc = s.time.utc := rfl
@[simp] theorem State.startSettle_time_utcValid : (s.startSettle).time.utcValid = s.time.utcValid := rfl
@[simp] theorem State.startSettle_time_filteredIgnition : (s.startSettle).time.filteredIgnition = s.time.filteredIgnition := rfl
@[simp] theorem State.startSettle_time_ignitionFilter : (s.startSettle).time.ignitionFilter = s.time.ignitionFilter := rfl
@[simp] theorem State.startSettle_time_started : (s.startSettle).time.started = s.time.started := rfl
@[simp] theorem State.startSettle_time_settle : (s.startSettle).time.settle = s.settleStart := rfl
@[simp] theorem State.startSettle_time_quiet : (s.startSettle).time.quiet = s.time.quiet := rfl
@[simp] theorem State.startSettle_time_homingDone : (s.startSettle).time.homingDone = s.time.homingDone := rfl
@[simp] theorem State.startSettle_time_bulbCheckEnded : (s.startSettle).time.bulbCheckEnded = s.time.bulbCheckEnded := rfl
@[simp] theorem State.startSettle_time_atRest : (s.startSettle).time.atRest = s.time.atRest := rfl

@[simp] theorem State.reportBulbEnd_keepAlive : (s.reportBulbEnd).keepAlive = s.keepAlive := rfl
@[simp] theorem State.reportBulbEnd_resetHeld : (s.reportBulbEnd).resetHeld = s.resetHeld := rfl
@[simp] theorem State.reportBulbEnd_rawIgnition : (s.reportBulbEnd).rawIgnition = s.rawIgnition := rfl
@[simp] theorem State.reportBulbEnd_tables : (s.reportBulbEnd).tables = s.tables := rfl
@[simp] theorem State.reportBulbEnd_intake : (s.reportBulbEnd).intake = s.intake := rfl
@[simp] theorem State.reportBulbEnd_store : (s.reportBulbEnd).store = s.store := rfl
@[simp] theorem State.reportBulbEnd_speed : (s.reportBulbEnd).speed = s.speed := rfl
@[simp] theorem State.reportBulbEnd_gauges : (s.reportBulbEnd).gauges = s.gauges := rfl
@[simp] theorem State.reportBulbEnd_telltales : (s.reportBulbEnd).telltales = s.telltales := rfl
@[simp] theorem State.reportBulbEnd_messages : (s.reportBulbEnd).messages = s.messages := rfl
@[simp] theorem State.reportBulbEnd_crew : (s.reportBulbEnd).crew = s.crew := rfl
@[simp] theorem State.reportBulbEnd_faults : (s.reportBulbEnd).faults = s.faults := rfl
@[simp] theorem State.reportBulbEnd_link : (s.reportBulbEnd).link = s.link := rfl
@[simp] theorem State.reportBulbEnd_portB : (s.reportBulbEnd).portB = s.portB := rfl
@[simp] theorem State.reportBulbEnd_choices : (s.reportBulbEnd).choices = s.choices := rfl
@[simp] theorem State.reportBulbEnd_pending : (s.reportBulbEnd).pending = s.pending := rfl
@[simp] theorem State.reportBulbEnd_time_part : (s.reportBulbEnd).time.part = s.time.part := rfl
@[simp] theorem State.reportBulbEnd_time_ms : (s.reportBulbEnd).time.ms = s.time.ms := rfl
@[simp] theorem State.reportBulbEnd_time_mono : (s.reportBulbEnd).time.mono = s.time.mono := rfl
@[simp] theorem State.reportBulbEnd_time_sleepMark : (s.reportBulbEnd).time.sleepMark = s.time.sleepMark := rfl
@[simp] theorem State.reportBulbEnd_time_utc : (s.reportBulbEnd).time.utc = s.time.utc := rfl
@[simp] theorem State.reportBulbEnd_time_utcValid : (s.reportBulbEnd).time.utcValid = s.time.utcValid := rfl
@[simp] theorem State.reportBulbEnd_time_filteredIgnition : (s.reportBulbEnd).time.filteredIgnition = s.time.filteredIgnition := rfl
@[simp] theorem State.reportBulbEnd_time_ignitionFilter : (s.reportBulbEnd).time.ignitionFilter = s.time.ignitionFilter := rfl
@[simp] theorem State.reportBulbEnd_time_started : (s.reportBulbEnd).time.started = s.time.started := rfl
@[simp] theorem State.reportBulbEnd_time_settle : (s.reportBulbEnd).time.settle = s.time.settle := rfl
@[simp] theorem State.reportBulbEnd_time_quiet : (s.reportBulbEnd).time.quiet = s.time.quiet := rfl
@[simp] theorem State.reportBulbEnd_time_homingDone : (s.reportBulbEnd).time.homingDone = s.time.homingDone := rfl
@[simp] theorem State.reportBulbEnd_time_bulbCheckEnded : (s.reportBulbEnd).time.bulbCheckEnded = true := rfl
@[simp] theorem State.reportBulbEnd_time_atRest : (s.reportBulbEnd).time.atRest = s.time.atRest := rfl

@[simp] theorem State.reportGauges_keepAlive : (s.reportGauges).keepAlive = s.keepAlive := rfl
@[simp] theorem State.reportGauges_resetHeld : (s.reportGauges).resetHeld = s.resetHeld := rfl
@[simp] theorem State.reportGauges_rawIgnition : (s.reportGauges).rawIgnition = s.rawIgnition := rfl
@[simp] theorem State.reportGauges_tables : (s.reportGauges).tables = s.tables := rfl
@[simp] theorem State.reportGauges_intake : (s.reportGauges).intake = s.intake := rfl
@[simp] theorem State.reportGauges_store : (s.reportGauges).store = s.store := rfl
@[simp] theorem State.reportGauges_speed : (s.reportGauges).speed = s.speed := rfl
@[simp] theorem State.reportGauges_gauges : (s.reportGauges).gauges = s.gauges := rfl
@[simp] theorem State.reportGauges_telltales : (s.reportGauges).telltales = s.telltales := rfl
@[simp] theorem State.reportGauges_messages : (s.reportGauges).messages = s.messages := rfl
@[simp] theorem State.reportGauges_crew : (s.reportGauges).crew = s.crew := rfl
@[simp] theorem State.reportGauges_faults : (s.reportGauges).faults = s.faults := rfl
@[simp] theorem State.reportGauges_link : (s.reportGauges).link = s.link := rfl
@[simp] theorem State.reportGauges_portB : (s.reportGauges).portB = s.portB := rfl
@[simp] theorem State.reportGauges_choices : (s.reportGauges).choices = s.choices := rfl
@[simp] theorem State.reportGauges_pending : (s.reportGauges).pending = s.pending := rfl
@[simp] theorem State.reportGauges_time_part : (s.reportGauges).time.part = s.time.part := rfl
@[simp] theorem State.reportGauges_time_ms : (s.reportGauges).time.ms = s.time.ms := rfl
@[simp] theorem State.reportGauges_time_mono : (s.reportGauges).time.mono = s.time.mono := rfl
@[simp] theorem State.reportGauges_time_sleepMark : (s.reportGauges).time.sleepMark = s.time.sleepMark := rfl
@[simp] theorem State.reportGauges_time_utc : (s.reportGauges).time.utc = s.time.utc := rfl
@[simp] theorem State.reportGauges_time_utcValid : (s.reportGauges).time.utcValid = s.time.utcValid := rfl
@[simp] theorem State.reportGauges_time_filteredIgnition : (s.reportGauges).time.filteredIgnition = s.time.filteredIgnition := rfl
@[simp] theorem State.reportGauges_time_ignitionFilter : (s.reportGauges).time.ignitionFilter = s.time.ignitionFilter := rfl
@[simp] theorem State.reportGauges_time_started : (s.reportGauges).time.started = s.time.started := rfl
@[simp] theorem State.reportGauges_time_settle : (s.reportGauges).time.settle = s.time.settle := rfl
@[simp] theorem State.reportGauges_time_quiet : (s.reportGauges).time.quiet = s.time.quiet := rfl
@[simp] theorem State.reportGauges_time_homingDone : (s.reportGauges).time.homingDone = s.homingDoneNow := rfl
@[simp] theorem State.reportGauges_time_bulbCheckEnded : (s.reportGauges).time.bulbCheckEnded = s.time.bulbCheckEnded := rfl
@[simp] theorem State.reportGauges_time_atRest : (s.reportGauges).time.atRest = s.atRestNow := rfl

@[simp] theorem State.setCrew_keepAlive (c : Crew) : (s.setCrew c).keepAlive = s.keepAlive := rfl
@[simp] theorem State.setCrew_resetHeld (c : Crew) : (s.setCrew c).resetHeld = s.resetHeld := rfl
@[simp] theorem State.setCrew_rawIgnition (c : Crew) : (s.setCrew c).rawIgnition = s.rawIgnition := rfl
@[simp] theorem State.setCrew_time (c : Crew) : (s.setCrew c).time = s.time := rfl
@[simp] theorem State.setCrew_tables (c : Crew) : (s.setCrew c).tables = s.tables := rfl
@[simp] theorem State.setCrew_intake (c : Crew) : (s.setCrew c).intake = s.intake := rfl
@[simp] theorem State.setCrew_store (c : Crew) : (s.setCrew c).store = s.store := rfl
@[simp] theorem State.setCrew_speed (c : Crew) : (s.setCrew c).speed = s.speed := rfl
@[simp] theorem State.setCrew_gauges (c : Crew) : (s.setCrew c).gauges = s.gauges := rfl
@[simp] theorem State.setCrew_telltales (c : Crew) : (s.setCrew c).telltales = s.telltales := rfl
@[simp] theorem State.setCrew_messages (c : Crew) : (s.setCrew c).messages = s.messages := rfl
@[simp] theorem State.setCrew_faults (c : Crew) : (s.setCrew c).faults = s.faults := rfl
@[simp] theorem State.setCrew_link (c : Crew) : (s.setCrew c).link = s.link := rfl
@[simp] theorem State.setCrew_portB (c : Crew) : (s.setCrew c).portB = s.portB := rfl
@[simp] theorem State.setCrew_choices (c : Crew) : (s.setCrew c).choices = s.choices := rfl
@[simp] theorem State.setCrew_pending (c : Crew) : (s.setCrew c).pending = s.pending := rfl
@[simp] theorem State.setCrew_crew (c : Crew) : (s.setCrew c).crew = c := rfl

@[simp] theorem State.setTables_keepAlive (t : Tables) : (s.setTables t).keepAlive = s.keepAlive := rfl
@[simp] theorem State.setTables_resetHeld (t : Tables) : (s.setTables t).resetHeld = s.resetHeld := rfl
@[simp] theorem State.setTables_rawIgnition (t : Tables) : (s.setTables t).rawIgnition = s.rawIgnition := rfl
@[simp] theorem State.setTables_time (t : Tables) : (s.setTables t).time = s.time := rfl
@[simp] theorem State.setTables_intake (t : Tables) : (s.setTables t).intake = s.intake := rfl
@[simp] theorem State.setTables_store (t : Tables) : (s.setTables t).store = s.store := rfl
@[simp] theorem State.setTables_speed (t : Tables) : (s.setTables t).speed = s.speed := rfl
@[simp] theorem State.setTables_gauges (t : Tables) : (s.setTables t).gauges = s.gauges := rfl
@[simp] theorem State.setTables_telltales (t : Tables) : (s.setTables t).telltales = s.telltales := rfl
@[simp] theorem State.setTables_messages (t : Tables) : (s.setTables t).messages = s.messages := rfl
@[simp] theorem State.setTables_crew (t : Tables) : (s.setTables t).crew = s.crew := rfl
@[simp] theorem State.setTables_faults (t : Tables) : (s.setTables t).faults = s.faults := rfl
@[simp] theorem State.setTables_link (t : Tables) : (s.setTables t).link = s.link := rfl
@[simp] theorem State.setTables_portB (t : Tables) : (s.setTables t).portB = s.portB := rfl
@[simp] theorem State.setTables_choices (t : Tables) : (s.setTables t).choices = s.choices := rfl
@[simp] theorem State.setTables_pending (t : Tables) : (s.setTables t).pending = s.pending := rfl
@[simp] theorem State.setTables_tables (t : Tables) : (s.setTables t).tables = t := rfl

end Sys2Proof.Machine
end

