-- ==== Sys2Proof/Laws/Reactions.lean ====
section
/-! SUPPORT. What every shared operation that reacts to an event leaves alone: one lemma for each operation, saying that its
result stands in `Presented`, `Reacted` or `Observed` to the state before. -/

namespace Sys2Proof.Machine

/-! ### Presented -/

theorem Presented.refl (s : State) : Presented s s := ⟨rfl, rfl⟩

theorem Presented.trans {s t u : State} (h : Presented s t) (g : Presented t u) : Presented s u := by
  refine ⟨?_, g.bulbCheck.trans h.bulbCheck⟩
  rw [g.rest, h.rest]

/-- An update of the Message Unit. -/
theorem presented_messages (s : State) (m : Messages) : Presented s { s with messages := m } := ⟨rfl, rfl⟩

theorem presented_setTelltale (s : State) (i : Fin 64) (r : Telltale) : Presented s (s.setTelltale i r) := ⟨rfl, rfl⟩

theorem presented_setLamp (s : State) (c : Fin 32) (l : LampState) : Presented s (s.setLamp c l) := ⟨rfl, rfl⟩

theorem Presented.foldl {α : Type} {f : State → α → State} (hf : ∀ s a, Presented s (f s a)) (l : List α) (s : State) :
    Presented s (l.foldl f s) := by
  induction l generalizing s with
  | nil => exact .refl s
  | cons a l ih => exact (hf s a).trans (ih _)

theorem presented_recomputeLamp (s : State) (c : Fin 32) : Presented s (s.recomputeLamp c) := by
  unfold State.recomputeLamp
  split
  · exact presented_setLamp ..
  · exact presented_setLamp ..
  · exact .refl s

theorem presented_recomputeNamed (s : State) (l : Option (Fin 32)) : Presented s (s.recomputeNamed l) := by
  cases l with
  | none => exact .refl s
  | some c => exact presented_recomputeLamp s c

theorem presented_recomputeLamps (s : State) : Presented s s.recomputeLamps :=
  Presented.foldl presented_recomputeLamp _ s

theorem presented_setHeld (s : State) (i : Fin 64) (h : Held) : Presented s (s.setHeld i h) := presented_setTelltale ..

theorem presented_setCondition (s : State) (i : Fin 64) (c : Bool) : Presented s (s.setCondition i c) :=
  presented_setTelltale ..

theorem presented_setArbiter (s : State) (a : Arbiter) : Presented s (s.setArbiter a) := ⟨rfl, rfl⟩

theorem presented_setRequest (s : State) (i : Fin 64) (r : Option ChimeRequest) : Presented s (s.setRequest i r) :=
  ⟨rfl, rfl⟩

theorem presented_startBurst (s : State) (w : Fin 64 × Fin 8) : Presented s (s.startBurst w) := presented_setArbiter ..

theorem presented_chooseAfresh (s : State) : Presented s s.chooseAfresh := by
  unfold State.chooseAfresh
  split
  · exact presented_setArbiter ..
  · exact presented_startBurst ..

theorem presented_choose (s : State) : Presented s s.choose := by
  unfold State.choose
  split
  · exact presented_chooseAfresh s
  · split
    · exact .refl s
    · split
      · exact .refl s
      · split
        · exact presented_startBurst ..
        · split
          · exact presented_startBurst ..
          · exact .refl s

theorem presented_raiseRequest (s : State) (i : Fin 64) (p : Fin 8) : Presented s (s.raiseRequest i p) :=
  (presented_setRequest s i _).trans (presented_choose _)

theorem presented_removeRequest (s : State) (i : Fin 64) : Presented s (s.removeRequest i) := by
  unfold State.removeRequest
  split
  · exact .refl s
  · refine (presented_setRequest s i none).trans ?_
    dsimp only
    split
    · exact presented_choose _
    · split
      · exact (presented_setArbiter ..).trans (presented_choose _)
      · exact presented_choose _

theorem presented_completeBurst (s : State) (i : Fin 64) : Presented s (s.completeBurst i) := by
  unfold State.completeBurst
  split
  · exact presented_chooseAfresh s
  · exact (presented_setRequest ..).trans (presented_chooseAfresh _)

theorem presented_onChime (s : State) (i : Fin 64) : Presented s (s.onChime i) := by
  unfold State.onChime
  split
  · exact .refl s
  · exact presented_raiseRequest ..

/-- The Message Unit's own changes are changes of `messages`. -/
theorem Presented.messages_only {s t : State} (h : Presented s t) (ht : t.telltales = s.telltales) :
    t = { s with messages := t.messages } := by
  have := h.rest; rw [ht] at this; exact this

@[simp] theorem chooseAfresh_telltales (s : State) : s.chooseAfresh.telltales = s.telltales := by
  unfold State.chooseAfresh State.startBurst State.setArbiter; split <;> rfl

@[simp] theorem choose_telltales (s : State) : s.choose.telltales = s.telltales := by
  unfold State.choose
  split
  · exact chooseAfresh_telltales s
  · split
    · rfl
    · split
      · rfl
      · split
        · rfl
        · split <;> rfl

@[simp] theorem raiseRequest_telltales (s : State) (i : Fin 64) (p : Fin 8) :
    (s.raiseRequest i p).telltales = s.telltales := by
  unfold State.raiseRequest; rw [choose_telltales]; rfl

@[simp] theorem removeRequest_telltales (s : State) (i : Fin 64) : (s.removeRequest i).telltales = s.telltales := by
  unfold State.removeRequest
  split
  · rfl
  · dsimp only
    split
    · rw [choose_telltales]; rfl
    · split
      · rw [choose_telltales]; rfl
      · rw [choose_telltales]; rfl

/-! ### Reacted -/

theorem Reacted.refl (s : State) : Reacted s s := by
  constructor <;> first | rfl | (intros; rfl) | (intros; assumption)

theorem Reacted.trans {s t u : State} (h : Reacted s t) (g : Reacted t u) : Reacted s u where
  keepAlive := g.keepAlive.trans h.keepAlive
  resetHeld := g.resetHeld.trans h.resetHeld
  rawIgnition := g.rawIgnition.trans h.rawIgnition
  pending := g.pending.trans h.pending
  time := g.time.trans h.time
  tables := g.tables.trans h.tables
  intake := g.intake.trans h.intake
  speed := g.speed.trans h.speed
  crew := g.crew.trans h.crew
  portB := g.portB.trans h.portB
  hold := g.hold.trans h.hold
  stale := g.stale.trans h.stale
  slots k hk := (g.slots k hk).trans (h.slots k hk)
  filterTick := g.filterTick.trans h.filterTick
  motion ch := by rw [g.motion ch, h.motion ch]
  bulbCheck := g.bulbCheck.trans h.bulbCheck
  sent := g.sent.trans h.sent
  status c hc := g.status c (h.status c hc)
  capture k hk := g.capture k (h.capture k hk)

theorem Presented.reacted {s t : State} (h : Presented s t) : Reacted s t := by
  have hb := h.bulbCheck
  rw [h.rest]
  constructor <;> first | rfl | (intros; rfl) | (intros; assumption)

theorem Reacted.foldl {α : Type} {f : State → α → State} (hf : ∀ s a, Reacted s (f s a)) (l : List α) (s : State) :
    Reacted s (l.foldl f s) := by
  induction l generalizing s with
  | nil => exact .refl s
  | cons a l ih => exact (hf s a).trans (ih _)

theorem reacted_setEgress (s : State) (q : List EgressRecord) : Reacted s (s.setEgress q) := by
  constructor <;> first | rfl | (intros; rfl) | (intros; assumption)

theorem reacted_choices (s : State) (n : Nat) : Reacted s { s with choices := n } := by
  constructor <;> first | rfl | (intros; rfl) | (intros; assumption)

theorem record_status_mono (f : Faults) (c : FaultClass) (d : FaultDetail) (st : Stamp) (m : Bool) (k : Fin 16)
    (h : f.status[k] = true) : (f.record c d st m).status[k] = true := by
  have hs : (f.status.set c.number true)[k] = true := by
    rw [Fin.getElem_fin, Vector.getElem_set]; split
    · rfl
    · exact h
  unfold Faults.record
  dsimp only
  split
  · exact hs
  · split <;> exact hs

theorem record_capture (f : Faults) (c : FaultClass) (d : FaultDetail) (st : Stamp) (m : Bool) (k : Capture)
    (h : f.capture = some k) : (f.record c d st m).capture = some k := by
  unfold Faults.record
  dsimp only
  split
  · exact h
  · rw [h]

theorem reacted_record (s : State) (c : FaultClass) (d : FaultDetail) (st : Stamp) (m : Bool) :
    Reacted s { s with faults := s.faults.record c d st m } := by
  constructor <;> first
    | rfl
    | (intro k h; exact record_status_mono _ _ _ _ _ _ h)
    | (intro k h; exact record_capture _ _ _ _ _ _ h)
    | (intros; rfl)

/-! ### Occurrences, offers and the moves of a telltale, for any relation -/

/-- The elementary changes of an occurrence and of an offer to the egress queue (R166, R176). -/
structure Occurring (P : State → State → Prop) : Prop where
  refl : ∀ s, P s s
  trans : ∀ {s t u}, P s t → P t u → P s u
  egress : ∀ s r q, egressAccept s.link.egress r = some q → P s (s.setEgress q)
  record : ∀ s c d st m, P s { s with faults := s.faults.record c d st m }

/-- The elementary changes of a telltale's move and of the Message Unit's events (R81 to R85, R88, R100 to R113). -/
structure Moving (i : Fin 64) (P : State → State → Prop) : Prop where
  refl : ∀ s, P s s
  trans : ∀ {s t u}, P s t → P t u → P s u
  own : ∀ s r, P s (s.setTelltale i r)
  held : ∀ s j h, P s (s.setHeld j h)
  lamp : ∀ (s : State) c, P s (s.recomputeLamp c)
  messages : ∀ (s : State) m, P s { s with messages := m }

variable {P : State → State → Prop}

theorem Occurring.occur (h : Occurring P) {publish : State → State} (hp : ∀ s, P s (publish s)) (n : Nat) (c : FaultClass)
    (d : FaultDetail) (s : State) : P s (occur publish n c d s) := by
  induction n generalizing c d s with
  | zero =>
    unfold Machine.occur
    dsimp only
    split <;> split
    all_goals try exact h.trans (h.record ..) (hp _)
    all_goals try exact h.record ..
    all_goals
      split
      · next q hq =>
        first
          | exact h.trans (h.trans (h.record ..) (h.egress _ _ q hq)) (hp _)
          | exact h.trans (h.record ..) (h.egress _ _ q hq)
      · first
          | exact h.trans (h.record ..) (hp _)
          | exact h.record ..
  | succ n ih =>
    unfold Machine.occur
    dsimp only
    split <;> split
    all_goals try exact h.trans (h.record ..) (hp _)
    all_goals try exact h.record ..
    all_goals
      split
      · next q hq =>
        first
          | exact h.trans (h.trans (h.record ..) (h.egress _ _ q hq)) (hp _)
          | exact h.trans (h.record ..) (h.egress _ _ q hq)
      · first
          | exact h.trans (h.trans (h.record ..) (ih ..)) (hp _)
          | exact h.trans (h.record ..) (ih ..)

theorem Occurring.offerWith (h : Occurring P) {publish : State → State} (hp : ∀ s, P s (publish s)) (r : EgressRecord)
    (s : State) : P s (offerWith publish r s) := by
  unfold Machine.offerWith
  split
  · next q hq => exact h.egress _ _ q hq
  · exact h.occur hp ..

variable {i : Fin 64}

theorem Moving.hear (h : Moving i P) (l : List MessageReport) (s : State) : P s (l.foldl State.hear s) := by
  induction l generalizing s with
  | nil => exact h.refl s
  | cons r l ih =>
    refine h.trans ?_ (ih _)
    cases r with
    | dropped j => exact h.held ..
    | present => exact h.refl s

theorem Moving.placeOffer (h : Moving i P) (s : State) (p : Presentation) : P s (s.placeOffer p).state :=
  h.trans (h.messages ..) (h.hear ..)

theorem Moving.withdraw (h : Moving i P) (s : State) (j : Fin 64) : P s (s.withdraw j).state := h.messages ..

theorem Moving.named (h : Moving i P) (s : State) (l : Option (Fin 32)) : P s (s.recomputeNamed l) := by
  cases l with
  | none => exact h.refl s
  | some c => exact h.lamp s c

theorem Moving.of_messages (h : Moving i P) {s t : State} (hp : Presented s t) (ht : t.telltales = s.telltales) : P s t := by
  rw [hp.messages_only ht]; exact h.messages ..

theorem Moving.offerPresentation (h : Moving i P) (s : State) (j : Fin 64) (x : Held) (m : Nat) :
    P s (s.offerPresentation j x m).state := h.trans (h.held ..) (h.placeOffer ..)

theorem Moving.onOffer (h : Moving i P) (s : State) (j : Fin 64) : P s (s.onOffer j).state := by
  unfold State.onOffer
  dsimp only
  split
  · split
    · exact h.offerPresentation ..
    · split
      · exact h.offerPresentation ..
      · exact h.refl _
  · exact h.refl _

theorem Moving.onChime (h : Moving i P) (s : State) (j : Fin 64) : P s (s.onChime j) := by
  refine h.of_messages (presented_onChime ..) ?_
  unfold State.onChime
  split
  · rfl
  · rw [raiseRequest_telltales]

theorem Moving.telltaleOn (h : Moving i P) (s : State) : P s (s.telltaleOn i).state := by
  unfold State.telltaleOn
  exact h.trans (h.own ..) (h.trans (h.named ..) (h.trans (h.onOffer ..) (h.onChime ..)))

theorem Moving.removeRequest (h : Moving i P) (s : State) (j : Fin 64) : P s (s.removeRequest j) :=
  h.of_messages (presented_removeRequest ..) (removeRequest_telltales ..)

theorem Moving.telltaleOff (h : Moving i P) (s : State) : P s (s.telltaleOff i).state := by
  unfold State.telltaleOff
  dsimp only
  split
  · exact h.trans (h.own ..) (h.trans (h.removeRequest ..) (h.named ..))
  · exact h.trans (h.own ..) (h.trans (h.withdraw ..) (h.trans (h.removeRequest ..) (h.named ..)))

theorem Moving.telltaleFallen (h : Moving i P) (s : State) : P s (s.telltaleFallen i).state := by
  unfold State.telltaleFallen
  split
  · exact h.own ..
  · exact h.telltaleOff s

theorem Moving.moveTelltale (h : Moving i P) (s : State) : P s (s.moveTelltale i).state := by
  unfold State.moveTelltale
  dsimp only
  split
  · split
    · exact h.telltaleOn s
    · exact h.own ..
  · exact h.own ..
  · split
    · exact h.telltaleFallen s
    · exact h.own ..
  · exact h.own ..
  · exact h.own ..
  all_goals exact h.refl s

theorem Moving.evaluateTelltale (h : Moving i P) (s : State) : P s (s.evaluateTelltale i).state :=
  h.trans (h.own ..) (h.moveTelltale ..)

theorem Moving.evaluateFresh (h : Moving i P) (s : State) : P s (s.evaluateFresh i).state :=
  h.trans (h.own ..) (h.evaluateTelltale ..)

theorem Moving.press (h : ∀ i, Moving i P) (s : State) : P s s.press.state := by
  have h0 := h 0
  unfold State.press
  split
  · exact h0.refl s
  · split
    · exact h0.trans (h0.messages ..) (h0.trans ((h _).own _ _) (h0.removeRequest ..))
    · exact h0.refl s

/-- The reports of a change (R102, R107). -/
theorem Occurring.reported (h : Occurring P) {publish : State → State} (hp : ∀ s, P s (publish s)) (c : Change) :
    P c.state (c.reported publish) := by
  unfold Change.reported
  generalize c.state = s
  induction c.reports generalizing s with
  | nil => exact h.refl s
  | cons r l ih =>
    refine h.trans ?_ (ih _)
    cases r with
    | dropped i => exact h.occur hp ..
    | present => exact h.offerWith hp ..

/-! ### Reacted, across occurrences and moves -/

theorem occurring_reacted : Occurring Reacted where
  refl := .refl
  trans := .trans
  egress s _ q _ := reacted_setEgress s q
  record := reacted_record

theorem reacted_occur {publish : State → State} (hp : ∀ s, Reacted s (publish s)) (n : Nat) (c : FaultClass)
    (d : FaultDetail) (s : State) : Reacted s (occur publish n c d s) := occurring_reacted.occur hp n c d s

theorem reacted_offerWith {publish : State → State} (hp : ∀ s, Reacted s (publish s)) (r : EgressRecord) (s : State) :
    Reacted s (offerWith publish r s) := occurring_reacted.offerWith hp r s

theorem reacted_storeSevere (s : State) : Reacted s s.storeSevere := by
  unfold State.storeSevere
  constructor <;> first | rfl | (intros; assumption) | skip
  · intro k hk
    simp only [State.setSlot_store_slots, Fin.getElem_fin]
    rw [Vector.getElem_set_ne]
    intro h
    exact hk (Fin.ext h.symm)
  · intros; rfl

theorem moving_presented (i : Fin 64) : Moving i Presented where
  refl := .refl
  trans := .trans
  own s r := presented_setTelltale s i r
  held := presented_setHeld
  lamp := presented_recomputeLamp
  messages := presented_messages

theorem presented_evaluateTelltale (s : State) (i : Fin 64) : Presented s (s.evaluateTelltale i).state :=
  (moving_presented i).evaluateTelltale s

theorem presented_press (s : State) : Presented s s.press.state := Moving.press moving_presented s

theorem reacted_evaluateReaders {publish : State → State} (hp : ∀ s, Reacted s (publish s)) (k : Fin 128) (s : State) :
    Reacted s (evaluateReaders publish k s) := by
  refine Reacted.foldl (fun s i => ?_) _ s
  split
  · exact (presented_evaluateTelltale s i).reacted.trans (occurring_reacted.reported hp _)
  · exact .refl s

theorem reacted_observeAck {publish : State → State} (hp : ∀ s, Reacted s (publish s)) (k : Fin 128) (s : State) :
    Reacted s (observeAck publish k s) := by
  have h : Reacted s (s.setSeen (s.slot k).seen) := (presented_messages s _).reacted
  unfold observeAck
  split
  · exact h.trans ((presented_press _).reacted.trans (occurring_reacted.reported hp _))
  · exact h

theorem reacted_evaluateTarget (s : State) (ch : Fin 6) : Reacted s (s.evaluateTarget ch) := by
  unfold State.evaluateTarget
  constructor <;> first | rfl | (intros; rfl) | (intros; assumption) | skip
  intro c
  simp only [State.setChannel_gauges_channels, Fin.getElem_fin, Vector.getElem_set]
  split
  · next h => simp only [h]
  · rfl

theorem reacted_gaugesObserve (s : State) (k : Fin 128) : Reacted s (s.gaugesObserve k) := by
  refine Reacted.foldl (fun s ch => ?_) _ s
  split
  · exact reacted_evaluateTarget s ch
  · exact .refl s

theorem reacted_observe {run : Reader → State → State} (hr : ∀ r s, Reacted s (run r s)) (l : List Reader) (s : State) :
    Reacted s (observe run l s) := by
  unfold observe
  split
  · exact Reacted.foldl (fun s r => hr r s) l s
  · exact (reacted_choices s _).trans (Reacted.foldl (fun s r => hr r s) _ _)

/-- A reader of a derived slot that is not ROAD_SPEED's crew reading. -/
theorem reacted_runDerived {publish : State → State} (hp : ∀ s, Reacted s (publish s)) (k : Fin 128) (r : Reader)
    (hr : r ≠ .road) (s : State) : Reacted s (runDerived publish k r s) := by
  cases r
  · exact reacted_evaluateReaders hp k s
  · exact reacted_observeAck hp k s
  · exact absurd rfl hr
  all_goals exact .refl s

theorem mem_when {r q : Reader} {b : Bool} (h : r ∈ q.when b) : r = q ∧ b = true := by
  cases b <;> simp_all [Reader.when]

theorem mem_arrange {n : Nat} {l : List Reader} {r : Reader} : r ∈ arrange n l ↔ r ∈ l := by
  induction l with
  | nil => simp [arrange]
  | cons a l ih =>
    unfold arrange
    split
    · next h => rw [h] at ih; simp at ih; simp [ih]
    · next q qs h =>
      rw [h] at ih
      rw [List.mem_insertIdx (by simp; exact Nat.le_of_lt_succ (Nat.mod_lt _ (by omega)))]
      simp only [List.mem_cons] at ih ⊢
      rw [ih]

theorem observe_induction {P : State → State → Prop} (hrefl : ∀ s, P s s) (htrans : ∀ s t u, P s t → P t u → P s u)
    (hchoices : ∀ s n, P s { s with choices := n }) {run : Reader → State → State} (l : List Reader) (s : State)
    (hr : ∀ r ∈ l, ∀ s, P s (run r s)) : P s (observe run l s) := by
  have hfold : ∀ (m : List Reader), (∀ r ∈ m, r ∈ l) → ∀ s, P s (m.foldl (fun s r => run r s) s) := by
    intro m
    induction m with
    | nil => intro _ s; exact hrefl s
    | cons a m ih =>
      intro hm s
      exact htrans _ _ _ (hr a (hm a (by simp)) s) (ih (fun r h => hm r (by simp [h])) _)
  unfold observe
  split
  · exact hfold l (fun _ h => h) s
  · exact htrans _ _ _ (hchoices s _) (hfold _ (fun r h => mem_arrange.mp h) _)

theorem reacted_derivedEvent {publish : State → State} (hp : ∀ s, Reacted s (publish s)) (k : Fin 128) (hk : k ≠ 120)
    (s : State) : Reacted s (derivedEvent publish k s) := by
  refine (reacted_gaugesObserve s k).trans ?_
  refine observe_induction .refl (fun _ _ _ => .trans) reacted_choices _ _ (fun r hr s => ?_)
  refine reacted_runDerived hp k r ?_ s
  rintro rfl
  simp only [State.derivedReaders, List.mem_append] at hr
  rcases hr with (h | h) | h
  · cases (mem_when h).1
  · cases (mem_when h).1
  · have := (mem_when h).2
    simp [hk] at this

theorem reacted_publish (n : Nat) (s : State) : Reacted s (publish n s) := by
  induction n generalizing s with
  | zero => exact reacted_storeSevere s
  | succ n ih => exact (reacted_storeSevere s).trans (reacted_derivedEvent ih 127 (by decide) _)

theorem reacted_publishSevere (s : State) : Reacted s (publishSevere s) := reacted_publish _ s

theorem reacted_raise (c : FaultClass) (d : FaultDetail) (s : State) : Reacted s (raise c d s) :=
  reacted_occur reacted_publishSevere ..

theorem reacted_raiseItem (c : FaultClass) (n : Nat) (s : State) : Reacted s (raiseItem c n s) := reacted_raise ..

theorem reacted_offer (r : EgressRecord) (s : State) : Reacted s (offer r s) := reacted_offerWith reacted_publishSevere ..

/-- An event taken whole and reported (R104, R163). -/
theorem reacted_whole {f : State → Change} (hf : ∀ s, Presented s (f s).state) (s : State) : Reacted s (whole f s) :=
  (hf s).reacted.trans (occurring_reacted.reported reacted_publishSevere _)

/-- An occurrence sets its class's status (R165, R166). -/
theorem occur_status {publish : State → State} (hp : ∀ s, Reacted s (publish s)) (n : Nat) (c : FaultClass)
    (d : FaultDetail) (s : State) : (occur publish n c d s).faults.status[c.number] = true := by
  have h₀ : ∀ m st, (s.faults.record c d st m).status[c.number] = true := by
    intro m st
    unfold Faults.record
    dsimp only
    split
    · simp
    · split <;> simp
  unfold occur
  dsimp only
  split <;> split
  all_goals try exact (hp _).status _ (h₀ _ _)
  all_goals try exact h₀ _ _
  all_goals
    split
    · first | exact (hp _).status _ (h₀ _ _) | exact h₀ _ _
    · split
      · first | exact (hp _).status _ (h₀ _ _) | exact h₀ _ _
      · first
          | exact (hp _).status _ ((reacted_occur hp _ _ _ _).status _ (h₀ _ _))
          | exact (reacted_occur hp _ _ _ _).status _ (h₀ _ _)

theorem raise_status (c : FaultClass) (d : FaultDetail) (s : State) : (raise c d s).faults.status[c.number] = true :=
  occur_status reacted_publishSevere ..

/-- A write of a derived slot other than ROAD_SPEED and slot 127. -/
theorem reacted_writeDerived (k : Fin 128) (hk : k ≠ 120) (x : Slot) (s : State) :
    Reacted (s.setSlot k x) (writeDerived k x s) := reacted_derivedEvent reacted_publishSevere k hk _

end Sys2Proof.Machine
end

