-- ==== Sys2Proof/Laws/Observations.lean ====
section
/-! SUPPORT. What the events of slots and all that their readers do leave alone (`Observed`): the speed selection, the Crew
Unit's events, and the events of decoded slots. -/

namespace Sys2Proof.Machine

theorem Observed.refl (s : State) : Observed s s := by
  constructor <;> first | rfl | (intros; rfl) | (intros; assumption)

theorem Observed.trans {s t u : State} (h : Observed s t) (g : Observed t u) : Observed s u where
  keepAlive := g.keepAlive.trans h.keepAlive
  resetHeld := g.resetHeld.trans h.resetHeld
  rawIgnition := g.rawIgnition.trans h.rawIgnition
  pending := g.pending.trans h.pending
  time := by rw [g.time, h.time]
  tables := g.tables.trans h.tables
  intake := g.intake.trans h.intake
  speed := by rw [g.speed, h.speed]
  portB := g.portB.trans h.portB
  hold := g.hold.trans h.hold
  stale := g.stale.trans h.stale
  slots k hk := (g.slots k hk).trans (h.slots k hk)
  filterTick := g.filterTick.trans h.filterTick
  motion ch := by rw [g.motion ch, h.motion ch]
  bulbCheck := g.bulbCheck.trans h.bulbCheck
  snapshots := g.snapshots.trans h.snapshots
  sent := g.sent.trans h.sent
  status c hc := g.status c (h.status c hc)
  capture k hk := g.capture k (h.capture k hk)

theorem Reacted.observed {s t : State} (h : Reacted s t) : Observed s t where
  keepAlive := h.keepAlive
  resetHeld := h.resetHeld
  rawIgnition := h.rawIgnition
  pending := h.pending
  time := by rw [h.time]
  tables := h.tables
  intake := h.intake
  speed := by rw [h.speed]
  portB := h.portB
  hold := h.hold
  stale := h.stale
  slots k hk := h.slots k (by rintro rfl; rcases hk with hk | hk <;> simp_all)
  filterTick := h.filterTick
  motion := h.motion
  bulbCheck := h.bulbCheck
  snapshots := by rw [h.crew]
  sent := h.sent
  status := h.status
  capture := h.capture

theorem Observed.foldl {α : Type} {f : State → α → State} (hf : ∀ s a, Observed s (f s a)) (l : List α) (s : State) :
    Observed s (l.foldl f s) := by
  induction l generalizing s with
  | nil => exact .refl s
  | cons a l ih => exact (hf s a).trans (ih _)

theorem observed_choices (s : State) (n : Nat) : Observed s { s with choices := n } := (reacted_choices s n).observed

/-- A slot that only its owner's rules write: 120 to 125 and 127. -/
theorem observed_setSlot (s : State) (k : Fin 128) (hk : 120 ≤ k.val ∧ k ≠ 126) (x : Slot) :
    Observed s (s.setSlot k x) := by
  constructor <;> first | rfl | (intros; assumption) | skip
  · intro j hj
    simp only [State.setSlot_store_slots, Fin.getElem_fin]
    rw [Vector.getElem_set_ne]
    intro h
    have h : k = j := Fin.ext h
    subst h
    rcases hj with hj | hj
    · omega
    · exact hk.2 hj
  · intros; rfl

theorem crew_setPlace_counter (c : Crew) (p : Fin 4) (r : Option CrewRecord) :
    (c.setPlace p r).snapshotCounter = c.snapshotCounter := rfl

theorem crew_updateAttached_counter (c : Crew) (x : CrewPosition) (f : CrewRecord → CrewRecord) :
    (c.updateAttached x f).snapshotCounter = c.snapshotCounter := by
  unfold Crew.updateAttached
  split <;> rfl

theorem crew_detach_counter (c : Crew) (x : CrewPosition) (now : Word32) :
    (c.detach x now).snapshotCounter = c.snapshotCounter := crew_updateAttached_counter ..

theorem crew_seat_counter (c : Crew) (cfg : CrewConfig) (now : Word32) (x : CrewPosition) (t : Word32) :
    (c.seat cfg now x t).snapshotCounter = c.snapshotCounter := by
  have hd : (c.detach x now).snapshotCounter = c.snapshotCounter := crew_detach_counter ..
  unfold Crew.seat
  split
  · exact hd
  · unfold Crew.seatNew
    split <;> exact hd

theorem crew_tokenUpdate_counter {c c' : Crew} {cfg : CrewConfig} {now : Word32} {x : CrewPosition} {t : Word32}
    (h : c.tokenUpdate cfg now x t = some c') : c'.snapshotCounter = c.snapshotCounter := by
  unfold Crew.tokenUpdate at h
  split at h
  · cases h
  · split at h
    · split at h
      · cases h
      · cases h; exact crew_detach_counter ..
    · cases h; exact crew_seat_counter ..

/-- A change of the crew's records. -/
theorem observed_setCrew (s : State) (c : Crew) (h : c.snapshotCounter = s.crew.snapshotCounter) :
    Observed s (s.setCrew c) := by
  constructor <;> first | rfl | exact h | (intros; rfl) | (intros; assumption)

theorem observed_deriveActivity (s : State) (x : CrewPosition) : Observed s (s.deriveActivity x) :=
  observed_setCrew s _ (crew_updateAttached_counter ..)

theorem observed_deriveFromRoad (s : State) : Observed s s.deriveFromRoad := by
  refine Observed.foldl (fun s x => ?_) _ s
  split
  · exact .refl s
  · exact observed_deriveActivity s x

theorem observed_runDerived (k : Fin 128) (r : Reader) (s : State) : Observed s (runDerived publishSevere k r s) := by
  by_cases hr : r = .road
  · subst hr; exact observed_deriveFromRoad s
  · exact (reacted_runDerived reacted_publishSevere k r hr s).observed

theorem observed_derivedEvent (k : Fin 128) (s : State) : Observed s (derivedEvent publishSevere k s) :=
  (reacted_gaugesObserve s k).observed.trans
    (observe_induction .refl (fun _ _ _ => .trans) observed_choices _ _ (fun r _ s => observed_runDerived k r s))

theorem observed_writeDerived (k : Fin 128) (hk : 120 ≤ k.val ∧ k ≠ 126) (x : Slot) (s : State) :
    Observed s (writeDerived k x s) := (observed_setSlot s k hk x).trans (observed_derivedEvent k _)

theorem observed_setSelection (s : State) (x : Selection) : Observed s (s.setSelection x) := by
  constructor <;> first | rfl | (intros; rfl) | (intros; assumption)

theorem observed_writeSelection (s : State) : Observed s (writeSelection s) := by
  unfold writeSelection
  exact (observed_setSelection s _).trans
    ((observed_writeDerived 120 (by decide) _ _).trans (observed_writeDerived 121 (by decide) _ _))

theorem observed_writeRemaining (s : State) : Observed s (writeRemaining s) := by
  unfold writeRemaining remainingSlots
  simp only [List.foldl_cons, List.foldl_nil]
  exact (observed_writeDerived 122 (by decide) _ _).trans ((observed_writeDerived 123 (by decide) _ _).trans
    ((observed_writeDerived 124 (by decide) _ _).trans (observed_writeDerived 125 (by decide) _ _)))

theorem observed_offerSnapshot (s : State) : Observed s (offerSnapshot s) := (reacted_offer _ s).observed

theorem observed_activityEvent (x : CrewPosition) (s : State) : Observed s (activityEvent x s) := by
  unfold activityEvent
  split
  · split
    · exact observed_deriveActivity s x
    · exact (observed_deriveActivity s x).trans (reacted_raise _ _ _).observed
  · exact .refl s

theorem observed_tokenEvent (x : CrewPosition) (t : Word32) (s : State) : Observed s (tokenEvent x t s) := by
  unfold tokenEvent
  split
  · exact .refl s
  · next h =>
    exact (observed_setCrew s _ (crew_tokenUpdate_counter h)).trans
      ((observed_writeRemaining _).trans (observed_offerSnapshot _))

theorem observed_tallyEvent (x : CrewPosition) (k : TallyCounter) (m : Word32) (s : State) :
    Observed s (tallyEvent x k m s) := by
  unfold tallyEvent
  split
  · exact .refl s
  · dsimp only
    have h := observed_setCrew s (s.crew.updateAttached x (CrewRecord.tally s.tables.crew k (tallySeconds m)))
      (crew_updateAttached_counter ..)
    split
    · refine (h.trans ?_).trans (observed_writeRemaining _)
      split
      · exact .refl _
      · exact (reacted_raise _ _ _).observed
    · exact h

theorem observed_setUtc (s : State) (u : Word32) : Observed s (s.setUtc u) := by
  constructor <;> first | rfl | (intros; rfl) | (intros; assumption)

theorem observed_runDecoded (k : Fin 120) (r : Reader) (s : State) : Observed s (runDecoded k r s) := by
  cases r
  · exact (reacted_evaluateReaders reacted_publishSevere _ s).observed
  · exact (reacted_observeAck reacted_publishSevere _ s).observed
  · exact .refl s
  · exact observed_writeSelection s
  · exact observed_activityEvent ..
  · exact observed_tokenEvent ..
  · exact observed_tallyEvent ..
  · exact observed_setUtc ..

/-- An event of a decoded slot (R18). -/
theorem observed_decodedEvent (c : SlotChange) (k : Fin 120) (s : State) : Observed s (decodedEvent c k s) :=
  (reacted_gaugesObserve s _).observed.trans
    (observe_induction .refl (fun _ _ _ => .trans) observed_choices _ _ (fun r _ s => observed_runDecoded k r s))

end Sys2Proof.Machine
end

