-- ==== Sys2Proof/Laws/Closed.lean ====
section
/-! SUPPORT. One induction over everything that reacts to an event: a relation that holds across each elementary change holds
across fault occurrences, offers, events taken whole, slot events and all that their readers do. -/

namespace Sys2Proof.Machine

/-- The elementary changes of a reaction (R57, R80, R105, R106, R166, R169, R176). -/
structure Closed (P : State → State → Prop) : Prop extends Occurring P where
  choices : ∀ s n, P s { s with choices := n }
  severe : ∀ s : State, P s s.storeSevere
  target : ∀ (s : State) ch, P s (s.evaluateTarget ch)
  evaluate : ∀ (s : State) i, s.telltaleActive i = true → P s (s.evaluateTelltale i).state
  seen : ∀ (s : State) l, P s (s.setSeen l)
  press : ∀ s : State, P s s.press.state

/-- The elementary changes that events of decoded slots and of ROAD_SPEED add (R47, R122, R130, R137, R139, R140). -/
structure ClosedEvents (P : State → State → Prop) : Prop extends Closed P where
  activity : ∀ (s : State) x, P s (s.deriveActivity x)
  token : ∀ s x t c, s.crew.tokenUpdate s.tables.crew s.time.mono x t = some c → P s (s.setCrew c)
  tally : ∀ s x k m, P s (s.setCrew (s.crew.updateAttached x (CrewRecord.tally s.tables.crew k (tallySeconds m))))
  utc : ∀ (s : State) u, P s (s.setUtc u)
  selection : ∀ (s : State) x, P s (s.setSelection x)
  slot : ∀ (s : State) (k : Fin 128) x, 120 ≤ k.val → k.val ≤ 125 → P s (s.setSlot k x)

variable {P : State → State → Prop}

theorem Closed.foldl (h : Closed P) {α : Type} {f : State → α → State} (hf : ∀ s a, P s (f s a)) (l : List α) (s : State) :
    P s (l.foldl f s) := by
  induction l generalizing s with
  | nil => exact h.refl s
  | cons a l ih => exact h.trans (hf s a) (ih _)

theorem Closed.evaluateReaders (h : Closed P) {publish : State → State} (hp : ∀ s, P s (publish s)) (k : Fin 128)
    (s : State) : P s (evaluateReaders publish k s) := by
  refine h.foldl (fun s i => ?_) _ s
  split
  · next ha =>
    simp only [Bool.and_eq_true] at ha
    exact h.trans (h.evaluate s i ha.1) (h.reported hp _)
  · exact h.refl s

theorem Closed.observeAck (h : Closed P) {publish : State → State} (hp : ∀ s, P s (publish s)) (k : Fin 128) (s : State) :
    P s (observeAck publish k s) := by
  unfold Machine.observeAck
  split
  · exact h.trans (h.seen s _) (h.trans (h.press _) (h.reported hp _))
  · exact h.seen s _

theorem Closed.gaugesObserve (h : Closed P) (s : State) (k : Fin 128) : P s (s.gaugesObserve k) := by
  refine h.foldl (fun s ch => ?_) _ s
  split
  · exact h.target s ch
  · exact h.refl s

theorem Closed.runDerived (h : Closed P) {publish : State → State} (hp : ∀ s, P s (publish s)) (k : Fin 128) (r : Reader)
    (hr : r ≠ .road) (s : State) : P s (runDerived publish k r s) := by
  cases r
  · exact h.evaluateReaders hp k s
  · exact h.observeAck hp k s
  · exact absurd rfl hr
  all_goals exact h.refl s

theorem Closed.derivedEvent (h : Closed P) {publish : State → State} (hp : ∀ s, P s (publish s)) (k : Fin 128)
    (hk : k ≠ 120) (s : State) : P s (derivedEvent publish k s) := by
  refine h.trans (h.gaugesObserve s k) ?_
  refine observe_induction h.refl (fun _ _ _ => h.trans) h.choices _ _ (fun r hr s => ?_)
  refine h.runDerived hp k r ?_ s
  rintro rfl
  simp only [State.derivedReaders, List.mem_append] at hr
  rcases hr with (g | g) | g
  · cases (mem_when g).1
  · cases (mem_when g).1
  · have := (mem_when g).2
    simp [hk] at this

theorem Closed.publish (h : Closed P) (n : Nat) (s : State) : P s (publish n s) := by
  induction n generalizing s with
  | zero => exact h.severe s
  | succ n ih => exact h.trans (h.severe s) (h.derivedEvent ih 127 (by decide) _)

theorem Closed.publishSevere (h : Closed P) (s : State) : P s (publishSevere s) := h.publish _ s

theorem Closed.raise (h : Closed P) (c : FaultClass) (d : FaultDetail) (s : State) : P s (raise c d s) :=
  h.occur h.publishSevere ..

theorem Closed.raiseItem (h : Closed P) (c : FaultClass) (n : Nat) (s : State) : P s (raiseItem c n s) := h.raise ..

theorem Closed.offer (h : Closed P) (r : EgressRecord) (s : State) : P s (offer r s) := h.offerWith h.publishSevere ..

/-- An event taken whole and reported (R104, R163). -/
theorem Closed.whole (h : Closed P) {f : State → Change} (hf : ∀ s, P s (f s).state) (s : State) : P s (whole f s) :=
  h.trans (hf s) (h.reported h.publishSevere _)

/-- The event of a derived slot other than ROAD_SPEED, after its write. -/
theorem Closed.writeDerived (h : Closed P) (k : Fin 128) (hk : k ≠ 120) (x : Slot) (s : State) :
    P (s.setSlot k x) (writeDerived k x s) := h.derivedEvent h.publishSevere k hk _

theorem ClosedEvents.deriveFromRoad (h : ClosedEvents P) (s : State) : P s s.deriveFromRoad := by
  refine h.toClosed.foldl (fun s x => ?_) _ s
  split
  · exact h.refl s
  · exact h.activity s x

/-- The event of any derived slot, after its write. -/
theorem ClosedEvents.derivedEvent (h : ClosedEvents P) (k : Fin 128) (s : State) :
    P s (derivedEvent Machine.publishSevere k s) := by
  refine h.trans (h.toClosed.gaugesObserve s k) ?_
  refine observe_induction h.refl (fun _ _ _ => h.trans) h.choices _ _ (fun r _ s => ?_)
  by_cases hr : r = .road
  · subst hr; exact h.deriveFromRoad s
  · exact h.toClosed.runDerived h.toClosed.publishSevere k r hr s

theorem ClosedEvents.writeDerived (h : ClosedEvents P) (k : Fin 128) (h₁ : 120 ≤ k.val) (h₂ : k.val ≤ 125) (x : Slot)
    (s : State) : P s (writeDerived k x s) := h.trans (h.slot s k x h₁ h₂) (h.derivedEvent k _)

theorem ClosedEvents.writeSelection (h : ClosedEvents P) (s : State) : P s (writeSelection s) := by
  unfold Machine.writeSelection
  exact h.trans (h.selection s _)
    (h.trans (h.writeDerived 120 (by decide) (by decide) _ _) (h.writeDerived 121 (by decide) (by decide) _ _))

theorem ClosedEvents.writeRemaining (h : ClosedEvents P) (s : State) : P s (writeRemaining s) := by
  unfold Machine.writeRemaining remainingSlots
  simp only [List.foldl_cons, List.foldl_nil]
  exact h.trans (h.writeDerived 122 (by decide) (by decide) _ _)
    (h.trans (h.writeDerived 123 (by decide) (by decide) _ _)
      (h.trans (h.writeDerived 124 (by decide) (by decide) _ _) (h.writeDerived 125 (by decide) (by decide) _ _)))

theorem ClosedEvents.runDecoded (h : ClosedEvents P) (k : Fin 120) (r : Reader) (s : State) : P s (runDecoded k r s) := by
  have hc := h.toClosed
  cases r with
  | telltales => exact hc.evaluateReaders hc.publishSevere ..
  | ack => exact hc.observeAck hc.publishSevere ..
  | road => exact h.refl s
  | speed => exact h.writeSelection s
  | activity x =>
    show P s (activityEvent x s)
    unfold activityEvent
    split
    · split
      · exact h.activity s x
      · exact h.trans (h.activity s x) (hc.raise ..)
    · exact h.refl s
  | token x =>
    show P s (tokenEvent x _ s)
    unfold tokenEvent
    split
    · exact h.refl s
    · next c hc' => exact h.trans (h.token _ _ _ c hc') (h.trans (h.writeRemaining _) (hc.offer ..))
  | tally x c =>
    show P s (tallyEvent x c _ s)
    unfold tallyEvent
    split
    · exact h.refl s
    · have ht := h.tally s x c (s.slot (decodedSlot k)).value
      dsimp only
      split
      · refine h.trans (h.trans ht ?_) (h.writeRemaining _)
        split
        · exact h.refl _
        · exact hc.raise ..
      · exact ht
  | time => exact h.utc ..

/-- The event of a decoded slot, after its change. -/
theorem ClosedEvents.decodedEvent (h : ClosedEvents P) (c : SlotChange) (k : Fin 120) (s : State) :
    P s (decodedEvent c k s) :=
  h.trans (h.toClosed.gaugesObserve s _)
    (observe_induction h.refl (fun _ _ _ => h.trans) h.choices _ _ (fun r _ s => h.runDecoded k r s))

theorem closed_reacted : Closed Reacted where
  toOccurring := occurring_reacted
  choices := reacted_choices
  severe := reacted_storeSevere
  target := reacted_evaluateTarget
  evaluate s i _ := (presented_evaluateTelltale s i).reacted
  seen s _ := (presented_messages s _).reacted
  press s := (presented_press s).reacted

end Sys2Proof.Machine
end

