-- ==== Sys2Proof/Laws/Occurrences.lean ====
section
/-! SUPPORT. What a fault occurrence and an offer to the egress queue do (`RaisedWith`, `OfferedWith`), and with them the reports of a
change (`ReportedWith`), whoever observes the writes of slot 127; Laws/Published.lean has them with the readers of slot 127. -/

namespace Sys2Proof.Machine

/-- Across a reaction a queued NOTICE stays queued, a held capture keeps its overflow flag, and a full queue stays full with no new
NOTICE. -/
structure KeepsNotices (s t : State) : Prop where
  queued : ∀ x ∈ s.link.egress, x.kind = .notice → x ∈ t.link.egress
  capture : ∀ k, s.faults.capture = some k → t.faults.capture = some k
  overflow : s.faults.overflow = true → t.faults.overflow = true
  full : 32 ≤ s.link.egress.length →
    t.link.egress.length = s.link.egress.length ∧ ∀ x ∈ t.link.egress, x.kind = .notice → x ∈ s.link.egress

theorem keepsNotices_same {s t : State} (h : t.link.egress = s.link.egress) (hf : t.faults = s.faults) : KeepsNotices s t := by
  constructor
  · rw [h]; exact fun x hx _ => hx
  · rw [hf]; exact fun k hk => hk
  · rw [hf]; exact fun ho => ho
  · rw [h]; exact fun _ => ⟨rfl, fun x hx _ => hx⟩

theorem presented_keepsNotices {s t : State} (h : Presented s t) : KeepsNotices s t := by
  rw [h.rest]; exact keepsNotices_same rfl rfl

theorem mem_eraseP_of_kind {l : List EgressRecord} {x : EgressRecord} {p : EgressRecord → Bool} (hx : x ∈ l)
    (hp : p x = false) : x ∈ l.eraseP p :=
  (List.mem_eraseP_of_neg (by simp [hp])).2 hx

theorem occurring_keepsNotices : Occurring KeepsNotices where
  refl _ := keepsNotices_same rfl rfl
  trans h g := by
    refine ⟨fun x hx hk => g.queued x (h.queued x hx hk) hk, fun k hk => g.capture k (h.capture k hk),
      fun ho => g.overflow (h.overflow ho), fun hl => ?_⟩
    have h' := h.full hl
    have g' := g.full (by rw [h'.1]; exact hl)
    exact ⟨g'.1.trans h'.1, fun x hx hk => h'.2 x (g'.2 x hx hk) hk⟩
  egress s r q hq := by
    refine ⟨fun x hx hk => ?_, fun k hk => hk, fun h => h, fun hl => ?_⟩
    all_goals unfold egressAccept at hq
    · show x ∈ q
      split at hq
      · cases hq; exact List.mem_append_left _ hx
      · split at hq
        · next hr =>
          cases hq
          refine List.mem_append_left _ (mem_eraseP_of_kind hx ?_)
          rw [hk]
          have hr := hr.1
          cases hr' : r.kind <;> simp_all [RecordKind.replaces]
        · cases hq
    · show q.length = _ ∧ ∀ x ∈ q, _
      rw [if_neg (fun h => by have := h.1; simp only [Config.egressPlaces] at this; omega)] at hq
      split at hq
      · next hr =>
        cases hq
        refine ⟨?_, fun x hx hk => ?_⟩
        · rw [List.length_append, List.length_eraseP, if_pos hr.2]
          simp only [List.length_singleton]
          omega
        · rcases List.mem_append.1 hx with h | h
          · exact List.mem_of_mem_eraseP h
          · rw [List.mem_singleton.1 h] at hk
            have := hr.1
            rw [hk] at this
            cases this
      · cases hq
  record s c d st m := by
    refine ⟨fun x hx _ => hx, fun k hk => record_capture _ _ _ _ _ _ hk, fun ho => ?_, fun _ => ⟨rfl, fun x hx _ => hx⟩⟩
    show (s.faults.record c d st m).overflow = true
    unfold Faults.record
    dsimp only
    split
    · exact ho
    · split
      · exact ho
      · rfl

theorem closed_keepsNotices : Closed KeepsNotices where
  toOccurring := occurring_keepsNotices
  choices _ _ := keepsNotices_same rfl rfl
  severe _ := keepsNotices_same rfl rfl
  target _ _ := keepsNotices_same rfl rfl
  evaluate s i _ := presented_keepsNotices (presented_evaluateTelltale s i)
  seen _ _ := keepsNotices_same rfl rfl
  press s := presented_keepsNotices (presented_press s)

/-- The machine's steps 1 and 2 of an occurrence (R166, R167). -/
theorem recorded_eq (s : State) (c : FaultClass) (d : FaultDetail) :
    { s with faults := s.faults.record c d s.stamp (s.tables.policy[c.number]).masked } = s.recorded c d := by
  unfold State.recorded Faults.record
  dsimp only
  cases (s.tables.policy[c.number]).masked <;> cases s.faults.capture <;> simp

theorem recorded_faults (s : State) (c : FaultClass) (d : FaultDetail) :
    s.faults.record c d s.stamp (s.tables.policy[c.number]).masked = (s.recorded c d).faults := by
  rw [← recorded_eq]

theorem set_true_of_getElem {n : Nat} (v : Vector Bool n) (i : Fin n) (h : v[i] = true) : v.set i true = v := by
  ext j hj
  rw [Vector.getElem_set]
  split
  · next he => subst he; exact h.symm
  · rfl

/-- An occurrence at the Fault Unit, its status set at step 1 (R166). -/
theorem recorded_status (s : State) (c : FaultClass) (d : FaultDetail) : (s.recorded c d).faults.status[c.number] = true :=
  Vector.getElem_set_self ..

/-! ### The four cases of an occurrence (R166, R168) -/

/-- A class that was set. -/
theorem occur_again {publish : State → State} {n : Nat} {c : FaultClass} {d : FaultDetail} {s : State}
    (h : s.faults.status[c.number] = true) : Machine.occur publish n c d s = s.recorded c d := by
  unfold Machine.occur
  simp only [h]
  exact recorded_eq s c d

/-- A masked class that was clear. -/
theorem occur_masked {publish : State → State} {n : Nat} {c : FaultClass} {d : FaultDetail} {s : State}
    (h : s.faults.status[c.number] = false) (hm : (s.tables.policy[c.number]).masked = true) :
    Machine.occur publish n c d s = publish (s.recorded c d) := by
  unfold Machine.occur
  dsimp only
  rw [recorded_eq, h, hm]
  rfl

/-- A NOTICE that finds room (R176). -/
theorem occur_noticed {publish : State → State} {n : Nat} {c : FaultClass} {d : FaultDetail} {s : State}
    (h : s.faults.status[c.number] = false) (hm : (s.tables.policy[c.number]).masked = false) (hl : s.link.egress.length < 32) :
    Machine.occur publish n c d s = publish { s.recorded c d with link := { s.link with egress := s.link.egress ++
      [.notice c d s.stamp (s.recorded c d).faults.status (s.recorded c d).faults.overflow] } } := by
  have hq : egressAccept s.link.egress (.notice c d s.stamp (s.recorded c d).faults.status (s.recorded c d).faults.overflow) =
      some (s.link.egress ++ [.notice c d s.stamp (s.recorded c d).faults.status (s.recorded c d).faults.overflow]) := by
    unfold egressAccept
    rw [if_pos ⟨hl, fun h => by cases h⟩]
  unfold Machine.occur
  dsimp only
  rw [recorded_eq, recorded_faults, hq, h, hm]
  rfl

/-- A full queue takes no NOTICE (R176). -/
theorem egressAccept_notice_full (q : List EgressRecord) (r : EgressRecord) (hr : r.kind = .notice) (h : 32 ≤ q.length) :
    egressAccept q r = none := by
  unfold egressAccept
  rw [if_neg (fun g => by have := g.1; simp only [Config.egressPlaces] at this; omega), if_neg]
  rw [hr]; exact fun g => by cases g.1

/-- A NOTICE that meets a full queue (R168). -/
theorem occur_dropped {publish : State → State} {n : Nat} {c : FaultClass} {d : FaultDetail} {s : State}
    (h : s.faults.status[c.number] = false) (hm : (s.tables.policy[c.number]).masked = false) (hl : 32 ≤ s.link.egress.length) :
    Machine.occur publish (n + 1) c d s =
      publish (Machine.occur publish n .linkOverrun (.item RecordKind.notice.code) (s.recorded c d)) := by
  have hq := egressAccept_notice_full s.link.egress
    (.notice c d s.stamp (s.recorded c d).faults.status (s.recorded c d).faults.overflow) rfl hl
  conv_lhs => unfold Machine.occur
  dsimp only
  rw [recorded_eq, recorded_faults, hq, h, hm]
  rfl

/-- One more level of the chain of dropped NOTICEs (R168). -/
theorem occurred_step {told : State → State → Prop} {publish : State → State} (ht : ∀ s, told s (publish s)) {n : Nat}
    {c : FaultClass} {d : FaultDetail} {s : State}
    (h : Occurred told (s.recorded c d) .linkOverrun (.item RecordKind.notice.code)
      (Machine.occur publish n .linkOverrun (.item RecordKind.notice.code) (s.recorded c d))) :
    Occurred told s c d (Machine.occur publish (n + 1) c d s) := by
  cases hs : s.faults.status[c.number] with
  | true => rw [occur_again hs]; exact .again hs
  | false =>
    cases hm : (s.tables.policy[c.number]).masked with
    | true => rw [occur_masked hs hm]; exact .masked hs hm (ht _)
    | false =>
      by_cases hl : s.link.egress.length < 32
      · rw [occur_noticed hs hm hl]; exact .noticed hs hm hl (ht _)
      · rw [occur_dropped hs hm (not_lt.1 hl)]; exact .dropped hs hm (not_lt.1 hl) h (ht _)

/-- A depth of 2 takes the chain to its end: the second LINK_OVERRUN finds its status set (R168). -/
theorem raiseWith_occurred {told : State → State → Prop} {publish : State → State} (ht : ∀ s, told s (publish s))
    (c : FaultClass) (d : FaultDetail) (s : State) : Occurred told s c d (raiseWith publish c d s) := by
  refine occurred_step ht (occurred_step ht ?_)
  rw [occur_again (recorded_status ..)]
  exact .again (recorded_status ..)

/-! ### What an occurrence comes to -/

/-- What follows steps 1 and 2 of an occurrence is a reaction. -/
theorem Occurring.occur_recorded {P : State → State → Prop} (h : Occurring P) {publish : State → State}
    (hp : ∀ s, P s (publish s)) (n : Nat) (c : FaultClass) (d : FaultDetail) (s : State) :
    P (s.recorded c d) (Machine.occur publish n c d s) := by
  have key : ∀ b : Bool, ∀ x, P (s.recorded c d) x → P (s.recorded c d) (if b then publish x else x) := by
    intro b x hx
    cases b
    · exact hx
    · exact h.trans hx (hp x)
  unfold Machine.occur
  dsimp only
  rw [recorded_eq]
  refine key _ _ ?_
  split
  · split
    · next q hq => exact h.egress (s.recorded c d) _ q hq
    · cases n with
      | zero => exact h.refl _
      | succ n => exact h.occur hp ..
  · exact h.refl _

theorem recorded_capture (s : State) (c : FaultClass) (d : FaultDetail) (hm : (s.tables.policy[c.number]).masked = false) :
    (s.recorded c d).faults.capture = some (s.faults.capture.getD ⟨c, d, s.stamp⟩) := by
  unfold State.recorded
  rw [hm]
  simp

theorem recorded_overflow (s : State) (c : FaultClass) (d : FaultDetail) (hm : (s.tables.policy[c.number]).masked = false) :
    (s.recorded c d).faults.overflow = (s.faults.overflow || s.faults.capture.isSome) := by
  unfold State.recorded
  rw [hm]
  simp

/-- A masked class leaves capture and overflow flag (R166). -/
theorem recorded_masked (s : State) (c : FaultClass) (d : FaultDetail) (hm : (s.tables.policy[c.number]).masked = true) :
    s.recorded c d = { s with faults := { s.faults with status := s.faults.status.set c.number true } } := by
  unfold State.recorded
  rw [hm]
  simp

/-- An occurrence at the Fault Unit (R163, R166 to R168), whatever observes the writes of slot 127. -/
theorem raiseWith_spec {told : State → State → Prop} {publish : State → State} (hp : ∀ s, Reacted s (publish s))
    (hk : ∀ s, KeepsNotices s (publish s)) (ht : ∀ s, told s (publish s)) (c : FaultClass) (d : FaultDetail) (s : State) :
    RaisedWith told s c d (raiseWith publish c d s) := by
  have after : KeepsNotices (s.recorded c d) (raiseWith publish c d s) := occurring_keepsNotices.occur_recorded hk 2 c d s
  have hset := recorded_status s c d
  refine ⟨raiseWith_occurred ht .., reacted_occur hp .., ?_, ?_, ?_, ?_, ?_, ?_, ?_⟩
  · exact (occurring_reacted.occur_recorded hp 2 c d s).status _ hset
  · intro h
    have hr : raiseWith publish c d s = s.recorded c d := occur_again h
    rw [hr]
    unfold State.recorded
    rw [set_true_of_getElem _ _ h]
  · intro h hm
    have hr : raiseWith publish c d s = publish (s.recorded c d) := occur_masked h hm
    rw [hr, recorded_masked s c d hm]
    exact ht _
  · intro hm hc
    refine after.capture _ ?_
    rw [recorded_capture s c d hm, hc]
    rfl
  · intro hm hc
    refine after.overflow ?_
    rw [recorded_overflow s c d hm, Option.isSome_iff_ne_none.2 hc, Bool.or_true]
  · intro hs hm hl
    have hr : raiseWith publish c d s = _ := occur_noticed hs hm hl
    rw [hr, recorded_overflow s c d hm]
    refine (hk _).queued _ ?_ rfl
    exact List.mem_append_right _ (List.mem_singleton.2 rfl)
  · intro hs hm hl
    have hfull := after.full hl
    have he : raiseWith publish c d s = _ := occur_dropped hs hm hl
    refine ⟨?_, ?_, hfull⟩
    · rw [he]
      exact (hp _).status _ (occur_status hp ..)
    · intro ho
      rw [he]
      refine (hk _).overflow ((occurring_keepsNotices.occur_recorded hk 1 _ _ _).overflow ?_)
      rw [recorded_overflow (s.recorded c d) _ _ ho, recorded_capture s c d hm]
      exact Bool.or_true _

/-- An offer to the egress queue (R176), whatever observes the writes of slot 127. -/
theorem offerWith_spec {told : State → State → Prop} {publish : State → State} (hp : ∀ s, Reacted s (publish s))
    (hk : ∀ s, KeepsNotices s (publish s)) (ht : ∀ s, told s (publish s)) (r : EgressRecord) (s : State) :
    OfferedWith told s r (offerWith publish r s) := by
  unfold OfferedWith offerWith egressAccept
  by_cases h : s.link.egress.length < 32 ∧
      (r.kind = .forward → s.link.egress.countP (fun x => x.kind == .forward) < 24)
  · rw [if_pos h]
    have h' : s.link.egress.length < Config.egressPlaces ∧
        (r.isForward = true → s.link.egress.countP EgressRecord.isForward < Config.egressForwardPlaces) :=
      ⟨h.1, fun hf => h.2 (by simpa [EgressRecord.isForward] using hf)⟩
    rw [if_pos h']
    rfl
  · rw [if_neg h]
    have h' : ¬ (s.link.egress.length < Config.egressPlaces ∧
        (r.isForward = true → s.link.egress.countP EgressRecord.isForward < Config.egressForwardPlaces)) :=
      fun g => h ⟨g.1, fun hf => g.2 (by simp [EgressRecord.isForward, hf])⟩
    rw [if_neg h']
    have hk' : (r.kind.replaces = true ∧ s.link.egress.any (fun x => x.kind == r.kind) = true) ↔
        ((r.kind = .present ∨ r.kind = .crewSnapshot) ∧ ∃ x ∈ s.link.egress, x.kind = r.kind) := by
      cases hr : r.kind <;> simp [RecordKind.replaces]
    by_cases g : (r.kind = .present ∨ r.kind = .crewSnapshot) ∧ ∃ x ∈ s.link.egress, x.kind = r.kind
    · rw [if_pos g, if_pos (hk'.2 g)]
      rfl
    · rw [if_neg g, if_neg (fun x => g (hk'.1 x))]
      exact raiseWith_spec hp hk ht ..

/-- The reports of a change, each completed before the next (R102, R107, R163), whatever observes the writes of slot 127. -/
theorem reported_spec {told : State → State → Prop} {publish : State → State} (hp : ∀ s, Reacted s (publish s))
    (hk : ∀ s, KeepsNotices s (publish s)) (ht : ∀ s, told s (publish s)) (c : Change) :
    ReportedWith told c.reports c.state (c.reported publish) := by
  unfold Change.reported
  generalize c.state = s
  induction c.reports generalizing s with
  | nil => rfl
  | cons r l ih =>
    refine ⟨report publish r s, ?_, ih _⟩
    cases r with
    | dropped i => exact raiseWith_spec hp hk ht ..
    | present => exact offerWith_spec hp hk ht ..

end Sys2Proof.Machine
end

