-- ==== Sys2Proof/Laws/MessageUnit.lean ====
section
/-! SUPPORT. What the Message Unit's events do: an offer (`OfferTaken`), a withdrawal (`Withdrawn`), a press (`Pressed`): the lemmas to
cite wherever a telltale moves or a press is taken. -/

namespace Sys2Proof.Machine

/-! ### The two selections over the ring -/

/-- The best record is the oldest of the highest priority (R98). -/
theorem bestRecord_split : ∀ {l : List Presentation} {b : Presentation}, bestRecord l = some b →
    ∃ old new, l = old ++ b :: new ∧ (∀ q ∈ old, q.priority < b.priority) ∧ ∀ q ∈ new, q.priority ≤ b.priority
  | [], b, h => by cases h
  | p :: ps, b, h => by
    unfold bestRecord at h
    cases hb : bestRecord ps with
    | none =>
      rw [hb] at h
      cases h
      refine ⟨[], ps, rfl, by simp, fun q hq => ?_⟩
      cases ps with
      | nil => cases hq
      | cons x xs =>
        unfold bestRecord at hb
        split at hb
        · cases hb
        · split at hb <;> cases hb
    | some c =>
      rw [hb] at h
      obtain ⟨old, new, rfl, ho, hn⟩ := bestRecord_split hb
      dsimp only at h
      split at h
      · next hlt =>
        cases h
        exact ⟨p :: old, new, rfl, fun q hq => by rcases List.mem_cons.1 hq with rfl | hq; exacts [hlt, ho q hq], hn⟩
      · next hge =>
        cases h
        refine ⟨[], old ++ c :: new, rfl, by simp, fun q hq => ?_⟩
        rcases List.mem_append.1 hq with hq | hq
        · exact (ho q hq).le.trans (not_lt.1 hge)
        · rcases List.mem_cons.1 hq with rfl | hq
          · exact not_lt.1 hge
          · exact (hn q hq).trans (not_lt.1 hge)

theorem bestRecord_none {l : List Presentation} (h : bestRecord l = none) : l = [] := by
  cases l with
  | nil => rfl
  | cons p ps =>
    unfold bestRecord at h
    split at h
    · cases h
    · split at h <;> cases h

/-- The weakest record is the oldest of the lowest priority (R98). -/
theorem weakestRecord_split : ∀ {l : List Presentation} {w : Presentation}, weakestRecord l = some w →
    ∃ old new, l = old ++ w :: new ∧ (∀ q ∈ old, w.priority < q.priority) ∧ ∀ q ∈ new, w.priority ≤ q.priority
  | [], b, h => by cases h
  | p :: ps, b, h => by
    unfold weakestRecord at h
    cases hb : weakestRecord ps with
    | none =>
      rw [hb] at h
      cases h
      refine ⟨[], ps, rfl, by simp, fun q hq => ?_⟩
      cases ps with
      | nil => cases hq
      | cons x xs =>
        unfold weakestRecord at hb
        split at hb
        · cases hb
        · split at hb <;> cases hb
    | some c =>
      rw [hb] at h
      obtain ⟨old, new, rfl, ho, hn⟩ := weakestRecord_split hb
      dsimp only at h
      split at h
      · next hlt =>
        cases h
        exact ⟨p :: old, new, rfl, fun q hq => by rcases List.mem_cons.1 hq with rfl | hq; exacts [hlt, ho q hq], hn⟩
      · next hge =>
        cases h
        refine ⟨[], old ++ c :: new, rfl, by simp, fun q hq => ?_⟩
        rcases List.mem_append.1 hq with hq | hq
        · exact (not_lt.1 hge).trans (ho q hq).le
        · rcases List.mem_cons.1 hq with rfl | hq
          · exact not_lt.1 hge
          · exact (not_lt.1 hge).trans (hn q hq)

theorem weakestRecord_none {l : List Presentation} (h : weakestRecord l = none) : l = [] := by
  cases l with
  | nil => rfl
  | cons p ps =>
    unfold weakestRecord at h
    split at h
    · cases h
    · split at h <;> cases h

/-- Removing a record whose priority none before it has removes it where it stands. -/
theorem erase_split {old new : List Presentation} {b : Presentation} (h : ∀ q ∈ old, q.priority ≠ b.priority) :
    (old ++ b :: new).erase b = old ++ new := by
  have : b ∉ old := fun hb => h b hb rfl
  rw [List.erase_append_right _ this, List.erase_cons_head]

/-! ### Offers -/

/-- A record enters the ring, or one is dropped (R102). -/
theorem enterRing_spec (m : Messages) (p : Presentation) : RingEntered m p (m.enterRing p).1 (m.enterRing p).2 := by
  unfold RingEntered Messages.enterRing
  by_cases h : m.ring.length < 16
  · rw [if_pos h, if_pos (show m.ring.length < Config.ringPlaces from h)]; exact ⟨rfl, rfl⟩
  · rw [if_neg h, if_neg (show ¬ m.ring.length < Config.ringPlaces from h)]
    cases hw : weakestRecord m.ring with
    | none => rw [weakestRecord_none hw] at h; simp at h
    | some w =>
      obtain ⟨old, new, hr, ho, hn⟩ := weakestRecord_split hw
      refine ⟨old, w, new, hr, ho, hn, ?_⟩
      dsimp only
      have he : m.ring.erase w = old ++ new := by
        rw [hr]; exact erase_split fun q hq => (ho q hq).ne'
      by_cases g : w.priority < p.priority
      · rw [if_pos g, if_pos g, he]; exact ⟨rfl, rfl⟩
      · rw [if_neg g, if_neg g]; exact ⟨rfl, rfl⟩

theorem spill_spec (m : Messages) : Spilled m m.spill.1 m.spill.2 := by
  unfold Spilled Messages.spill
  cases hs : m.stack with
  | nil => exact ⟨rfl, rfl⟩
  | cons b rest =>
    dsimp only
    by_cases h : 4 ≤ (b :: rest).length
    · rw [if_pos h, if_pos (show Config.stackPlaces ≤ (b :: rest).length from h)]; exact enterRing_spec ..
    · rw [if_neg h, if_neg (show ¬ Config.stackPlaces ≤ (b :: rest).length from h)]; exact ⟨rfl, rfl⟩

/-- An offer at the places (R100, R101). -/
theorem place_spec (m : Messages) (p : Presentation) : OfferPlaced m p (m.place p).1 (m.place p).2 := by
  unfold OfferPlaced Messages.place
  cases m.current with
  | none => exact ⟨rfl, rfl⟩
  | some c =>
    dsimp only
    by_cases h : c.priority < p.priority
    · rw [if_pos h, if_pos h]; exact ⟨_, _, spill_spec m, rfl, rfl⟩
    · rw [if_neg h, if_neg h]; exact enterRing_spec ..

/-- Each telltale whose record was dropped holds none (R85). -/
theorem hear_eq (l : List MessageReport) (s : State) : l.foldl State.hear s =
    { s with telltales := { s.telltales with records := (Vector.ofFn fun j : Fin 64 =>
      if (.dropped j) ∈ l then { s.telltales.records[j] with held := .none } else s.telltales.records[j]) } } := by
  have one : ∀ (s : State) (v w : Vector Telltale 64), v = w → ({ s with telltales := { s.telltales with records := v } } : State) =
      { s with telltales := { s.telltales with records := w } } := fun _ _ _ h => by rw [h]
  induction l generalizing s with
  | nil =>
    have : (Vector.ofFn fun j : Fin 64 => s.telltales.records[j]) = s.telltales.records := by ext j hj : 1; simp
    simp only [List.foldl_nil, List.not_mem_nil, if_false, this]
  | cons r l ih =>
    rw [List.foldl_cons, ih]
    cases r with
    | present =>
      refine one s _ _ ?_
      ext j hj : 1
      simp [State.hear]
    | dropped i =>
      refine one s _ _ ?_
      ext j hj : 1
      simp only [State.hear, State.setHeld, State.setTelltale, Vector.getElem_ofFn, Fin.getElem_fin, Vector.getElem_set,
        List.mem_cons, MessageReport.dropped.injEq, Fin.ext_iff]
      by_cases h : i.val = j
      · subst h; simp
      · have h' : ¬ j = i.val := fun e => h e.symm
        simp only [h, h', if_false, false_or]

/-- An offer is taken (R85, R100 to R102). -/
theorem placeOffer_spec (s : State) (p : Presentation) : OfferTaken s p (s.placeOffer p).state (s.placeOffer p).reports :=
  ⟨_, place_spec s.messages p, hear_eq _ _⟩

/-! ### Removals, withdrawals and the press -/

theorem removeCurrent_next (m : Messages) : NextChosen m m.removeCurrent := by
  unfold NextChosen Messages.removeCurrent
  cases ht : m.stack.getLast? with
  | none =>
    have hs : m.stack = [] := List.getLast?_eq_none_iff.1 ht
    cases hb : bestRecord m.ring with
    | none => exact Or.inl ⟨hs, bestRecord_none hb, rfl⟩
    | some b =>
      obtain ⟨old, new, hr, ho, hn⟩ := bestRecord_split hb
      refine Or.inr (Or.inr ⟨old, b, new, hr, ho, hn, by simp, ?_⟩)
      dsimp only
      rw [hr, erase_split fun q hq => (ho q hq).ne]
  | some top =>
    have hs : m.stack = m.stack.dropLast ++ [top] := by
      obtain ⟨l, hl⟩ := List.getLast?_eq_some_iff.1 ht
      rw [hl, List.dropLast_concat]
    cases hb : bestRecord m.ring with
    | none =>
      refine Or.inr (Or.inl ⟨_, top, hs, ?_, rfl⟩)
      rw [bestRecord_none hb]; simp
    | some b =>
      obtain ⟨old, new, hr, ho, hn⟩ := bestRecord_split hb
      dsimp only
      by_cases h : top.priority < b.priority
      · rw [if_pos h]
        refine Or.inr (Or.inr ⟨old, b, new, hr, ho, hn, by simpa using h, ?_⟩)
        rw [hr, erase_split fun q hq => (ho q hq).ne]
      · rw [if_neg h]
        refine Or.inr (Or.inl ⟨_, top, hs, fun q hq => ?_, rfl⟩)
        rw [hr] at hq
        rcases List.mem_append.1 hq with hq | hq
        · exact (ho q hq).le.trans (not_lt.1 h)
        · rcases List.mem_cons.1 hq with rfl | hq
          · exact not_lt.1 h
          · exact (hn q hq).trans (not_lt.1 h)

/-- A withdrawal (R104). -/
theorem withdraw_spec (s : State) (i : Fin 64) : Withdrawn s i (s.withdraw i).state (s.withdraw i).reports := by
  unfold Withdrawn State.withdraw Messages.withdraw
  have hc : s.messages.current.any (fun c => c.telltale == i) = true ↔ s.messages.current.map Presentation.telltale = some i := by
    cases s.messages.current <;> simp
  dsimp only
  by_cases h : s.messages.current.map Presentation.telltale = some i
  · rw [if_pos h, if_pos (hc.2 h)]; exact ⟨⟨_, removeCurrent_next _, rfl⟩, rfl⟩
  · rw [if_neg h, if_neg (fun g => h (hc.1 g))]; exact ⟨rfl, rfl⟩

/-- A chime request removed (R109, R110). -/
theorem removeRequest_spec (s : State) (i : Fin 64) : RequestRemoved s i (s.removeRequest i) := by
  unfold RequestRemoved State.removeRequest
  cases hr : s.messages.requests[i] with
  | none => rw [if_pos rfl]
  | some r =>
    rw [if_neg (by simp)]
    have stands : ∀ a, s.messages.arbiter = a → { s with messages := { s.messages with
        requests := (s.messages.requests.set i none), arbiter := a } } = s.setRequest i none := by
      rintro a rfl; rfl
    dsimp only
    split
    · next ha =>
      have ha : s.messages.arbiter = .idle := ha
      rw [ha]
      exact congrArg State.choose (stands _ ha).symm
    · next j phase left tone ha =>
      have ha : s.messages.arbiter = .playing j phase left tone := ha
      rw [ha]
      dsimp only
      by_cases h : j = i
      · rw [if_pos h, if_pos h]; rfl
      · rw [if_neg h, if_neg h]
        exact congrArg State.choose (stands _ ha).symm

/-- A press (R106). -/
theorem press_spec (s : State) : Pressed s s.press.state s.press.reports := by
  unfold Pressed State.press
  cases s.messages.current with
  | none => exact ⟨rfl, rfl⟩
  | some c =>
    dsimp only
    by_cases h : c.acknowledgeable = true
    · rw [if_pos h, if_pos h]; exact ⟨⟨_, removeCurrent_next _, removeRequest_spec ..⟩, rfl⟩
    · rw [if_neg h, if_neg h]; exact ⟨rfl, rfl⟩

end Sys2Proof.Machine
end

