-- ==== Sys2Proof/Laws/Moves.lean ====
section
/-! SUPPORT. What the moves of the part leave: warm start, SLEEP entry, the end of an event (`WarmStarted`, `SleepEntered`,
`Concluded`). -/

namespace Sys2Proof.Machine

/-! ### Writes of slots -/

/-- A slot of the store after a write. -/
theorem slot_setSlot (s : State) (k j : Fin 128) (x : Slot) : (s.setSlot k x).slot j = if k = j then x else s.slot j := by
  unfold State.slot
  simp only [State.setSlot_store_slots, Fin.getElem_fin, Vector.getElem_set, Fin.ext_iff]

theorem slot_of_store {s t : State} (h : t.store.slots = s.store.slots) (j : Fin 128) : t.slot j = s.slot j := by
  unfold State.slot; rw [h]

/-- What a remaining-time slot takes depends on the crew, the limits and the slot itself. -/
theorem remainingContent_congr {s t : State} {k : Fin 128} (hc : t.crew.places = s.crew.places) (ht : t.tables = s.tables)
    (hk : t.slot k = s.slot k) (x : CrewPosition) (c : TallyCounter) :
    t.remainingContent k x c = s.remainingContent k x c := by
  have : t.crew.attached x = s.crew.attached x := by
    unfold Crew.attached Crew.attachedPlace Crew.find
    rw [hc]
  unfold State.remainingContent
  rw [this, ht, hk]

theorem remainingContent_setSlot (s : State) (j k : Fin 128) (h : j ≠ k) (y : Slot) (x : CrewPosition) (c : TallyCounter) :
    (s.setSlot j y).remainingContent k x c = s.remainingContent k x c :=
  remainingContent_congr (s := s) (t := s.setSlot j y) rfl rfl (by rw [slot_setSlot, if_neg h]) x c

/-- The four slots, each written with its content. -/
theorem storeRemaining_eq (s : State) : s.storeRemaining =
    (((s.setSlot 122 (s.remainingContent 122 .driver .continuous)).setSlot 123 (s.remainingContent 123 .driver .daily)).setSlot
      124 (s.remainingContent 124 .coDriver .continuous)).setSlot 125 (s.remainingContent 125 .coDriver .daily) := by
  unfold State.storeRemaining remainingSlots
  simp only [List.foldl_cons, List.foldl_nil]
  rw [remainingContent_setSlot _ _ 123 (by decide), remainingContent_setSlot _ _ 124 (by decide),
    remainingContent_setSlot _ _ 124 (by decide), remainingContent_setSlot _ _ 125 (by decide),
    remainingContent_setSlot _ _ 125 (by decide), remainingContent_setSlot _ _ 125 (by decide)]

theorem storeRemaining_slot (s : State) (j : Fin 128) (h : j.val < 122 ∨ 125 < j.val) :
    s.storeRemaining.slot j = s.slot j := by
  rw [storeRemaining_eq]
  simp only [slot_setSlot]
  have h1 : (122 : Fin 128) ≠ j := by rintro rfl; simp at h
  have h2 : (123 : Fin 128) ≠ j := by rintro rfl; simp at h
  have h3 : (124 : Fin 128) ≠ j := by rintro rfl; simp at h
  have h4 : (125 : Fin 128) ≠ j := by rintro rfl; simp at h
  rw [if_neg h4, if_neg h3, if_neg h2, if_neg h1]

theorem storeRemaining_content (s : State) (k) (h : k ∈ remainingSlots) :
    s.storeRemaining.slot k.1 = s.remainingContent k.1 k.2.1 k.2.2 := by
  rw [storeRemaining_eq]
  simp only [slot_setSlot]
  simp only [remainingSlots, List.mem_cons, List.not_mem_nil, or_false] at h
  rcases h with rfl | rfl | rfl | rfl <;> rfl

/-- A write of the four slots changes slots alone. -/
theorem storeRemaining_rest (s : State) :
    s.storeRemaining = { s with store := { s.store with slots := s.storeRemaining.store.slots } } := by
  rw [storeRemaining_eq]; rfl

/-! ### Warm start and SLEEP entry -/

theorem slot_signalsWarm (s : State) (j : Fin 128) : s.signalsWarm.slot j =
    if j.val < 120 then { value := (s.slot j).value, quality := .unknown, clamped := false, age := 65535 } else s.slot j := by
  unfold State.slot State.signalsWarm
  simp

theorem namedUsable_of_unknown (s : State) (h : ∀ k : Fin 120, (s.slot (decodedSlot k)).usable = false)
    (k : Option (Fin 120)) : s.namedUsable k = false := by
  cases k with
  | none => rfl
  | some k => exact h k

theorem selectSpeed_of_unknown (s : State) (h : ∀ k : Fin 120, (s.slot (decodedSlot k)).usable = false) :
    s.selectSpeed = .none := by
  unfold State.selectSpeed
  simp only [namedUsable_of_unknown s h]
  simp

/-- The state in which warm start and SLEEP entry select anew. -/
def State.beforeSelection (s : State) : State :=
  (((s.emptyMemories.setSilence .cold).signalsWarm).setPlausibility none).relearn

theorem beforeSelection_slot (s : State) (j : Fin 128) : s.beforeSelection.slot j =
    if j.val < 120 then { value := (s.slot j).value, quality := .unknown, clamped := false, age := 65535 } else s.slot j := by
  have h : s.beforeSelection.store = s.signalsWarm.store := by
    unfold State.beforeSelection State.relearn
    simp only [State.setRing_store, State.setPlausibility_store]
    unfold State.signalsWarm
    simp only [State.setSilence_store, State.emptyMemories_store]
  rw [slot_of_store (s := s.signalsWarm) (by rw [h]), slot_signalsWarm]

theorem beforeSelection_none (s : State) : s.beforeSelection.selectSpeed = .none := by
  refine selectSpeed_of_unknown _ fun k => ?_
  rw [beforeSelection_slot]
  have : (decodedSlot k).val < 120 := k.isLt
  rw [if_pos this]; rfl

/-- The store once the selection of a warm start or a SLEEP entry is made. -/
theorem quietBlocks_slot (s : State) (j : Fin 128) : s.quietBlocks.slot j =
    if j = 121 then { value := 2, quality := .fresh, clamped := false, age := 0 }
    else if j = 120 then { value := (s.slot 120).value, quality := .notAvailable, clamped := false, age := 0 }
    else if j.val < 120 then { value := (s.slot j).value, quality := .unknown, clamped := false, age := 65535 }
    else s.slot j := by
  have h : s.quietBlocks.store = s.beforeSelection.storeSelection.store := rfl
  rw [slot_of_store (s := s.beforeSelection.storeSelection) (by rw [h])]
  unfold State.storeSelection
  simp only [beforeSelection_none, slot_setSlot]
  have h2 : (s.beforeSelection.setSelection .none).slot j = s.beforeSelection.slot j := rfl
  rw [h2, beforeSelection_slot]
  have h120 : s.beforeSelection.slot 120 = s.slot 120 := by rw [beforeSelection_slot]; rfl
  unfold State.roadContent Selection.content
  simp only [h120, @eq_comm _ _ j]

theorem quietBlocks_speed (s : State) : s.quietBlocks.speed =
    { ring := { s.speed.ring with position := 0, count := 0, lastSum := none }, state := .learning, selection := .none
      tick := none } := by
  have h : s.quietBlocks.speed = s.beforeSelection.storeSelection.speed := rfl
  rw [h]
  unfold State.storeSelection
  simp only [beforeSelection_none]
  rfl

/-! The other blocks that warm start and SLEEP entry bring to the same values. -/

@[simp] theorem quietBlocks_keepAlive (s : State) : s.quietBlocks.keepAlive = s.keepAlive := by
  simp [State.quietBlocks, State.speedWarm, State.storeSelection, State.relearn, State.signalsWarm, State.telltalesWarm,
    State.messagesWarm, Silence.cold, PortB.cold]
@[simp] theorem quietBlocks_resetHeld (s : State) : s.quietBlocks.resetHeld = s.resetHeld := by
  simp [State.quietBlocks, State.speedWarm, State.storeSelection, State.relearn, State.signalsWarm, State.telltalesWarm,
    State.messagesWarm, Silence.cold, PortB.cold]
@[simp] theorem quietBlocks_rawIgnition (s : State) : s.quietBlocks.rawIgnition = s.rawIgnition := by
  simp [State.quietBlocks, State.speedWarm, State.storeSelection, State.relearn, State.signalsWarm, State.telltalesWarm,
    State.messagesWarm, Silence.cold, PortB.cold]
@[simp] theorem quietBlocks_time (s : State) : s.quietBlocks.time = s.time := by
  simp [State.quietBlocks, State.speedWarm, State.storeSelection, State.relearn, State.signalsWarm, State.telltalesWarm,
    State.messagesWarm, Silence.cold, PortB.cold]
@[simp] theorem quietBlocks_tables (s : State) : s.quietBlocks.tables = s.tables := by
  simp [State.quietBlocks, State.speedWarm, State.storeSelection, State.relearn, State.signalsWarm, State.telltalesWarm,
    State.messagesWarm, Silence.cold, PortB.cold]
@[simp] theorem quietBlocks_intake (s : State) : s.quietBlocks.intake = 
    { forwardMemory := Vector.replicate 96 none, silenceA := ⟨none, false⟩, silenceB := ⟨none, false⟩ } := by
  simp [State.quietBlocks, State.speedWarm, State.storeSelection, State.relearn, State.signalsWarm, State.telltalesWarm,
    State.messagesWarm, Silence.cold, State.setSilence,
    State.emptyMemories]
@[simp] theorem quietBlocks_gauges (s : State) : s.quietBlocks.gauges = s.gauges := by
  simp [State.quietBlocks, State.speedWarm, State.storeSelection, State.relearn, State.signalsWarm, State.telltalesWarm,
    State.messagesWarm, Silence.cold, PortB.cold]
@[simp] theorem quietBlocks_telltales (s : State) : s.quietBlocks.telltales = s.telltalesWarm.telltales := by
  simp [State.quietBlocks, State.speedWarm, State.storeSelection, State.relearn, State.signalsWarm, State.telltalesWarm,
    State.messagesWarm, Silence.cold, PortB.cold]
@[simp] theorem quietBlocks_messages (s : State) : s.quietBlocks.messages = s.messagesWarm.messages := by
  simp [State.quietBlocks, State.speedWarm, State.storeSelection, State.relearn, State.signalsWarm, State.telltalesWarm,
    State.messagesWarm, Silence.cold, PortB.cold]
@[simp] theorem quietBlocks_crew (s : State) : s.quietBlocks.crew = s.crew := by
  simp [State.quietBlocks, State.speedWarm, State.storeSelection, State.relearn, State.signalsWarm, State.telltalesWarm,
    State.messagesWarm, Silence.cold, PortB.cold]
@[simp] theorem quietBlocks_faults (s : State) : s.quietBlocks.faults = s.faults := by
  simp [State.quietBlocks, State.speedWarm, State.storeSelection, State.relearn, State.signalsWarm, State.telltalesWarm,
    State.messagesWarm, Silence.cold, PortB.cold]
@[simp] theorem quietBlocks_link (s : State) : s.quietBlocks.link = { s.link with egress := [] } := by
  simp [State.quietBlocks, State.speedWarm, State.storeSelection, State.relearn, State.signalsWarm, State.telltalesWarm,
    State.messagesWarm, Silence.cold, PortB.cold]
@[simp] theorem quietBlocks_portB (s : State) : s.quietBlocks.portB = { queue := [], transmit := .idle } := by
  simp [State.quietBlocks, State.speedWarm, State.storeSelection, State.relearn, State.signalsWarm, State.telltalesWarm,
    State.messagesWarm, Silence.cold, PortB.cold]
@[simp] theorem quietBlocks_choices (s : State) : s.quietBlocks.choices = s.choices := by
  simp [State.quietBlocks, State.speedWarm, State.storeSelection, State.relearn, State.signalsWarm, State.telltalesWarm,
    State.messagesWarm, Silence.cold, PortB.cold]
@[simp] theorem quietBlocks_pending (s : State) : s.quietBlocks.pending = s.pending := by
  simp [State.quietBlocks, State.speedWarm, State.storeSelection, State.relearn, State.signalsWarm, State.telltalesWarm,
    State.messagesWarm, Silence.cold, PortB.cold]
@[simp] theorem quietBlocks_store_hold (s : State) : s.quietBlocks.store.hold = Vector.replicate 120 none := by
  simp [State.quietBlocks, State.speedWarm, State.storeSelection, State.relearn, State.signalsWarm, State.telltalesWarm,
    State.messagesWarm, Silence.cold, PortB.cold]
@[simp] theorem quietBlocks_store_stale (s : State) : s.quietBlocks.store.stale = Vector.replicate 120 none := by
  simp [State.quietBlocks, State.speedWarm, State.storeSelection, State.relearn, State.signalsWarm, State.telltalesWarm,
    State.messagesWarm, Silence.cold, PortB.cold]

/-! The moves built on them: every block but the time, the channels and the crew is left as `Quieted` says. -/

/-- The state that warm start and SLEEP entry leave, in its parts. -/
def State.quieted (s : State) (tm : TimeBase) (g : Gauges) (c : Crew) : State :=
  { State.quietBlocks { s with time := tm } with gauges := g, crew := c }

theorem quieted_last_slot (s : State) (tm : TimeBase) (g : Gauges) (c : Crew) (j : Fin 128) :
    ((s.quieted tm g c).storeRemaining.storeLast).slot j =
      if j = 127 then ((s.quieted tm g c).storeRemaining.storeLast).slot 127
      else if j = 126 then ((s.quieted tm g c).storeRemaining).ignitionContent
      else (s.quieted tm g c).storeRemaining.slot j := by
  unfold State.storeLast State.storeSevere
  simp only [slot_setSlot]
  by_cases h : j = 127
  · subst h; simp
  · rw [if_neg (fun e => h e.symm), if_neg h]
    by_cases h' : j = 126
    · subst h'; simp
    · rw [if_neg (fun e => h' e.symm), if_neg h']

theorem slot_setTime (s : State) (tm : TimeBase) (j : Fin 128) : ({ s with time := tm } : State).slot j = s.slot j := rfl

theorem quieted_slot (s : State) (tm : TimeBase) (g : Gauges) (c : Crew) (j : Fin 128) :
    (s.quieted tm g c).slot j = s.quietBlocks.slot j := by
  rw [slot_of_store (s := State.quietBlocks { s with time := tm }) (by simp only [State.quieted])]
  simp only [quietBlocks_slot, slot_setTime]

theorem storeLast_rest (s : State) :
    s.storeLast = { s with store := { s.store with slots := s.storeLast.store.slots } } := rfl

theorem severeCount_congr {s t : State} (hf : t.faults = s.faults) (ht : t.tables = s.tables) :
    t.severeCount = s.severeCount := by
  have : t.countsSevere = s.countsSevere := by funext k; unfold State.countsSevere; rw [hf, ht]
  unfold State.severeCount
  rw [this]

theorem quieted_intro (s : State) (tm : TimeBase) (g : Gauges) (c : Crew)
    (hf : tm.filteredIgnition = s.time.filteredIgnition) (hg : g.tick = none) (hc : c.snapshotCounter = 0) :
    Quieted s (s.quieted tm g c).storeRemaining.storeLast := by
  have hrest : (s.quieted tm g c).storeRemaining.storeLast = { s.quieted tm g c with
      store := { (s.quieted tm g c).store with slots := (s.quieted tm g c).storeRemaining.storeLast.store.slots } } := by
    rw [storeLast_rest, storeRemaining_rest]
  have hlow : ∀ j : Fin 128, j.val < 122 →
      (s.quieted tm g c).storeRemaining.storeLast.slot j = s.quietBlocks.slot j := by
    intro j hj
    have h1 : j ≠ 127 := by rintro rfl; simp at hj
    have h2 : j ≠ 126 := by rintro rfl; simp at hj
    rw [quieted_last_slot, if_neg h1, if_neg h2, storeRemaining_slot _ _ (Or.inl hj), quieted_slot]
  constructor
  · rw [hrest]; simp [State.quieted]
  · intro k
    have hk : (decodedSlot k).val < 120 := k.isLt
    rw [hlow _ (by omega), quietBlocks_slot, if_neg, if_neg, if_pos hk]
    · intro e; rw [e] at hk; simp at hk
    · intro e; rw [e] at hk; simp at hk
  · intro k; rw [hrest]; simp [State.quieted]
  · intro k; rw [hrest]; simp [State.quieted]
  · rw [hlow 120 (by decide), quietBlocks_slot]; rfl
  · rw [hlow 121 (by decide), quietBlocks_slot]; rfl
  · rw [hrest]; simp [State.quieted, quietBlocks_speed]
  · intro i; rw [hrest]; simp [State.quieted, State.telltalesWarm, Telltale.cold]
  · intro ch
    rw [hrest]
    simp only [State.quieted, quietBlocks_telltales, State.telltalesWarm, Fin.getElem_fin, Vector.getElem_ofFn]
    cases s.telltales.lamps[ch.val] <;> rfl
  · rw [hrest]; simp [State.quieted, State.telltalesWarm]
  · rw [hrest]; simp [State.quieted, State.messagesWarm]
  · rw [hrest]; simp [State.quieted]
  · rw [hrest]; simp [State.quieted]
  · rw [hrest]; exact hg
  · rw [quieted_last_slot]
    have : (s.quieted tm g c).storeRemaining.ignitionContent =
        { value := if s.time.filteredIgnition then 1 else 0, quality := .fresh, clamped := false, age := 0 } := by
      rw [storeRemaining_rest]
      unfold State.ignitionContent
      simp [State.quieted, hf]
    rw [this]; rfl
  · have : (s.quieted tm g c).storeRemaining.storeLast.slot 127 =
        { value := BitVec.ofNat 32 s.severeCount, quality := .fresh, clamped := false, age := 0 } := by
      unfold State.storeLast State.storeSevere
      rw [slot_setSlot, if_pos rfl, severeCount_congr (s := s)]
      · rw [State.setSlot_faults, storeRemaining_rest]; simp [State.quieted]
      · rw [State.setSlot_tables, storeRemaining_rest]; simp [State.quieted]
    exact this
  · intro k hk
    have hne : k.1 ≠ 127 ∧ k.1 ≠ 126 := by
      simp only [remainingSlots, List.mem_cons, List.not_mem_nil, or_false] at hk
      rcases hk with rfl | rfl | rfl | rfl <;> decide
    rw [quieted_last_slot, if_neg hne.1, if_neg hne.2, storeRemaining_content _ _ hk]
    refine remainingContent_congr ?_ ?_ ?_ _ _
    · rw [hrest]
    · simp [State.quieted]
    · rw [quieted_slot, quietBlocks_slot]
      simp only [remainingSlots, List.mem_cons, List.not_mem_nil, or_false] at hk
      rcases hk with rfl | rfl | rfl | rfl <;> rfl
  · rw [hrest]; exact hc
  all_goals (rw [hrest]; simp [State.quieted])

theorem crewWarm_eq (x : State) : x.gaugesWarm.crewWarm =
    State.storeRemaining { x with
      gauges := { channels := Vector.ofFn fun ch : Fin 6 => (x.gauges.channels[ch]).warm, tick := none }
      crew := { places := (x.crew.mapRecords (CrewRecord.warm x.tables.crew)).places, snapshotCounter := 0 } } := rfl

theorem crewSleep_eq (x : State) : (x.setFilterTick none).crewSleep =
    State.storeRemaining { x with
      gauges := { channels := x.gauges.channels, tick := none }
      crew := { places := x.crew.places, snapshotCounter := 0 } } := rfl

/-- The values of warm start, the wake credit of a sleep it ends already given (R162). -/
theorem warmStart_core (s : State) : WarmStarted s (((s.timeWarm.quietBlocks).gaugesWarm).crewWarm).storeLast := by
  have h : ((s.timeWarm.quietBlocks).gaugesWarm).crewWarm = (s.quieted s.timeWarm.time
        { channels := Vector.ofFn fun ch : Fin 6 => (s.gauges.channels[ch]).warm, tick := none }
        { places := (s.crew.mapRecords (CrewRecord.warm s.tables.crew)).places, snapshotCounter := 0 }).storeRemaining := by
    rw [crewWarm_eq]
    simp only [quietBlocks_gauges, quietBlocks_crew, quietBlocks_tables, State.timeWarm, State.quieted]
  rw [h]
  refine { toQuieted := quieted_intro s _ _ _ rfl rfl rfl, time := ?_, channels := ?_, crew := ?_ }
  all_goals rw [storeLast_rest, storeRemaining_rest]
  · simp [State.quieted, State.timeWarm, State.settleStart]
  · intro ch; simp [State.quieted, Channel.warm]
  · intro p; simp [State.quieted, Crew.mapRecords]

/-- SLEEP entry (R159). -/
theorem sleepEntry_spec (s : State) : SleepEntered s s.sleepEntry := by
  have h : ((s.timeSleepEntry.quietBlocks).setFilterTick none).crewSleep = (s.quieted s.timeSleepEntry.time
        { channels := s.gauges.channels, tick := none }
        { places := s.crew.places, snapshotCounter := 0 }).storeRemaining := by
    rw [crewSleep_eq]
    simp only [quietBlocks_gauges, quietBlocks_crew, State.timeSleepEntry, State.quieted]
  unfold State.sleepEntry
  rw [h]
  refine { toQuieted := quieted_intro s _ _ _ rfl rfl rfl, time := ?_, channels := ?_, crew := ?_ }
  all_goals rw [storeLast_rest, storeRemaining_rest]
  · simp [State.quieted, State.timeSleepEntry]
  · simp [State.quieted]
  · simp [State.quieted]

/-- Warm start (R162); taken in SLEEP, the wake credit comes first (R134). -/
theorem warmStart_spec (s : State) :
    WarmStarted (if s.time.part = .sleep then s.creditCrew s.sleepGap else s) s.warmStart := by
  unfold State.warmStart
  exact warmStart_core _

/-- The end of an event (R156, R158). -/
theorem conclude_spec (s : State) : Concluded s (conclude s) := by
  unfold Concluded conclude
  cases hp : s.time.part <;> simp
  · by_cases h : s.time.homingDone = true ∧ s.time.bulbCheckEnded = true
    · rw [if_pos h, if_pos h]; rfl
    · rw [if_neg h]; exact fun a b => absurd ⟨a, b⟩ h
  · by_cases h : s.time.quiet = .elapsed ∧ s.time.atRest = true
    · rw [if_pos h, if_pos h]; exact sleepEntry_spec s
    · rw [if_neg h]; exact fun a b => absurd ⟨a, b⟩ h

end Sys2Proof.Machine
end

