-- ==== Sys2Proof/Laws/PerInstr.lean ====
section
/-! SUPPORT. A law of each command as syntax: a management request that can stand at the part fits the payload of a link record
(R186, R187). -/

namespace Sys2Proof.Laws

open Sys2Proof.Machine

/-- A well-formed command that is a management request has a payload of 3 to 60 bytes. -/
def Shape.Statement (i : Instr) : Prop :=
  i.wellFormed = true → ∀ l, requestPayload i = some l → 3 ≤ l.length ∧ l.length ≤ 60

theorem natBytes_length (w n : Nat) : (natBytes w n).length = w := by
  induction w generalizing n with
  | zero => rfl
  | succ w ih => simp [natBytes, ih]

theorem Shape.none {i : Instr} (h : requestPayload i = .none) : Shape.Statement i :=
  fun _ _ g => by rw [h] at g; cases g

theorem Shape.some {i : Instr} (l : List Byte) (h : requestPayload i = .some l)
    (k : i.wellFormed = true → 3 ≤ l.length ∧ l.length ≤ 60) : Shape.Statement i :=
  fun w _ g => by rw [h] at g; cases g; exact k w

theorem Shape.coldStart : Shape.Statement .coldStart := Shape.none rfl

theorem Shape.resetInputAssert : Shape.Statement .resetInputAssert := Shape.none rfl

theorem Shape.resetInputRelease : Shape.Statement .resetInputRelease := Shape.none rfl

theorem Shape.ignitionSenseChange (level : Bool) : Shape.Statement (.ignitionSenseChange level) := Shape.none rfl

theorem Shape.ignitionOn : Shape.Statement .ignitionOn := Shape.none rfl

theorem Shape.ignitionOff : Shape.Statement .ignitionOff := Shape.none rfl

theorem Shape.frameArrival (frame : Frame) : Shape.Statement (.frameArrival frame) := Shape.none rfl

theorem Shape.portBFrameStart : Shape.Statement .portBFrameStart := Shape.none rfl

theorem Shape.monotonicAdvance : Shape.Statement .monotonicAdvance := Shape.none rfl

theorem Shape.linkTransfer (upstream : List Byte) : Shape.Statement (.linkTransfer upstream) := Shape.none rfl

theorem Shape.load (tag : Word16) (table index : Byte) (entry : List Byte) : Shape.Statement (.load tag table index entry) := by
  refine Shape.some _ rfl fun w => ?_
  have w : entry.length ≤ 55 := of_decide_eq_true w
  simp only [List.length_append, List.length_cons, List.length_nil, natBytes_length]
  omega

theorem Shape.read (tag : Word16) (table index : Byte) : Shape.Statement (.read tag table index) :=
  Shape.some _ rfl fun _ => by simp [natBytes_length]

theorem Shape.setField (tag : Word16) (table index field : Byte) (value : Word32) : Shape.Statement (.setField tag table index field value) :=
  Shape.some _ rfl fun _ => by simp [natBytes_length, wordBytes]

theorem Shape.readField (tag : Word16) (table index field : Byte) : Shape.Statement (.readField tag table index field) :=
  Shape.some _ rfl fun _ => by simp [natBytes_length]

theorem Shape.state (tag : Word16) (target index : Byte) : Shape.Statement (.state tag target index) :=
  Shape.some _ rfl fun _ => by simp [natBytes_length]

theorem Shape.clearFaults (tag : Word16) (classes : Word16) : Shape.Statement (.clearFaults tag classes) :=
  Shape.some _ rfl fun _ => by simp [natBytes_length]

theorem Shape.intakeSectionReset (tag : Word16) : Shape.Statement (.intakeSectionReset tag) :=
  Shape.some _ rfl fun _ => by simp [natBytes_length]

theorem Shape.signalsSectionReset (tag : Word16) : Shape.Statement (.signalsSectionReset tag) :=
  Shape.some _ rfl fun _ => by simp [natBytes_length]

theorem Shape.speedSectionReset (tag : Word16) : Shape.Statement (.speedSectionReset tag) :=
  Shape.some _ rfl fun _ => by simp [natBytes_length]

theorem Shape.gaugesSectionReset (tag : Word16) : Shape.Statement (.gaugesSectionReset tag) :=
  Shape.some _ rfl fun _ => by simp [natBytes_length]

theorem Shape.telltalesSectionReset (tag : Word16) : Shape.Statement (.telltalesSectionReset tag) :=
  Shape.some _ rfl fun _ => by simp [natBytes_length]

theorem Shape.presentationSectionReset (tag : Word16) : Shape.Statement (.presentationSectionReset tag) :=
  Shape.some _ rfl fun _ => by simp [natBytes_length]

theorem Shape.crewSectionReset (tag : Word16) : Shape.Statement (.crewSectionReset tag) :=
  Shape.some _ rfl fun _ => by simp [natBytes_length]

theorem Shape.faultsSectionReset (tag : Word16) : Shape.Statement (.faultsSectionReset tag) :=
  Shape.some _ rfl fun _ => by simp [natBytes_length]

theorem Shape.start (tag : Word16) : Shape.Statement (.start tag) :=
  Shape.some _ rfl fun _ => by simp [natBytes_length]

theorem Shape.warmReset (tag : Word16) : Shape.Statement (.warmReset tag) :=
  Shape.some _ rfl fun _ => by simp [natBytes_length]

theorem Shape.serviceSetField (reply : ReplyAddress) (table index field : Byte) (value : Word32) : Shape.Statement (.serviceSetField reply table index field value) := Shape.none rfl

theorem Shape.serviceReadField (reply : ReplyAddress) (table index field : Byte) : Shape.Statement (.serviceReadField reply table index field) := Shape.none rfl

theorem Shape.serviceClearFaults (reply : ReplyAddress) (classes : Word16) : Shape.Statement (.serviceClearFaults reply classes) := Shape.none rfl

theorem Shape.readFaults (reply : ReplyAddress) : Shape.Statement (.readFaults reply) := Shape.none rfl

theorem Shape.silenceExpiry (port : Port) : Shape.Statement (.silenceExpiry port) := Shape.none rfl

theorem Shape.holdExpiry (slot : Fin 120) : Shape.Statement (.holdExpiry slot) := Shape.none rfl

theorem Shape.staleExpiry (slot : Fin 120) : Shape.Statement (.staleExpiry slot) := Shape.none rfl

theorem Shape.plausibilityTick : Shape.Statement .plausibilityTick := Shape.none rfl

theorem Shape.filterTick : Shape.Statement .filterTick := Shape.none rfl

theorem Shape.stallReport (channel : Fin 6) : Shape.Statement (.stallReport channel) := Shape.none rfl

theorem Shape.onDebounceExpiry (telltale : Fin 64) : Shape.Statement (.onDebounceExpiry telltale) := Shape.none rfl

theorem Shape.offDebounceExpiry (telltale : Fin 64) : Shape.Statement (.offDebounceExpiry telltale) := Shape.none rfl

theorem Shape.lampNoCurrent (channel : Fin 32) : Shape.Statement (.lampNoCurrent channel) := Shape.none rfl

theorem Shape.lampCurrentPresent (channel : Fin 32) : Shape.Statement (.lampCurrentPresent channel) := Shape.none rfl

theorem Shape.lampOverCurrent (channel : Fin 32) : Shape.Statement (.lampOverCurrent channel) := Shape.none rfl

theorem Shape.bulbCheckExpiry : Shape.Statement .bulbCheckExpiry := Shape.none rfl

theorem Shape.chimeOnExpiry : Shape.Statement .chimeOnExpiry := Shape.none rfl

theorem Shape.chimeOffExpiry : Shape.Statement .chimeOffExpiry := Shape.none rfl

theorem Shape.chimeNoCurrent : Shape.Statement .chimeNoCurrent := Shape.none rfl

theorem Shape.chimeCurrentPresent : Shape.Statement .chimeCurrentPresent := Shape.none rfl

theorem Shape.settleExpiry : Shape.Statement .settleExpiry := Shape.none rfl

theorem Shape.quietExpiry : Shape.Statement .quietExpiry := Shape.none rfl

theorem Shape.replyFrameSend : Shape.Statement .replyFrameSend := Shape.none rfl

theorem Shape.replyFrameSent : Shape.Statement .replyFrameSent := Shape.none rfl

theorem Shape.replyFrameNotSent : Shape.Statement .replyFrameNotSent := Shape.none rfl

theorem Shape.replyExpiry (place : Fin 4) : Shape.Statement (.replyExpiry place) := Shape.none rfl

theorem Shape.msCounterAdvance : Shape.Statement .msCounterAdvance := Shape.none rfl

theorem Shape.keepAliveRemoval : Shape.Statement .keepAliveRemoval := Shape.none rfl

end Sys2Proof.Laws
end

