-- ==== Sys2Proof/Laws/Telltales.lean ====
section
/-! SUPPORT. An induction over the elementary changes of one telltale's moves, and what they leave of lamps and of other telltales. -/

namespace Sys2Proof.Machine

/-! ### Lamps turn between IDLE and LIT alone -/

/-- Each lamp channel is as it was, or turned between IDLE and LIT (R88). -/
def LampsTurn (s t : State) : Prop :=
  ∀ ch : Fin 32, t.telltales.lamps[ch] = s.telltales.lamps[ch] ∨
    (s.telltales.lamps[ch] ∈ [LampState.idle, .lit] ∧ t.telltales.lamps[ch] ∈ [LampState.idle, .lit])

theorem lampsTurn_same {s t : State} (h : t.telltales.lamps = s.telltales.lamps) : LampsTurn s t :=
  fun ch => Or.inl (by rw [h])

theorem lampsTurn_trans {s t u : State} (h : LampsTurn s t) (g : LampsTurn t u) : LampsTurn s u := by
  intro ch
  rcases h ch with h1 | ⟨h1, h2⟩
  · rcases g ch with g1 | ⟨g1, g2⟩
    · exact Or.inl (g1.trans h1)
    · exact Or.inr ⟨h1 ▸ g1, g2⟩
  · rcases g ch with g1 | ⟨_, g2⟩
    · exact Or.inr ⟨h1, g1 ▸ h2⟩
    · exact Or.inr ⟨h1, g2⟩

theorem setLamp_lamps (s : State) (c : Fin 32) (l : LampState) (ch : Fin 32) :
    (s.setLamp c l).telltales.lamps[ch] = if c = ch then l else s.telltales.lamps[ch] := by
  show (s.telltales.lamps.set c l)[ch.val] = _
  rw [Vector.getElem_set]
  simp [Fin.ext_iff]

theorem lampsTurn_recomputeLamp (s : State) (c : Fin 32) : LampsTurn s (s.recomputeLamp c) := by
  intro ch
  unfold State.recomputeLamp
  split
  · next h _ =>
    rw [setLamp_lamps]
    by_cases e : c = ch
    · subst e; right; rw [h, if_pos rfl]; simp
    · left; rw [if_neg e]
  · next h _ =>
    rw [setLamp_lamps]
    by_cases e : c = ch
    · subst e; right; rw [h, if_pos rfl]; simp
    · left; rw [if_neg e]
  · exact Or.inl rfl

theorem moving_lampsTurn (i : Fin 64) : Moving i LampsTurn where
  refl _ := lampsTurn_same rfl
  trans := lampsTurn_trans
  own _ _ := lampsTurn_same rfl
  held _ _ _ := lampsTurn_same rfl
  lamp := lampsTurn_recomputeLamp
  messages _ _ := lampsTurn_same rfl

theorem closed_lampsTurn : Closed LampsTurn where
  refl _ := lampsTurn_same rfl
  trans := lampsTurn_trans
  egress _ _ _ _ := lampsTurn_same rfl
  record _ _ _ _ _ := lampsTurn_same rfl
  choices _ _ := lampsTurn_same rfl
  severe _ := lampsTurn_same rfl
  target _ _ := lampsTurn_same rfl
  evaluate s i _ := (moving_lampsTurn i).evaluateTelltale s
  seen _ _ := lampsTurn_same rfl
  press s := Moving.press moving_lampsTurn s

/-! ### Inactive telltales stand -/

/-- The part's state and the telltale entries stand, and every telltale that is not active keeps state and condition (R80). -/
def InactiveStand (s t : State) : Prop :=
  t.time.part = s.time.part ∧ t.tables.telltale = s.tables.telltale ∧
    ∀ i : Fin 64, s.telltaleActive i = false →
      (t.telltales.records[i]).state = (s.telltales.records[i]).state ∧
        (t.telltales.records[i]).condition = (s.telltales.records[i]).condition

theorem inactiveStand_same {s t : State} (hp : t.time.part = s.time.part) (ht : t.tables.telltale = s.tables.telltale)
    (hr : t.telltales.records = s.telltales.records) : InactiveStand s t :=
  ⟨hp, ht, fun i _ => by rw [hr]; exact ⟨rfl, rfl⟩⟩

theorem inactiveStand_trans {s t u : State} (h : InactiveStand s t) (g : InactiveStand t u) : InactiveStand s u := by
  refine ⟨g.1.trans h.1, g.2.1.trans h.2.1, fun i hi => ?_⟩
  have ht : t.telltaleActive i = false := by
    unfold State.telltaleActive at hi ⊢; rw [h.1, h.2.1]; exact hi
  exact ⟨(g.2.2 i ht).1.trans (h.2.2 i hi).1, (g.2.2 i ht).2.trans (h.2.2 i hi).2⟩

theorem setTelltale_record (s : State) (i j : Fin 64) (r : Telltale) :
    (s.setTelltale i r).telltales.records[j] = if i = j then r else s.telltales.records[j] := by
  show (s.telltales.records.set i r)[j.val] = _
  rw [Vector.getElem_set]
  simp [Fin.ext_iff]

theorem setHeld_record (s : State) (i j : Fin 64) (h : Held) :
    (s.setHeld i h).telltales.records[j] =
      if i = j then { s.telltales.records[j] with held := h } else s.telltales.records[j] := by
  unfold State.setHeld
  rw [setTelltale_record]
  by_cases e : i = j
  · subst e; rfl
  · rw [if_neg e, if_neg e]

@[simp] theorem recomputeLamp_records (s : State) (c : Fin 32) :
    (s.recomputeLamp c).telltales.records = s.telltales.records := by
  unfold State.recomputeLamp; split <;> rfl

/-- Across a move of telltale `i`, every other telltale keeps all but what it holds. -/
def OnlyHeld (i : Fin 64) (s t : State) : Prop :=
  t.time = s.time ∧ t.tables = s.tables ∧
    ∀ j : Fin 64, j ≠ i → t.telltales.records[j] =
      { s.telltales.records[j] with held := (t.telltales.records[j]).held }

theorem onlyHeld_same (i : Fin 64) {s t : State} (h : t.time = s.time) (ht : t.tables = s.tables)
    (hr : t.telltales.records = s.telltales.records) : OnlyHeld i s t :=
  ⟨h, ht, fun j _ => by rw [hr]⟩

theorem moving_onlyHeld (i : Fin 64) : Moving i (OnlyHeld i) where
  refl _ := onlyHeld_same i rfl rfl rfl
  trans h g := ⟨g.1.trans h.1, g.2.1.trans h.2.1, fun j hj => by rw [g.2.2 j hj, h.2.2 j hj]⟩
  own s r := ⟨rfl, rfl, fun j hj => by rw [setTelltale_record, if_neg (Ne.symm hj)]⟩
  held s j h := ⟨rfl, rfl, fun k _ => by rw [setHeld_record]; split <;> rfl⟩
  lamp s c := onlyHeld_same i (presented_recomputeLamp s c).reacted.time (presented_recomputeLamp s c).reacted.tables
    (recomputeLamp_records s c)
  messages _ _ := onlyHeld_same i rfl rfl rfl

theorem closed_inactiveStand : Closed InactiveStand where
  refl _ := inactiveStand_same rfl rfl rfl
  trans := inactiveStand_trans
  egress _ _ _ _ := inactiveStand_same rfl rfl rfl
  record _ _ _ _ _ := inactiveStand_same rfl rfl rfl
  choices _ _ := inactiveStand_same rfl rfl rfl
  severe _ := inactiveStand_same rfl rfl rfl
  target _ _ := inactiveStand_same rfl rfl rfl
  evaluate s i hi := by
    have h := (moving_onlyHeld i).evaluateTelltale s
    refine ⟨by rw [h.1], by rw [h.2.1], fun j hj => ?_⟩
    have hne : j ≠ i := by rintro rfl; rw [hi] at hj; cases hj
    rw [h.2.2 j hne]; exact ⟨rfl, rfl⟩
  seen _ _ := inactiveStand_same rfl rfl rfl
  press s := by
    have h := (presented_press s).reacted
    refine ⟨by rw [h.time], by rw [h.tables], fun j _ => ?_⟩
    unfold State.press
    split
    · exact ⟨rfl, rfl⟩
    · split
      · simp only [removeRequest_telltales, setTelltale_record]
        split
        · next e => subst e; exact ⟨rfl, rfl⟩
        · exact ⟨rfl, rfl⟩
      · exact ⟨rfl, rfl⟩

theorem lampFailed_of_lampsTurn {s t : State} (h : LampsTurn s t) (l : Option (Fin 32)) : t.lampFailed l = s.lampFailed l := by
  cases l with
  | none => rfl
  | some ch =>
    unfold State.lampFailed
    dsimp only
    rcases h ch with h | ⟨h1, h2⟩
    · rw [h]
    · simp only [List.mem_cons, List.not_mem_nil, or_false] at h1 h2
      rcases h1 with h1 | h1 <;> rcases h2 with h2 | h2 <;> rw [h1, h2] <;> rfl

/-! ### Lamp demand after a move -/

theorem recomputeLamp_lamps (s : State) (c ch : Fin 32) : (s.recomputeLamp c).telltales.lamps[ch] =
    if c = ch ∧ s.telltales.lamps[ch] = .idle ∧ s.lampDemanded ch = true then .lit
    else if c = ch ∧ s.telltales.lamps[ch] = .lit ∧ s.lampDemanded ch = false then .idle
    else s.telltales.lamps[ch] := by
  unfold State.recomputeLamp
  by_cases e : c = ch
  · subst e
    cases h : s.telltales.lamps[c] <;> cases g : s.lampDemanded c <;> dsimp only <;> simp only [setLamp_lamps] <;> simp [h]
  · have : ∀ l, (s.setLamp c l).telltales.lamps[ch] = s.telltales.lamps[ch] := fun l => by rw [setLamp_lamps, if_neg e]
    split
    · rw [this]; simp [e]
    · rw [this]; simp [e]
    · simp [e]

theorem namesLamp_iff (s : State) (i : Fin 64) (ch : Fin 32) : s.namesLamp i ch = true ↔
    (s.tables.telltale[i]).valid = true ∧ (s.tables.telltale[i]).lamp = some ch := by
  unfold State.namesLamp; simp

theorem recomputeNamed_lamps (s : State) (l : Option (Fin 32)) (ch : Fin 32) :
    (s.recomputeNamed l).telltales.lamps[ch] =
    if l = some ch ∧ s.telltales.lamps[ch] = .idle ∧ s.lampDemanded ch = true then .lit
    else if l = some ch ∧ s.telltales.lamps[ch] = .lit ∧ s.lampDemanded ch = false then .idle
    else s.telltales.lamps[ch] := by
  cases l with
  | none => simp [State.recomputeNamed]
  | some c => simp only [State.recomputeNamed, recomputeLamp_lamps, Option.some.injEq]

@[simp] theorem recomputeNamed_records (s : State) (l : Option (Fin 32)) :
    (s.recomputeNamed l).telltales.records = s.telltales.records := by
  cases l with
  | none => rfl
  | some c => exact recomputeLamp_records s c

@[simp] theorem recomputeNamed_messages (s : State) (l : Option (Fin 32)) : (s.recomputeNamed l).messages = s.messages := by
  cases l with
  | none => rfl
  | some c => unfold State.recomputeNamed; dsimp only; unfold State.recomputeLamp; split <;> rfl

/-- A telltale that is shown demands the lamp it names (R88). -/
theorem lampDemanded_of_shown (s : State) (i : Fin 64) (ch : Fin 32) (h : s.lampShownBy i ch = true) :
    s.lampDemanded ch = true := by
  unfold State.lampDemanded
  rw [Bool.or_eq_true]
  exact Or.inr (List.any_eq_true.2 ⟨i, List.mem_finRange i, h⟩)

theorem lampDemanded_iff (s : State) (ch : Fin 32) :
    s.lampDemanded ch = true ↔ s.bulbDemands ch = true ∨ ∃ i, s.lampShownBy i ch = true := by
  unfold State.lampDemanded
  rw [Bool.or_eq_true, List.any_eq_true]
  simp [List.mem_finRange]

end Sys2Proof.Machine
end

