-- ==== Sys2Proof/Laws/TelltaleMoves.lean ====
section
/-! SUPPORT. What a telltale's moves do, before their reports: to ON and to OFF (`WentOn`, `WentOff`), by an evaluation (`Moved`).
Laws/Published.lean has the moves with their reports. -/

namespace Sys2Proof.Machine

/-- The three places (R98). -/
def Messages.places (m : Messages) : Option Presentation × List Presentation × List Presentation := (m.current, m.stack, m.ring)

theorem chooseAfresh_requests (s : State) : s.chooseAfresh.messages.requests = s.messages.requests := by
  unfold State.chooseAfresh; split <;> rfl

theorem chooseAfresh_places (s : State) : s.chooseAfresh.messages.places = s.messages.places := by
  unfold State.chooseAfresh; split <;> rfl

/-- A choice of the arbiter leaves the requests (R110). -/
theorem choose_requests (s : State) : s.choose.messages.requests = s.messages.requests := by
  unfold State.choose
  split
  · exact chooseAfresh_requests s
  · split
    · rfl
    · split
      · rfl
      · split
        · rfl
        · split <;> rfl

/-- A choice of the arbiter leaves the three places (R110). -/
theorem choose_places (s : State) : s.choose.messages.places = s.messages.places := by
  unfold State.choose
  split
  · exact chooseAfresh_places s
  · split
    · rfl
    · split
      · rfl
      · split
        · rfl
        · split <;> rfl

theorem setRequest_requests (s : State) (i j : Fin 64) (r : Option ChimeRequest) :
    (s.setRequest i r).messages.requests[j] = if i = j then r else s.messages.requests[j] := by
  show (s.messages.requests.set i r)[j.val] = _
  rw [Vector.getElem_set]
  simp [Fin.ext_iff]

/-- A request raised (R109): the telltale's alone, with its pattern's repeats. -/
theorem raiseRequest_requests (s : State) (i j : Fin 64) (p : Fin 8) : (s.raiseRequest i p).messages.requests[j] =
    if i = j then some ⟨p, if (s.tables.chime[p]).repeats = 0 then none else some (s.tables.chime[p]).repeats, .active⟩
    else s.messages.requests[j] := by
  unfold State.raiseRequest
  dsimp only
  rw [choose_requests, setRequest_requests]

theorem removeRequest_vector (s : State) (i : Fin 64) : (s.removeRequest i).messages.requests = s.messages.requests.set i none := by
  unfold State.removeRequest
  split
  · next h =>
    have h' : s.messages.requests[i.val] = none := h
    ext j hj : 1
    rw [Vector.getElem_set]
    split
    · next e => subst e; exact h'
    · rfl
  · dsimp only
    split
    · rw [choose_requests]; rfl
    · split
      · rw [choose_requests]; rfl
      · rw [choose_requests]; rfl

/-- A request removed (R109): the telltale's alone. -/
theorem removeRequest_requests (s : State) (i j : Fin 64) : (s.removeRequest i).messages.requests[j] =
    if i = j then none else s.messages.requests[j] := by
  simp only [removeRequest_vector, Fin.getElem_fin, Vector.getElem_set, Fin.ext_iff]

/-- Raising and removing a request leave the three places (R109). -/
theorem raiseRequest_places (s : State) (i : Fin 64) (p : Fin 8) : (s.raiseRequest i p).messages.places = s.messages.places :=
  choose_places _

theorem removeRequest_places (s : State) (i : Fin 64) : (s.removeRequest i).messages.places = s.messages.places := by
  unfold State.removeRequest
  split
  · rfl
  · dsimp only
    split
    · exact choose_places _
    · split
      · exact choose_places _
      · exact choose_places _

theorem onChime_telltales (s : State) (i : Fin 64) : (s.onChime i).telltales = s.telltales := by
  unfold State.onChime
  split
  · rfl
  · rw [raiseRequest_telltales]

/-! ### To ON -/

/-- The three cases of an offer made on the way to ON (R83). -/
theorem onOffer_eq (s : State) (i : Fin 64) :
    (∀ h code, (s.telltales.records[i]).held = .none →
      (h = Held.main ∧ code = (s.tables.telltale[i]).message ∧ code ≠ 0) ∨
        (h = Held.backup ∧ (s.tables.telltale[i]).message = 0 ∧ s.lampFailed (s.tables.telltale[i]).lamp = true ∧
          code = (s.tables.telltale[i]).backup ∧ code ≠ 0) →
      s.onOffer i = s.offerPresentation i h code) ∧
    ((s.telltales.records[i]).held ≠ .none ∨
      ((s.tables.telltale[i]).message = 0 ∧
        (s.lampFailed (s.tables.telltale[i]).lamp = false ∨ (s.tables.telltale[i]).backup = 0)) →
      s.onOffer i = .silent s) := by
  unfold State.onOffer
  dsimp only
  refine ⟨?_, ?_⟩
  · rintro h code hn (⟨rfl, rfl, hc⟩ | ⟨rfl, hm, hl, rfl, hc⟩)
    · rw [if_pos hn, if_pos hc]
    · rw [if_pos hn, if_neg (not_not.2 hm), if_pos ⟨hl, hc⟩]
  · intro h
    by_cases hn : (s.telltales.records[i]).held = .none
    · rw [if_pos hn]
      rcases h with h | ⟨hm, h⟩
      · exact absurd hn h
      · rw [if_neg (not_not.2 hm)]
        by_cases hx : s.lampFailed (s.tables.telltale[i]).lamp = true ∧ (s.tables.telltale[i]).backup ≠ 0
        · rcases h with h | h
          · rw [hx.1] at h; cases h
          · exact absurd h hx.2
        · rw [if_neg hx]
    · rw [if_neg hn]

/-- A recomputed demand changes lamp channels alone (R88). -/
theorem recomputeNamed_rest (s : State) (l : Option (Fin 32)) : s.recomputeNamed l =
    { s with telltales := { s.telltales with lamps := (s.recomputeNamed l).telltales.lamps } } := by
  cases l with
  | none => rfl
  | some c => unfold State.recomputeNamed; dsimp only; unfold State.recomputeLamp; split <;> rfl

/-- RISING, or OFF with no debounce, to ON (R83, R88). -/
theorem telltaleOn_spec (s : State) (i : Fin 64) : WentOn s i (s.telltaleOn i).state (s.telltaleOn i).reports := by
  let r : Telltale := { s.telltales.records[i] with state := .on, debounce := none }
  let x := s.setTelltale i r
  let a := x.recomputeNamed (s.tables.telltale[i]).lamp
  have hx : ∀ j : Fin 64, x.telltales.records[j] = if i = j then r else s.telltales.records[j] := fun j => setTelltale_record ..
  have ha : a.telltales.records = x.telltales.records := recomputeNamed_records ..
  have hat : a.tables = s.tables := (presented_recomputeNamed x _).reacted.tables
  have hal : a.lampFailed (s.tables.telltale[i]).lamp = s.lampFailed (s.tables.telltale[i]).lamp :=
    lampFailed_of_lampsTurn (lampsTurn_trans (lampsTurn_same rfl) ((moving_lampsTurn i).named x _)) _
  have hai : a.telltales.records[i] = r := by rw [ha, hx, if_pos rfl]
  have hheld : (a.telltales.records[i]).held = (s.telltales.records[i]).held := by rw [hai]
  refine ⟨a, (a.onOffer i).state, recomputeNamed_rest x _, ?_, ?_, ?_, ?_⟩
  · intro hv ch
    show (x.recomputeNamed (s.tables.telltale[i]).lamp).telltales.lamps[ch] = lampShown s i ch
    unfold lampShown
    rw [recomputeNamed_lamps]
    have hl : x.telltales.lamps[ch] = s.telltales.lamps[ch] := rfl
    rw [hl]
    have hn : (s.tables.telltale[i]).lamp = some ch → x.lampDemanded ch = true := by
      intro h
      refine lampDemanded_of_shown x i ch ?_
      unfold State.lampShownBy
      rw [hx, if_pos rfl]
      have : x.namesLamp i ch = true := (namesLamp_iff x i ch).2 ⟨hv, h⟩
      rw [this]; rfl
    have hiff : s.namesLamp i ch = true ↔ (s.tables.telltale[i]).lamp = some ch := by
      rw [namesLamp_iff]; exact ⟨fun h => h.2, fun h => ⟨hv, h⟩⟩
    by_cases h : (s.tables.telltale[i]).lamp = some ch
    · have hd := hn h
      simp only [h, hd, hiff.2 h, true_and, and_true]
      simp
    · have : ¬ s.namesLamp i ch = true := fun g => h (hiff.1 g)
      rw [if_neg (fun g => h g.1), if_neg (fun g => h g.1), if_neg (fun g => this g.1)]
  · intro h code hn hc
    show OfferTaken _ _ _ (a.onOffer i).reports
    rw [(onOffer_eq a i).1 h code (by rw [hheld]; exact hn) (by rw [hat, hal]; exact hc)]
    unfold State.offerPresentation
    rw [hat]
    exact placeOffer_spec ..
  · intro h
    show _ ∧ (a.onOffer i).reports = []
    rw [(onOffer_eq a i).2 (by rw [hheld, hat, hal]; exact h)]
    exact ⟨rfl, rfl⟩
  · show (a.onOffer i).state.onChime i = _
    have hot : (a.onOffer i).state.tables = s.tables := ((moving_presented i).onOffer a i).reacted.tables.trans hat
    generalize (a.onOffer i).state = v at hot ⊢
    rw [← hot]
    unfold State.onChime
    cases (v.tables.telltale[i]).chime <;> rfl

/-! ### To OFF -/

/-- To OFF (R84, R88). -/
theorem telltaleOff_spec (s : State) (i : Fin 64) : WentOff s i (s.telltaleOff i).state (s.telltaleOff i).reports := by
  let r : Telltale := { s.telltales.records[i] with state := .off, debounce := none, acknowledged := false, held := .none }
  let a := s.setTelltale i r
  let w := if (s.telltales.records[i]).held = .none then Change.silent a else a.withdraw i
  let c := w.state.removeRequest i
  have hu : (s.telltaleOff i).state = c.recomputeNamed (s.tables.telltale[i]).lamp := rfl
  have hbt : w.state.telltales = a.telltales := by
    show (if (s.telltales.records[i]).held = .none then Change.silent a else a.withdraw i).state.telltales = _
    split <;> rfl
  have hct : c.telltales = a.telltales := (removeRequest_telltales ..).trans hbt
  have hbr : Reacted s w.state := by
    show Reacted s (if (s.telltales.records[i]).held = .none then Change.silent a else a.withdraw i).state
    split
    · exact (presented_setTelltale s i r).reacted
    · exact ((presented_setTelltale s i r).trans ((moving_presented i).withdraw ..)).reacted
  have hcr : Reacted s c := hbr.trans (presented_removeRequest w.state i).reacted
  refine ⟨w.state, c, ?_, removeRequest_spec w.state i, ?_, ?_⟩
  · show if (s.telltales.records[i]).held = .none then w.state = a ∧ w.reports = [] else Withdrawn a i w.state w.reports
    by_cases h : (s.telltales.records[i]).held = .none
    · rw [if_pos h, show w = Change.silent a from if_pos h]; exact ⟨rfl, rfl⟩
    · rw [if_neg h, show w = a.withdraw i from if_neg h]; exact withdraw_spec ..
  · rw [hu]; exact recomputeNamed_rest ..
  · intro hv ch
    have hnames : ∀ (j : Fin 64) (x : Fin 32), c.namesLamp j x = s.namesLamp j x := fun j x => by
      unfold State.namesLamp; rw [hcr.tables]
    have hiff : s.namesLamp i ch = true ↔ (s.tables.telltale[i]).lamp = some ch := by
      rw [namesLamp_iff]; exact ⟨fun h => h.2, fun h => ⟨hv, h⟩⟩
    have hbulb : c.bulbDemands ch = s.bulbDemands ch := by
      unfold State.bulbDemands
      simp only [hnames, hcr.tables, hct]
      rfl
    have hshown : ∀ j : Fin 64, c.lampShownBy j ch = (decide (j ≠ i) && s.lampShownBy j ch) := fun j => by
      unfold State.lampShownBy
      rw [hnames, hct]
      show (_ && (a.telltales.records[j]).state.shown) = _
      have : a.telltales.records[j] = _ := setTelltale_record ..
      rw [this]
      by_cases e : i = j
      · subst e; simp [r, TelltaleState.shown]
      · rw [if_neg e]; simp [Ne.symm e]
    have hdem : c.lampDemanded ch = true ↔ s.demandedWithout i ch := by
      unfold State.lampDemanded State.demandedWithout
      rw [Bool.or_eq_true, hbulb, List.any_eq_true]
      simp only [hshown, Bool.and_eq_true, decide_eq_true_eq, List.mem_finRange, true_and]
    have hl := recomputeNamed_lamps c (s.tables.telltale[i]).lamp ch
    rw [← hu, hct] at hl
    have hal : a.telltales.lamps[ch] = s.telltales.lamps[ch] := rfl
    rw [hal] at hl
    refine ⟨fun h => ?_, fun h hd => ?_, fun h hd => ?_⟩
    · have hn : ¬ (s.tables.telltale[i]).lamp = some ch := fun g => by rw [hiff.2 g] at h; cases h
      rw [hl, if_neg (fun g => hn g.1), if_neg (fun g => hn g.1)]
    · have hd' : c.lampDemanded ch = true := hdem.2 hd
      rw [hl]
      by_cases e : s.telltales.lamps[ch] = .idle
      · rw [if_pos ⟨hiff.1 h, e, hd'⟩, if_pos e]
      · rw [if_neg (fun g => e g.2.1), if_neg (fun g => by rw [hd'] at g; cases g.2.2), if_neg e]
    · have hd' : c.lampDemanded ch = false := by
        cases e : c.lampDemanded ch
        · rfl
        · exact absurd (hdem.1 e) hd
      rw [hl]
      by_cases e : s.telltales.lamps[ch] = .lit
      · rw [if_neg (fun g => by rw [hd'] at g; cases g.2.2), if_pos ⟨hiff.1 h, e, hd'⟩, if_pos e]
      · rw [if_neg (fun g => by rw [hd'] at g; cases g.2.2), if_neg (fun g => e g.2.1), if_neg e]

/-! ### Evaluations -/

theorem setTelltale_setTelltale (s : State) (i : Fin 64) (r x : Telltale) :
    (s.setTelltale i r).setTelltale i x = s.setTelltale i x := by
  unfold State.setTelltale
  simp

theorem fallen_iff (s : State) (i : Fin 64) : s.fallen i = .latched ↔
    (s.tables.telltale[i]).latch = .untilIgnitionOff ∧ s.time.part.driving = true := by
  have hd : s.time.part.driving = true ↔ s.time.part = .homing ∨ s.time.part = .run := by cases s.time.part <;> simp [PartState.driving]
  unfold State.fallen
  rw [hd]
  split <;> simp_all

/-- The outcome of an off-debounce expiry (R82). -/
theorem telltaleFallen_spec (s : State) (i : Fin 64) :
    (s.fallen i = .latched → s.telltaleFallen i =
      .silent (s.setTelltale i { s.telltales.records[i] with state := .latched, debounce := none })) ∧
    (s.fallen i ≠ .latched → WentOff s i (s.telltaleFallen i).state (s.telltaleFallen i).reports) := by
  unfold State.telltaleFallen
  refine ⟨fun h => if_pos ((fallen_iff s i).1 h), fun h => ?_⟩
  rw [if_neg (fun g => h ((fallen_iff s i).2 g))]
  exact telltaleOff_spec s i

/-- A move by the record as it is stored (R81, R82). -/
theorem moveTelltale_stored (s : State) (i : Fin 64) (r : Telltale) :
    let c := (s.setTelltale i r).moveTelltale i
    match r.state, r.condition with
    | .off, true =>
      if (s.tables.telltale[i]).onDebounce = 0 then WentOn (s.setTelltale i r) i c.state c.reports
      else c.state = s.setTelltale i { r with state := .rising, debounce := some (s.tables.telltale[i]).onDebounce } ∧
        c.reports = []
    | .rising, false => c.state = s.setTelltale i { r with state := .off, debounce := none } ∧ c.reports = []
    | .on, false =>
      if (s.tables.telltale[i]).offDebounce = 0 then
        if s.fallen i = .latched then c.state = s.setTelltale i { r with state := .latched, debounce := none } ∧ c.reports = []
        else WentOff (s.setTelltale i r) i c.state c.reports
      else c.state = s.setTelltale i { r with state := .falling, debounce := some (s.tables.telltale[i]).offDebounce } ∧
        c.reports = []
    | .falling, true | .latched, true => c.state = s.setTelltale i { r with state := .on, debounce := none } ∧ c.reports = []
    | .off, false | .rising, true | .on, true | .falling, false | .latched, false =>
      c.state = s.setTelltale i r ∧ c.reports = [] := by
  have hr : (s.setTelltale i r).telltales.records[i] = r := by rw [setTelltale_record, if_pos rfl]
  have hset : ∀ x, (s.setTelltale i r).setTelltale i x = s.setTelltale i x := fun x => setTelltale_setTelltale ..
  have hf : (s.setTelltale i r).fallen i = s.fallen i := rfl
  have ht : (s.setTelltale i r).tables = s.tables := rfl
  have hspec := telltaleFallen_spec (s.setTelltale i r) i
  rw [hf, hr, hset] at hspec
  dsimp only at hspec
  have hm : ∀ st c, r.state = st → r.condition = c → (s.setTelltale i r).moveTelltale i = match st, c with
      | .off, true =>
        if (s.tables.telltale[i]).onDebounce = 0 then (s.setTelltale i r).telltaleOn i
        else .silent (s.setTelltale i { r with state := .rising, debounce := some (s.tables.telltale[i]).onDebounce })
      | .rising, false => .silent (s.setTelltale i { r with state := .off, debounce := none })
      | .on, false =>
        if (s.tables.telltale[i]).offDebounce = 0 then (s.setTelltale i r).telltaleFallen i
        else .silent (s.setTelltale i { r with state := .falling, debounce := some (s.tables.telltale[i]).offDebounce })
      | .falling, true => .silent (s.setTelltale i { r with state := .on, debounce := none })
      | .latched, true => .silent (s.setTelltale i { r with state := .on, debounce := none })
      | .off, false | .rising, true | .on, true | .falling, false | .latched, false => .silent (s.setTelltale i r) := by
    rintro _ _ rfl rfl
    unfold State.moveTelltale
    rw [hr, ht]
    cases hs : r.state <;> cases hc : r.condition <;> simp only [hset, hs, hc]
  have hm := hm _ _ rfl rfl
  dsimp only
  revert hm hspec
  generalize r.state = st, r.condition = c
  intro hspec hm
  revert hm
  generalize (s.setTelltale i r).moveTelltale i = u
  intro hm
  cases st <;> cases c <;> dsimp only at hm ⊢ <;> first | exact hm ▸ ⟨rfl, rfl⟩ | skip
  · split
    · next h => rw [if_pos h] at hm; rw [hm]; exact telltaleOn_spec ..
    · next h => rw [if_neg h] at hm; exact hm ▸ ⟨rfl, rfl⟩
  · split
    · next h =>
      rw [if_pos h] at hm
      subst hm
      split
      · next g => exact hspec.1 g ▸ ⟨rfl, rfl⟩
      · next g => exact hspec.2 g
    · next h => rw [if_neg h] at hm; exact hm ▸ ⟨rfl, rfl⟩

/-- A move by a condition that is stored (R81, R82). -/
theorem moveTelltale_spec (s : State) (i : Fin 64) (c : Bool) :
    Moved s i c ((s.setCondition i c).moveTelltale i).state ((s.setCondition i c).moveTelltale i).reports :=
  moveTelltale_stored s i { s.telltales.records[i] with condition := c }

/-- A fresh evaluation (R80). -/
theorem evaluateFresh_spec (s : State) (i : Fin 64) :
    Moved s i ((s.tables.telltale[i]).condition (s.slot (s.tables.telltale[i]).source) false) (s.evaluateFresh i).state
      (s.evaluateFresh i).reports := by
  have h : s.evaluateFresh i = ((s.setCondition i
      ((s.tables.telltale[i]).condition (s.slot (s.tables.telltale[i]).source) false)).moveTelltale i) := by
    show ((s.setCondition i false).setCondition i _).moveTelltale i = _
    have hr : (s.setCondition i false).telltales.records[i] = { s.telltales.records[i] with condition := false } := by
      unfold State.setCondition; rw [setTelltale_record, if_pos rfl]
    congr 1
    rw [hr]
    unfold State.setCondition
    rw [setTelltale_setTelltale, setTelltale_record, if_pos rfl]
    rfl
  rw [h]
  exact moveTelltale_spec s i _

/-- A fold over the telltales takes them in turn (R80). -/
theorem inTurn_fold {turn : State → Fin 64 → State → Prop} {f : State → Fin 64 → State} (h : ∀ s i, turn s i (f s i))
    (s : State) : InTurn turn s ((List.finRange 64).foldl f s) := by
  refine ⟨fun n => ((List.finRange 64).take n).foldl f s, rfl, ?_, fun i => ?_⟩
  · dsimp only
    rw [List.take_of_length_le (by simp)]
  · dsimp only
    rw [List.take_add_one, List.foldl_append]
    have : (List.finRange 64)[i.val]? = some i := by simp
    rw [this]
    exact h _ i

/-! ### Entry writes -/

/-- A recomputed demand of one channel (R88). -/
theorem recomputeNamed_relit (s : State) (l : Option (Fin 32)) (ch : Fin 32) : (s.recomputeNamed l).telltales.lamps[ch] =
    if l = some ch then relit s.telltales.lamps[ch] (s.lampDemanded ch) else s.telltales.lamps[ch] := by
  rw [recomputeNamed_lamps]
  by_cases h : l = some ch
  · simp only [h, true_and, if_true]
    cases s.telltales.lamps[ch] <;> cases s.lampDemanded ch <;> simp [relit]
  · simp only [h, false_and, if_false]

theorem recomputeNamed_demanded (s : State) (l : Option (Fin 32)) (ch : Fin 32) :
    (s.recomputeNamed l).lampDemanded ch = s.lampDemanded ch := by
  rw [recomputeNamed_rest]
  rfl

theorem relit_relit (l : LampState) (d : Bool) : relit (relit l d) d = relit l d := by cases l <;> cases d <;> rfl

end Sys2Proof.Machine
end

