-- ==== Sys2Proof/Laws/Published.lean ====
section
/-! SUPPORT. A write of slot 127 with what its readers do (`SevereTold`), and with it an occurrence, an offer and a change's reports
(`Raised`, `Offered`, `Reported`); that an event takes its readers one after another, each once (`observe_path`, `derivedEvent_taken`); one channel's work at a
filter tick (`ChannelTicked`). -/

namespace Sys2Proof.Machine

/-! ### The order of the readers -/

/-- The free order is an order of the same readers (R104, R163). -/
theorem arrange_perm (n : Nat) : ∀ l : List Reader, (arrange n l).Perm l
  | [] => .refl _
  | r :: rs => by
    have ih := arrange_perm n rs
    unfold arrange
    split
    · next h => rw [h] at ih; exact ih.cons r
    · next q qs h =>
      rw [h] at ih
      exact (List.perm_insertIdx r (q :: qs) (by simp; exact Nat.le_of_lt_succ (Nat.mod_lt _ (by omega)))).trans (ih.cons r)

/-- An event takes every reader once, in some order (R104, R163). -/
theorem observe_path (run : Reader → State → State) (readers : List Reader) (s : State) :
    ∃ (order : List Reader) (n : Nat) (path : Nat → State), order.Perm readers ∧ path 0 = { s with choices := n } ∧
      path order.length = observe run readers s ∧
      ∀ (j : Nat) (r : Reader), order[j]? = some r → path (j + 1) = run r (path j) := by
  have key : ∀ (order : List Reader) (a : State), ∃ path : Nat → State, path 0 = a ∧
      path order.length = order.foldl (fun s r => run r s) a ∧
      ∀ (j : Nat) (r : Reader), order[j]? = some r → path (j + 1) = run r (path j) := by
    intro order a
    refine ⟨fun j => (order.take j).foldl (fun s r => run r s) a, by simp, by simp, fun j r h => ?_⟩
    dsimp only
    rw [List.take_add_one, List.foldl_append, h]
    rfl
  unfold observe
  split
  · obtain ⟨path, h₀, h₁, h₂⟩ := key readers s
    exact ⟨readers, s.choices, path, .refl _, h₀, h₁, h₂⟩
  · obtain ⟨path, h₀, h₁, h₂⟩ := key (arrange s.choices readers) { s with choices := s.choices + 1 }
    exact ⟨_, _, path, arrange_perm _ _, h₀, h₁, h₂⟩

/-! ### Targets -/

/-- What an event of slot `k` makes of one channel (R57). -/
theorem targetsTaken_channel (s : State) (k : Fin 128) (ch : Fin 6) : (s.targetsTaken k).gauges.channels[ch] =
    if ((s.gauges.channels[ch]).state.follows && (s.tables.gauge[ch]).source == k) = true then
      (s.evaluateTarget ch).gauges.channels[ch] else s.gauges.channels[ch] := by
  have hf : ∀ x : ChannelState, (x = .homing ∨ x = .tracking) ↔ x.follows = true := fun x => by cases x <;> simp [ChannelState.follows]
  have ht : (s.evaluateTarget ch).gauges.channels[ch] = { s.gauges.channels[ch] with
      target := (s.tables.gauge[ch]).target s.tables.curve[(s.tables.gauge[ch]).curve] (s.slot (s.tables.gauge[ch]).source)
        (s.gauges.channels[ch]).target } := by
    show (s.gauges.channels.set ch _)[ch.val] = _
    rw [Vector.getElem_set_self]
  rw [ht]
  unfold State.targetsTaken
  dsimp only
  rw [Fin.getElem_fin, Vector.getElem_ofFn]
  simp only [hf, Fin.eta, Bool.and_eq_true, beq_iff_eq]
  split
  · next h => rw [h.2]
  · rfl

/-- The channels on a slot take their targets, each from its own record (R57). -/
theorem gaugesObserve_eq (s : State) (k : Fin 128) : s.gaugesObserve k = s.targetsTaken k := by
  let on := fun v : Vector Channel 6 => { s with gauges := { s.gauges with channels := v } }
  let step := fun (s : State) (ch : Fin 6) =>
    if (s.gauges.channels[ch]).state.follows && (s.tables.gauge[ch]).source == k then s.evaluateTarget ch else s
  have one : ∀ (v : Vector Channel 6) (c : Fin 6), v[c] = s.gauges.channels[c] →
      step (on v) c = on (v.set c (s.targetsTaken k).gauges.channels[c]) := by
    intro v c h
    rw [targetsTaken_channel]
    show (if ((v[c]).state.follows && (s.tables.gauge[c]).source == k) = true then (on v).evaluateTarget c else on v) = _
    rw [h]
    by_cases g : ((s.gauges.channels[c]).state.follows && (s.tables.gauge[c]).source == k) = true
    · rw [if_pos g, if_pos g]
      have e : (s.evaluateTarget c).gauges.channels[c] = { s.gauges.channels[c] with
          target := (s.tables.gauge[c]).target s.tables.curve[(s.tables.gauge[c]).curve] (s.slot (s.tables.gauge[c]).source)
            (s.gauges.channels[c]).target } := by
        show (s.gauges.channels.set c _)[c.val] = _
        rw [Vector.getElem_set_self]
      rw [e, ← h]
      rfl
    · rw [if_neg g, if_neg g, ← h]
      congr 2
      simp
  have key : ∀ (l : List (Fin 6)) (v : Vector Channel 6), l.Nodup → (∀ ch ∈ l, v[ch] = s.gauges.channels[ch]) →
      l.foldl step (on v) =
        on (Vector.ofFn fun ch : Fin 6 => if ch ∈ l then (s.targetsTaken k).gauges.channels[ch] else v[ch]) := by
    intro l
    induction l with
    | nil =>
      intro v _ _
      have : (Vector.ofFn fun ch : Fin 6 => v[ch]) = v := by ext i hi : 1; simp
      simp only [List.foldl_nil, List.not_mem_nil, if_false, this]
    | cons c l ih =>
      intro v hn hv
      have hcl : c ∉ l := (List.nodup_cons.1 hn).1
      rw [List.foldl_cons, one v c (hv c (by simp)), ih _ (List.nodup_cons.1 hn).2 (fun ch h => by
        show (v.set c _)[ch.val] = _
        rw [Vector.getElem_set_ne _ _ (fun e => hcl (by rw [Fin.ext e]; exact h))]
        exact hv ch (List.mem_cons_of_mem _ h))]
      congr 1
      ext i hi : 1
      simp only [Vector.getElem_ofFn, List.mem_cons, Fin.getElem_fin, Vector.getElem_set]
      by_cases h : (⟨i, hi⟩ : Fin 6) ∈ l
      · simp [h]
      · by_cases e : c.val = i
        · subst e; simp [hcl]
        · have : ¬ (⟨i, hi⟩ : Fin 6) = c := fun g => e (by rw [← g])
          simp [h, e, this]
  show (List.finRange 6).foldl step (on s.gauges.channels) = _
  rw [key _ _ (List.nodup_finRange 6) (fun _ _ => rfl)]
  show on _ = on _
  refine congrArg on ?_
  ext i hi : 1
  simp [State.targetsTaken]

/-! ### The telltales and the acknowledge detector as readers -/

/-- `publish` writes slot 127 and brings what `told` says (R169); it is a reaction, and keeps NOTICE records and the capture. -/
structure Publishes (told : State → State → Prop) (publish : State → State) : Prop where
  reacted : ∀ s, Reacted s (publish s)
  notices : ∀ s, KeepsNotices s (publish s)
  told : ∀ s, told s (publish s)

variable {told : State → State → Prop} {publish : State → State}

theorem Publishes.reported (h : Publishes told publish) (c : Change) : ReportedWith told c.reports c.state (c.reported publish) :=
  reported_spec h.reacted h.notices h.told c

/-- The telltales on a slot are evaluated in turn (R80). -/
theorem Publishes.evaluateReaders (h : Publishes told publish) (k : Fin 128) (s : State) :
    TelltalesActedWith told k s (evaluateReaders publish k s) := by
  unfold Machine.evaluateReaders
  refine inTurn_fold (fun s i => ?_) s
  simp only [Bool.and_eq_true, beq_iff_eq]
  split
  · exact ⟨_, _, moveTelltale_spec s i _, h.reported _⟩
  · rfl

/-- The acknowledge detector (R105, R106). -/
theorem Publishes.observeAck (h : Publishes told publish) (k : Fin 128) (s : State) :
    AckActedWith told k s (observeAck publish k s) := by
  show if s.messages.lastSeen = .zero ∧ (s.slot k).seen = .nonZero then _ else _
  unfold Machine.observeAck
  dsimp only
  split
  · exact ⟨_, _, press_spec _, h.reported _⟩
  · rfl

/-! ### An event of a derived slot -/

theorem telltalesRead_iff (s : State) (k : Fin 128) : s.telltalesRead k = true ↔
    ∃ i : Fin 64, (s.tables.telltale[i]).valid = true ∧ (s.tables.telltale[i]).source = k := by
  unfold State.telltalesRead
  simp

theorem hasCrew_iff (s : State) (x : CrewPosition) : s.hasCrew x = true ↔
    ∃ (p : Fin 4) (r : CrewRecord), s.crew.places[p] = some r ∧ r.place = .attached x := by
  unfold State.hasCrew Crew.attached
  cases h : s.crew.attachedPlace x with
  | none =>
    unfold Crew.attachedPlace Crew.find at h
    simp only [Option.isSome_none, Bool.false_eq_true, false_iff]
    rintro ⟨p, r, hp, hr⟩
    have := List.find?_eq_none.1 h p (List.mem_finRange p)
    rw [hp] at this
    exact this (by simp [CrewRecord.attachedAt, hr])
  | some p =>
    unfold Crew.attachedPlace Crew.find at h
    have := List.find?_some h
    cases hp : s.crew.places[p] with
    | none => rw [hp] at this; simp at this
    | some r =>
      rw [hp] at this
      dsimp only
      rw [hp]
      simp only [Option.isSome_some, true_iff]
      exact ⟨p, r, hp, by simpa [CrewRecord.attachedAt] using this⟩

/-- The readers of a derived slot are those the manual names (R18, R105, R122). -/
theorem mem_derivedReaders (s : State) (k : Fin 128) (r : Reader) : r ∈ s.derivedReaders k ↔ s.derivedReader k r := by
  have hw : ∀ (q : Reader) (b : Bool), r ∈ q.when b ↔ r = q ∧ b = true := fun q b => by cases b <;> simp [Reader.when]
  unfold State.derivedReaders State.derivedReader
  simp only [List.mem_append, hw, telltalesRead_iff, beq_iff_eq, Bool.and_eq_true, Bool.or_eq_true, hasCrew_iff]
  cases r <;> simp
  refine fun _ => ⟨?_, ?_⟩
  · rintro (⟨p, r, h⟩ | ⟨p, r, h⟩)
    · exact ⟨p, r, h.1, _, h.2⟩
    · exact ⟨p, r, h.1, _, h.2⟩
  · rintro ⟨p, r, h, x, hx⟩
    cases x
    · exact .inl ⟨p, r, h, hx⟩
    · exact .inr ⟨p, r, h, hx⟩

theorem derivedReaders_nodup (s : State) (k : Fin 128) : (s.derivedReaders k).Nodup := by
  unfold State.derivedReaders Reader.when
  split <;> split <;> split <;> decide

/-- An event of a derived slot takes each of its readers once (R18, R37). -/
theorem derivedEvent_taken {publish : State → State} {acted : Reader → State → State → Prop} {k : Fin 128} (s : State)
    (h : ∀ r, s.derivedReader k r → ∀ x, acted r x (runDerived publish k r x)) :
    EventTakenBy acted k (s.derivedReader k) s (derivedEvent publish k s) := by
  obtain ⟨order, n, path, hperm, h₀, h₁, hstep⟩ := observe_path (runDerived publish k) (s.derivedReaders k) (s.gaugesObserve k)
  refine ⟨order, n, path, hperm.nodup_iff.2 (derivedReaders_nodup s k), fun r => ?_, ?_, h₁, fun j r hj => ?_⟩
  · rw [hperm.mem_iff, mem_derivedReaders]
  · rw [h₀, gaugesObserve_eq]
  · rw [hstep j r hj]
    exact h r ((mem_derivedReaders s k r).1 (hperm.mem_iff.1 (List.mem_of_getElem? hj))) _

/-! ### Slot 127 holds its count -/

theorem severeHeld_written (s : State) : s.severeWritten.severeHeld := by
  unfold State.severeHeld State.severeWritten
  rw [slot_setSlot, if_pos rfl]
  rfl

/-- Across a step slot 127 keeps its count (R169). -/
structure KeepsSevere (s t : State) : Prop where
  holds : s.severeHeld → t.severeHeld

theorem keepsSevere_same {s t : State} (hs : t.store = s.store) (ht : t.tables = s.tables)
    (hf : t.faults.status = s.faults.status) : KeepsSevere s t := by
  refine ⟨fun h => ?_⟩
  unfold State.severeHeld at h ⊢
  have hc : t.severeCount = s.severeCount := by
    unfold State.severeCount
    congr 1
    funext c
    unfold State.countsSevere
    rw [hf, ht]
  rw [slot_of_store (s := s) (by rw [hs]), hc]
  exact h

theorem keepsSevere_trans {s t u : State} (h : KeepsSevere s t) (g : KeepsSevere t u) : KeepsSevere s u := ⟨fun x => g.holds (h.holds x)⟩

theorem keepsSevere_refl (s : State) : KeepsSevere s s := ⟨fun h => h⟩

theorem keepsSevere_occur (hp : ∀ s, (publish s).severeHeld) (n : Nat) (c : FaultClass) (d : FaultDetail)
    (s : State) : KeepsSevere s (occur publish n c d s) := by
  cases h : s.faults.status[c.number] with
  | true =>
    rw [occur_again h]
    exact keepsSevere_same rfl rfl (set_true_of_getElem _ _ h)
  | false =>
    refine ⟨fun _ => ?_⟩
    unfold Machine.occur
    simp only [h]
    exact hp _

theorem presented_keepsSevere {s t : State} (h : Presented s t) : KeepsSevere s t := by
  rw [h.rest]; exact keepsSevere_same rfl rfl rfl

theorem keepsSevere_reported (hp : ∀ s, (publish s).severeHeld) (c : Change) : KeepsSevere c.state (c.reported publish) := by
  unfold Change.reported
  generalize c.state = s
  induction c.reports generalizing s with
  | nil => exact keepsSevere_refl _
  | cons r l ih =>
    refine keepsSevere_trans ?_ (ih _)
    cases r with
    | dropped i => exact keepsSevere_occur hp ..
    | present =>
      show KeepsSevere s (offerWith publish _ s)
      unfold offerWith
      split
      · exact keepsSevere_same rfl rfl rfl
      · exact keepsSevere_occur hp ..

theorem keepsSevere_runDerived (hp : ∀ s, (publish s).severeHeld) (k : Fin 128) (r : Reader)
    (hr : r ≠ .road) (s : State) : KeepsSevere s (runDerived publish k r s) := by
  cases r with
  | telltales =>
    show KeepsSevere s (evaluateReaders publish k s)
    unfold evaluateReaders
    generalize List.finRange 64 = l
    induction l generalizing s with
    | nil => exact keepsSevere_refl _
    | cons i l ih =>
      rw [List.foldl_cons]
      refine keepsSevere_trans ?_ (ih _)
      split
      · exact keepsSevere_trans (presented_keepsSevere (presented_evaluateTelltale s i)) (keepsSevere_reported hp _)
      · exact keepsSevere_refl _
  | ack =>
    show KeepsSevere s (observeAck publish k s)
    have hs : KeepsSevere s (s.setSeen (s.slot k).seen) := keepsSevere_same rfl rfl rfl
    unfold observeAck
    dsimp only
    split
    · exact keepsSevere_trans hs (keepsSevere_trans (presented_keepsSevere (presented_press _)) (keepsSevere_reported hp _))
    · exact hs
  | road => exact absurd rfl hr
  | speed | activity | token | tally | time => exact keepsSevere_refl _

theorem not_road_of_severe {s : State} (r : Reader) (h : s.derivedReader 127 r) : r ≠ .road := by
  rintro rfl
  exact absurd h.1 (by decide)

/-- A write of slot 127, to any depth, leaves it holding the count (R169). -/
theorem severeHeld_publish (n : Nat) (s : State) : (Machine.publish n s).severeHeld := by
  induction n generalizing s with
  | zero => exact severeHeld_written s
  | succ n ih =>
    have h₀ : KeepsSevere s.storeSevere (s.storeSevere.gaugesObserve 127) := by
      rw [gaugesObserve_eq]; exact keepsSevere_same rfl rfl rfl
    refine (observe_induction keepsSevere_refl (fun _ _ _ => keepsSevere_trans) (fun _ _ => keepsSevere_same rfl rfl rfl) _ _
      (fun r hr x => ?_)).holds (h₀.holds (severeHeld_written s))
    exact keepsSevere_runDerived ih 127 r (not_road_of_severe r ((mem_derivedReaders _ _ _).1 hr)) x

/-! ### Occurrences and offers -/

/-- An event of a derived slot other than ROAD_SPEED at its readers (R18, R37). -/
theorem Publishes.derivedEvent (h : Publishes told publish) {k : Fin 128} (hk : k ≠ 120) (s : State) :
    DerivedToldWith told k s (derivedEvent publish k s) := by
  refine derivedEvent_taken s fun r hr x => ?_
  cases r with
  | telltales => exact h.evaluateReaders ..
  | ack => exact h.observeAck ..
  | road => exact absurd hr.1 hk
  | speed | activity | token | tally | time => rfl

/-- A write of slot 127 with its readers, to any depth (R18, R37, R169). -/
theorem publishes (n : Nat) : Publishes (SevereToldTo n) (Machine.publish n) where
  reacted := reacted_publish n
  notices := closed_keepsNotices.publish n
  told := by
    induction n with
    | zero => exact fun s => ⟨.refl _, severeHeld_publish 0 s⟩
    | succ n ih =>
      exact fun s => ⟨Publishes.derivedEvent ⟨reacted_publish n, closed_keepsNotices.publish n, ih⟩ (by decide) s.storeSevere,
        severeHeld_publish (n + 1) s⟩

/-- The Fault Unit writes slot 127 and its readers take the event (R18, R37, R169). -/
theorem publishes_severe : Publishes SevereTold publishSevere := publishes 17

/-- A derived slot other than ROAD_SPEED is written, with its event (R37). -/
theorem writeDerived_told {k : Fin 128} (hk : k ≠ 120) (x : Slot) (s : State) : DerivedTold k (s.setSlot k x) (writeDerived k x s) :=
  publishes_severe.derivedEvent hk _

/-- The Fault Unit writes slot 127 and its readers take the event (R37, R169). -/
theorem publishSevere_spec (s : State) : SevereTold s (publishSevere s) := publishes_severe.told s

/-- The writes of slots 122 to 125, each with its event (R138, R139). -/
theorem writeRemaining_told (s : State) : RemainingTold s (writeRemaining s) := by
  have step : ∀ (k : Fin 128) (x : CrewPosition) (c : TallyCounter), k ≠ 120 → ∀ s : State,
      DerivedTold k (s.setSlot k (s.remainingContent k x c)) (writeDerived k (s.remainingContent k x c) s) :=
    fun k _ _ hk s => writeDerived_told hk _ s
  unfold RemainingTold writeRemaining remainingSlots
  simp only [List.foldl_cons, List.foldl_nil]
  exact ⟨_, _, _, step 122 _ _ (by decide) _, step 123 _ _ (by decide) _, step 124 _ _ (by decide) _, step 125 _ _ (by decide) _⟩

/-- An occurrence at the Fault Unit (R163, R166 to R169). -/
theorem raise_spec (c : FaultClass) (d : FaultDetail) (s : State) : Raised s c d (raise c d s) :=
  raiseWith_spec publishes_severe.reacted publishes_severe.notices publishes_severe.told c d s

/-- An offer to the egress queue (R176). -/
theorem offer_spec (r : EgressRecord) (s : State) : Offered s r (offer r s) :=
  offerWith_spec publishes_severe.reacted publishes_severe.notices publishes_severe.told r s

/-- The reports of a change at the Telltale Unit or the Message Unit go out (R102, R107, R163). -/
theorem reported (c : Change) : Reported c.reports c.state (c.reported publishSevere) := publishes_severe.reported c

/-! ### Filter ticks -/

theorem setChannel_same (s : State) (ch : Fin 6) : s.setChannel ch s.gauges.channels[ch] = s := by
  unfold State.setChannel
  simp

theorem setChannel_channel (s : State) (ch : Fin 6) (c : Channel) : (s.setChannel ch c).gauges.channels[ch] = c :=
  Vector.getElem_set_self ..

theorem setChannel_setChannel (s : State) (ch : Fin 6) (c d : Channel) :
    (s.setChannel ch c).setChannel ch d = s.setChannel ch d := by
  unfold State.setChannel
  simp

/-- A filter tick of a channel by its state (R56). -/
theorem tickedChannel_of_state {c : Channel} (e : GaugeEntry) (part : PartState) (target : Nat) :
    (c.state = .homing → e.maxPos + 64 ≤ c.homingDistance + 32 → tickedChannel c e part target =
      Channel.endHoming { c.driveHome with target := c.target } e part) ∧
    (c.state = .homing → ¬ e.maxPos + 64 ≤ c.homingDistance + 32 → tickedChannel c e part target = c.driveHome) ∧
    (c.state = .tracking → tickedChannel c e part target = Channel.track { c with target := target } e) ∧
    (c.state = .parking → tickedChannel c e part target = c.park e) ∧
    (c.state = .unhomed ∨ c.state = .parked ∨ c.state = .disabled → tickedChannel c e part target = c) := by
  obtain ⟨state, t, f, p, n, d, k, m⟩ := c
  refine ⟨?_, ?_, ?_, ?_, ?_⟩
  · rintro rfl h
    unfold tickedChannel
    dsimp only
    rw [if_pos h]
    by_cases hn : n < 3 <;> simp [Channel.endHoming, homedState, Channel.driveHome, Config.homingStep, hn]
  · rintro rfl h
    unfold tickedChannel
    dsimp only
    rw [if_neg h]
    rfl
  · rintro rfl
    unfold tickedChannel Channel.track
    dsimp only
    congr 1
    simp [bne, Bool.beq_eq_decide_eq]
  · rintro rfl
    unfold tickedChannel Channel.park Channel.parkedIfHome restingState
    dsimp only
    split <;> rfl
  · rintro (rfl | rfl | rfl) <;> rfl

/-- One channel's work at a filter tick (R56, R57, R60, R61, R63, R68). -/
theorem tickChannel_spec (ch : Fin 6) (s : State) : ChannelTicked s ch (tickChannel ch s) := by
  have key : ∀ c, s.gauges.channels[ch] = c → ChannelTicked s ch (tickChannel ch s) := by
    intro c hc
    obtain ⟨hfail, hhome, htrack, hpark, hrest⟩ :=
      tickedChannel_of_state (c := c) s.tables.gauge[ch] s.time.part (s.tickTarget ch)
    have hx : tickChannel ch s = match (c.state) with
        | .homing => tickHoming ch s
        | .tracking => (s.evaluateTarget ch).updateChannel ch Channel.track
        | .parking => s.updateChannel ch Channel.park
        | .unhomed | .parked | .disabled => s := by rw [← hc]; rfl
    unfold ChannelTicked
    dsimp only
    rw [hx, hc]
    cases h : c.state with
    | homing =>
      dsimp only
      have hd : s.updateChannel ch (fun c _ => c.driveHome) = s.setChannel ch c.driveHome := by rw [← hc]; rfl
      unfold tickHoming
      dsimp only
      rw [hd, setChannel_channel]
      by_cases g : (s.tables.gauge[ch]).maxPos + 64 ≤ c.homingDistance + 32
      · rw [if_pos ⟨rfl, g⟩, if_pos (show (s.tables.gauge[ch]).maxPos + Config.homingMargin ≤ c.driveHome.homingDistance from g),
          hfail h g]
        have hr := raise_spec .gaugeHomingFail (.item (BitVec.ofNat 8 ch.val)) (s.setChannel ch c.driveHome)
        refine ⟨_, by rw [← h]; exact hr, ?_⟩
        have hr := hr.reacted
        unfold raiseItem State.finishHoming State.updateChannel
        generalize raise .gaugeHomingFail (.item (BitVec.ofNat 8 ch.val)) (s.setChannel ch c.driveHome) = u at hr ⊢
        have hm := hr.motion ch
        rw [setChannel_channel] at hm
        congr 1
        rw [hr.tables, hr.time]
        generalize u.gauges.channels[ch] = x at hm ⊢
        rw [hm]
        rfl
      · rw [if_neg (fun x => g x.2),
          if_neg (show ¬ (s.tables.gauge[ch]).maxPos + Config.homingMargin ≤ c.driveHome.homingDistance from g), hhome h g]
    | tracking =>
      dsimp only
      have ht : s.tickTarget ch = (s.tables.gauge[ch]).target s.tables.curve[(s.tables.gauge[ch]).curve]
          (s.slot (s.tables.gauge[ch]).source) c.target := by
        unfold State.tickTarget
        dsimp only
        rw [hc, if_pos h]
      rw [if_neg (fun x => by cases x.1), htrack h, ht]
      unfold State.evaluateTarget State.updateChannel
      dsimp only
      rw [setChannel_channel, setChannel_setChannel, hc]
      rfl
    | parking =>
      dsimp only
      rw [if_neg (fun x => by cases x.1), hpark h]
      unfold State.updateChannel
      rw [hc]
    | unhomed | parked | disabled =>
      rw [if_neg (fun x => by cases x.1), hrest (by simp [h])]
      exact (hc ▸ setChannel_same s ch).symm
  exact key _ rfl

/-- The channels' work, one after another in rising number (R56). -/
theorem tickChannels_path (s : State) : ∃ path : Nat → State, path 0 = s ∧ path 6 = tickChannels s ∧
    ∀ ch : Fin 6, ChannelTicked (path ch.val) ch (path (ch.val + 1)) := by
  refine ⟨fun n => ((List.finRange 6).take n).foldl (fun s ch => tickChannel ch s) s, rfl, ?_, fun ch => ?_⟩
  · dsimp only
    rw [List.take_of_length_le (by simp)]
    rfl
  · dsimp only
    rw [List.take_add_one, List.foldl_append]
    have : (List.finRange 6)[ch.val]? = some ch := by simp
    rw [this]
    exact tickChannel_spec ch _

end Sys2Proof.Machine
end

