-- ==== Sys2Proof/Laws/Readers.lean ====
section
/-! SUPPORT. What each reader of a slot does with an event of it (`ReaderActed`): the lemmas to cite for `EventTaken`, with
`observe_path` and `derivedEvent_taken` of Laws/Published.lean. -/

namespace Sys2Proof.Machine

/-! ### The remaining-time slots -/

theorem Reacted.setSlot {s t : State} (h : Reacted s t) (k : Fin 128) (x : Slot) : Reacted (s.setSlot k x) (t.setSlot k x) := by
  refine { h with slots := fun j hj => ?_ }
  simp only [State.setSlot_store_slots, Fin.getElem_fin, Vector.getElem_set]
  split
  · rfl
  · exact h.slots j hj

/-- The writes of slots 122 to 125, with what their readers do (R139). -/
theorem writeRemaining_reacted (s : State) : Reacted s.storeRemaining (writeRemaining s) := by
  have step : ∀ (a b : State) (k : Fin 128) (x : CrewPosition) (c : TallyCounter), k ≠ 120 → k ≠ 127 → Reacted a b →
      Reacted (a.setSlot k (a.remainingContent k x c)) (writeDerived k (b.remainingContent k x c) b) := by
    intro a b k x c h₀ h₁ h
    have : b.remainingContent k x c = a.remainingContent k x c :=
      remainingContent_congr (by rw [h.crew]) h.tables (h.slots k h₁) x c
    rw [this]
    exact (h.setSlot k _).trans (reacted_writeDerived k h₀ _ b)
  unfold State.storeRemaining writeRemaining remainingSlots
  simp only [List.foldl_cons, List.foldl_nil]
  exact step _ _ 125 _ _ (by decide) (by decide) (step _ _ 124 _ _ (by decide) (by decide)
    (step _ _ 123 _ _ (by decide) (by decide) (step _ _ 122 _ _ (by decide) (by decide) (.refl s))))

/-! ### Slot 126 and a wake -/

/-- Slot 126 is written, with its event (R150). -/
theorem writeIgnition_told (s : State) : DerivedTold 126 s.ignitionWritten (writeIgnition s) :=
  writeDerived_told (k := 126) (by decide) s.ignitionContent s

/-- A wake's writes: slots 122 to 125, then 126, then the settle interval (R134, R150, R153, R154). -/
theorem wakingEntry_told (s : State) :
    ∃ v w, RemainingTold (State.creditCrew { s with time := { s.time with part := .waking } } s.sleepGap) v ∧
      DerivedTold 126 v.ignitionWritten w ∧
      wakingEntry s = { w with time := { w.time with settle := some (max 1 s.tables.system.wakeSettle) } } := by
  have h := writeRemaining_reacted (State.creditCrew { s with time := { s.time with part := .waking } } s.sleepGap)
  have hw : wakeCredit (s.setPart .waking) =
      writeRemaining (State.creditCrew { s with time := { s.time with part := .waking } } s.sleepGap) := rfl
  unfold wakingEntry
  rw [hw]
  have ht := writeRemaining_told (State.creditCrew { s with time := { s.time with part := .waking } } s.sleepGap)
  generalize writeRemaining (State.creditCrew { s with time := { s.time with part := .waking } } s.sleepGap) = v at h ht ⊢
  refine ⟨v, _, ht, writeIgnition_told v, ?_⟩
  have hi : (writeIgnition v).tables = s.tables := by
    refine ((reacted_writeDerived 126 (by decide) v.ignitionContent v).tables).trans (h.tables.trans ?_)
    rw [storeRemaining_rest]
    rfl
  unfold State.startSettle State.settleStart
  rw [hi]

/-! ### The readers -/

/-- The telltales on a slot (R80). -/
theorem evaluateReaders_spec (k : Fin 128) (s : State) : ReaderActed k .telltales s (evaluateReaders publishSevere k s) :=
  publishes_severe.evaluateReaders k s

/-- The acknowledge detector (R105, R106). -/
theorem observeAck_spec (k : Fin 128) (s : State) : ReaderActed k .ack s (observeAck publishSevere k s) :=
  publishes_severe.observeAck k s

theorem setActivity_eq (cfg : CrewConfig) (a : Activity) (r : CrewRecord) : CrewRecord.setActivity cfg a r = activityTaken cfg a r := by
  unfold CrewRecord.setActivity activityTaken CrewRecord.endRun
  by_cases h : r.activity = .rest ∧ a ≠ .rest
  · simp [h]
  · have h' : ∀ b, ¬ (r.activity = .rest ∧ a ≠ .rest ∧ b) := fun b g => h ⟨g.1, g.2.1⟩
    rw [if_neg h, if_neg h, if_neg (h' _)]

/-- The place attached at a position is the first whose record is (R121). -/
theorem attachedPlace_first {c : Crew} {x : CrewPosition} {p : Fin 4} {r : CrewRecord} (hp : c.places[p] = some r)
    (hr : r.place = .attached x) (hq : ∀ (q : Fin 4) (y : CrewRecord), q < p → c.places[q] = some y → y.place ≠ .attached x) :
    c.attachedPlace x = some p := by
  unfold Crew.attachedPlace Crew.find
  rw [List.find?_eq_some_iff_getElem]
  refine ⟨by rw [hp]; simp [CrewRecord.attachedAt, hr], p.val, by simp, by simp, fun j hj => ?_⟩
  have hj4 : j < 4 := by omega
  cases h : c.places[(⟨j, hj4⟩ : Fin 4)] with
  | none => simp only [Fin.getElem_fin] at h; simp [h]
  | some y =>
    have := hq ⟨j, hj4⟩ y hj h
    simp only [Fin.getElem_fin] at h
    simp [h, CrewRecord.attachedAt, this]

theorem attached_none {c : Crew} {x : CrewPosition} (h : c.attached x = none) : c.attachedPlace x = none := by
  unfold Crew.attached at h
  split at h
  · next g => exact g
  · next p g =>
    unfold Crew.attachedPlace Crew.find at g
    have := List.find?_some g
    rw [h] at this
    simp at this

/-- A derived activity applied at a position (R122, R124). -/
theorem deriveActivity_spec (s : State) (x : CrewPosition) : ActivityDerived x s (s.deriveActivity x) := by
  refine ⟨fun h => ?_, fun p r hp hr hq => ?_⟩
  · unfold State.deriveActivity Crew.updateAttached
    rw [attached_none h]
  · unfold State.deriveActivity Crew.updateAttached
    rw [attachedPlace_first hp hr hq]
    dsimp only
    unfold Crew.setPlace
    rw [hp, Option.map_some, setActivity_eq]

/-- The road reading (R122). -/
theorem deriveFromRoad_spec (k : Fin 128) (s : State) : ReaderActed k .road s s.deriveFromRoad := by
  have h : ∀ (x : CrewPosition) (s : State),
      if s.namedUsable (s.tables.crew.inputs x).activity = true then
        (if s.namedUsable (s.tables.crew.inputs x).activity then s else s.deriveActivity x) = s
      else ActivityDerived x s (if s.namedUsable (s.tables.crew.inputs x).activity then s else s.deriveActivity x) := by
    intro x s
    split
    · rfl
    · exact deriveActivity_spec s x
  exact ⟨_, h .driver s, h .coDriver _⟩

/-- The activity slot (R122). -/
theorem activityEvent_spec (x : CrewPosition) (k : Fin 120) (s : State) (h : (s.tables.crew.inputs x).activity = some k) :
    ReaderActed (decodedSlot k) (.activity x) s (activityEvent x s) := by
  have hc : s.tachoCode x = if (s.slot (decodedSlot k)).usable = true ∧ 3 < (s.slot (decodedSlot k)).value.toNat then
      some (s.slot (decodedSlot k)).value else none := by
    unfold State.tachoCode
    rw [h]
    simp
  refine ⟨s.deriveActivity x, deriveActivity_spec s x, ?_⟩
  unfold activityEvent State.hasCrew
  rw [hc]
  cases ha : s.crew.attached x with
  | none => simpa using ((deriveActivity_spec s x).1 ha).symm
  | some r =>
    simp only [Option.isSome_some, if_true, ne_eq, reduceCtorEq, not_false_eq_true, true_and]
    split
    · exact raise_spec ..
    · rfl

/-- The token slot (R130). -/
theorem tokenEvent_spec (x : CrewPosition) (k : Fin 128) (s : State) :
    ReaderActed k (.token x) s (tokenEvent x (s.slot k).value s) := by
  unfold ReaderActed tokenEvent
  dsimp only
  cases s.crew.tokenUpdate s.tables.crew s.time.mono x (s.slot k).value with
  | none => rfl
  | some c =>
    have h : ∀ w, Offered w w.snapshot (offerSnapshot w) := fun w => offer_spec w.snapshot w
    dsimp only
    refine ⟨_, writeRemaining_told (s.setCrew c), writeRemaining_reacted (s.setCrew c), ?_⟩
    generalize writeRemaining (s.setCrew c) = w
    exact h w

/-! ### A selection -/

/-- An event of a derived slot leaves the speed arbitration and every slot but 127 (R41, R169). -/
theorem derivedEvent_keeps (k : Fin 128) (s : State) : (derivedEvent publishSevere k s).speed = s.speed ∧
    ∀ j : Fin 128, j ≠ 127 → (derivedEvent publishSevere k s).slot j = s.slot j := by
  let P := fun s t : State => t.speed = s.speed ∧ ∀ j : Fin 128, j ≠ 127 → t.slot j = s.slot j
  have hr : ∀ {s t : State}, Reacted s t → P s t := fun h => ⟨h.speed, h.slots⟩
  have htrans : ∀ s t u, P s t → P t u → P s u := fun s t u h g => ⟨g.1.trans h.1, fun j hj => (g.2 j hj).trans (h.2 j hj)⟩
  refine htrans _ _ _ (hr (reacted_gaugesObserve s k))
    (observe_induction (fun s => hr (.refl s)) htrans (fun s n => hr (reacted_choices s n)) _ _ fun r _ s => ?_)
  by_cases h : r = .road
  · subst h
    have hd : ∀ (s : State) (x : CrewPosition), P s
        (if s.namedUsable (s.tables.crew.inputs x).activity then s else s.deriveActivity x) := fun s x => by
      split
      · exact hr (.refl s)
      · exact ⟨rfl, fun _ _ => rfl⟩
    exact htrans _ _ _ (hd s .driver) (hd _ .coDriver)
  · exact hr (reacted_runDerived reacted_publishSevere k r h s)

/-- A selection (R47, R48). -/
theorem writeSelection_spec (s : State) : Selected s (writeSelection s) := by
  let a := ({ s with speed := { s.speed with selection := s.selectSpeed } } : State).setSlot 120 (s.roadContent s.selectSpeed)
  let b := (derivedEvent publishSevere 120 a).setSlot 121 s.selectSpeed.content
  have ht : writeSelection s = derivedEvent publishSevere 121 b := rfl
  have h₁ := derivedEvent_keeps 120 a
  have h₂ := derivedEvent_keeps 121 b
  refine ⟨?_, ?_, ?_, ht, observed_writeSelection s⟩
  · rw [ht, h₂.1]; exact h₁.1
  · rw [ht, h₂.2 120 (by decide), slot_setSlot, if_neg (by decide), h₁.2 120 (by decide), slot_setSlot, if_pos rfl]
  · rw [ht, h₂.2 121 (by decide), slot_setSlot, if_pos rfl]

/-! ### Events -/

/-- What a reader of a decoded slot does with an event of it (R18). -/
theorem runDecoded_spec {change : SlotChange} {k : Fin 120} {r : Reader} {s : State} (h : s.decodedReader change k r) :
    ReaderActed (decodedSlot k) r s (runDecoded k r s) := by
  cases r with
  | telltales => exact evaluateReaders_spec ..
  | ack => exact observeAck_spec ..
  | road => exact h.elim
  | speed => exact writeSelection_spec s
  | activity x => exact activityEvent_spec x k s h
  | token x => exact tokenEvent_spec ..
  | tally x c => rfl
  | time => rfl

/-- What a reader of a derived slot does with an event of it (R18, R37). -/
theorem runDerived_spec {k : Fin 128} {r : Reader} {s : State} (h : s.derivedReader k r) :
    ReaderActed k r s (runDerived publishSevere k r s) := by
  cases r with
  | telltales => exact evaluateReaders_spec ..
  | ack => exact observeAck_spec ..
  | road => exact deriveFromRoad_spec ..
  | speed | activity | token | tally | time => exact h.elim

end Sys2Proof.Machine
end

