-- ==== Sys2Proof/Laws/Reported.lean ====
section
/-! SUPPORT. A telltale's moves with their reports: a fresh evaluation (`FreshlyEvaluated`), at STANDBY entry and at a reset (`StoodBy`,
`Cleared`), the telltales that become active (`NewlyActive`), the backup offers (`BackupsOffered`), an entry write
(`TelltaleRewritten`). The lemmas to cite wherever a telltale moves outside a slot event. -/

namespace Sys2Proof.Machine

/-- An event taken whole and reported (R104, R163). -/
theorem whole_spec (f : State → Change) (s : State) : Reported (f s).reports (f s).state (whole f s) := reported (f s)

/-- A fresh evaluation, reported (R80). -/
theorem freshlyEvaluated_spec (s : State) (i : Fin 64) : FreshlyEvaluated s i (whole (fun s => s.evaluateFresh i) s) :=
  ⟨_, _, evaluateFresh_spec s i, reported _⟩

/-- A telltale set to OFF, reported (R86, R97). -/
theorem cleared_spec (s : State) (i : Fin 64) : Cleared s i (whole (fun s => s.telltaleCleared i) s) := by
  unfold Cleared whole State.telltaleCleared
  dsimp only
  by_cases h : (s.telltales.records[i]).state = .off
  · rw [if_pos h, if_pos h]; rfl
  · rw [if_neg h, if_neg h]; exact ⟨_, _, telltaleOff_spec .., reported _⟩

/-- STANDBY entry at one telltale, reported (R86). -/
theorem stoodBy_spec (s : State) (i : Fin 64) : StoodBy s i (whole (fun s => s.telltaleStandby i) s) := by
  unfold StoodBy
  by_cases h : (s.tables.telltale[i]).standbyVisible = true
  · rw [if_pos h]
    unfold whole State.telltaleStandby
    dsimp only
    rw [if_pos h]
    by_cases g : (s.telltales.records[i]).state = .latched
    · rw [if_pos g, if_pos g]; exact ⟨_, _, telltaleOff_spec .., reported _⟩
    · rw [if_neg g, if_neg g]; rfl
  · rw [if_neg h]
    have hf : ∀ s : State, s.tables.telltale[i].standbyVisible ≠ true → s.telltaleStandby i = s.telltaleCleared i := fun s g => by
      unfold State.telltaleStandby; rw [if_neg g]
    have := cleared_spec s i
    unfold whole at this ⊢
    dsimp only at this ⊢
    rw [hf s h]
    exact this

/-- A step of each telltale in turn, each whole before the next (R80, R104). -/
theorem eachTelltale_spec {turn : State → Fin 64 → State → Prop} {f : State → Fin 64 → Change}
    (h : ∀ s i, turn s i (whole (fun s => f s i) s)) (s : State) : InTurn turn s (eachTelltale f s) := by
  unfold eachTelltale
  exact inTurn_fold h s

/-- The fresh evaluations of the telltales that become active (R80, R86, R87). -/
theorem freshTelltales_spec (before : PartState) (s : State) : NewlyActive before s (freshTelltales before s) := by
  unfold freshTelltales
  refine eachTelltale_spec (fun s i => ?_) s
  by_cases h : s.telltaleActive i = true ∧ activeIn before s.tables.telltale[i] = false
  · rw [if_pos h]
    have := freshlyEvaluated_spec s i
    unfold whole at this ⊢
    dsimp only at this ⊢
    rw [if_pos (by rw [h.1, h.2]; rfl)]
    exact this
  · rw [if_neg h]
    unfold whole
    dsimp only
    rw [if_neg (by simpa using h)]
    rfl

/-- The backup offers of a channel's entry into OPEN or SHORT_PROTECT (R92). -/
theorem backupOffers_spec (ch : Fin 32) (s : State) : BackupsOffered ch s (backupOffers ch s) := by
  unfold backupOffers
  refine inTurn_fold (fun s i => ?_) s
  dsimp only
  by_cases h : s.namesLamp i ch = true ∧ (s.telltales.records[i]).state = .on ∧ (s.telltales.records[i]).held = .none ∧
      (s.tables.telltale[i]).backup ≠ 0
  · rw [if_pos h, if_pos (by rw [h.1, h.2.1, h.2.2.1]; simpa using h.2.2.2)]
    exact ⟨_, _, placeOffer_spec .., reported _⟩
  · rw [if_neg h, if_neg (by simpa [and_assoc] using h)]

/-! ### Entry writes -/

/-- An accepted write of a telltale's entry, the entry already in its place (R94). -/
theorem telltaleWritten_spec (i : Fin 64) (lampBefore : Option (Fin 32)) (s : State) :
    TelltaleRewritten i lampBefore s (telltaleWritten i lampBefore s) := by
  let a := s.setTelltale i { state := .off, condition := false, debounce := none, acknowledged := false, held := .none }
  let w := if (s.telltales.records[i]).held = .none then Change.silent a else a.withdraw i
  let c := w.state.removeRequest i
  let x := (c.recomputeNamed (s.tables.telltale[i]).lamp).recomputeNamed lampBefore
  have hx : ((s.setCondition i false).telltaleOff i).andThen (fun s => s.recomputeNamed lampBefore) = ⟨x, w.reports⟩ := by
    unfold State.telltaleOff State.setCondition
    dsimp only
    rw [setTelltale_setTelltale, setTelltale_record, if_pos rfl]
    rfl
  have hct : c.telltales = a.telltales := by
    refine (removeRequest_telltales ..).trans ?_
    show (if (s.telltales.records[i]).held = .none then Change.silent a else a.withdraw i).state.telltales = _
    split <;> rfl
  have hlamps : c.telltales.lamps = s.telltales.lamps := by rw [hct]; rfl
  refine ⟨w.state, c, x, (Change.mk x w.reports).reported publishSevere, w.reports, ?_, removeRequest_spec w.state i, ?_,
    fun ch => ?_, reported ⟨x, w.reports⟩, ?_⟩
  · dsimp only
    by_cases h : (s.telltales.records[i]).held = .none
    · rw [if_pos h, show w = Change.silent a from if_pos h]; exact ⟨rfl, rfl⟩
    · rw [if_neg h, show w = a.withdraw i from if_neg h]; exact withdraw_spec ..
  · show x = _
    dsimp only [x]
    rw [recomputeNamed_rest (c.recomputeNamed _) lampBefore, recomputeNamed_rest c]
  · rw [recomputeNamed_demanded, recomputeNamed_demanded, recomputeNamed_relit, recomputeNamed_relit, recomputeNamed_demanded,
      hlamps]
    generalize (s.tables.telltale[i]).lamp = now
    by_cases h : lampBefore = some ch <;> by_cases g : now = some ch <;> simp only [h, g, if_true, if_false, or_true, true_or,
      or_self, relit_relit]
  · unfold telltaleWritten
    have : whole (fun s => ((s.setCondition i false).telltaleOff i).andThen fun s => s.recomputeNamed lampBefore) s =
        (Change.mk x w.reports).reported publishSevere := congrArg (Change.reported publishSevere) hx
    dsimp only
    rw [this]
    split
    · exact freshlyEvaluated_spec ..
    · rfl

end Sys2Proof.Machine
end

