-- ==== Sys2Proof/Tests/Slice0.lean ====
section
/-! SUPPORT. Tests: the well-formedness checks refuse what they should; worked numbers of the manual; one step for the main kinds of
command; and, for each obligation with hypotheses, concrete states and operands that meet them (`witness_…`). -/

namespace Sys2Proof.Tests

open Sys2Proof Sys2Proof.Machine

/-! ### Well-formedness -/

theorem test_frame_of_nine_bytes_refused :
    (Instr.frameArrival ⟨.a, .standard 1, false, [0, 0, 0, 0, 0, 0, 0, 0, 0]⟩).wellFormed = false := by decide

theorem test_frame_of_eight_bytes_accepted :
    (Instr.frameArrival ⟨.a, .standard 1, false, [0, 0, 0, 0, 0, 0, 0, 0]⟩).wellFormed = true := by decide

theorem test_transfer_of_63_bytes_refused : (Instr.linkTransfer (List.replicate 63 0)).wellFormed = false := by decide

theorem test_load_of_56_bytes_refused : (Instr.load 0 0 0 (List.replicate 56 0)).wellFormed = false := by decide

theorem test_reply_ids_outside_their_kind_refused :
    (Instr.serviceSetField ⟨.standard, 0x800⟩ 0 0 0 0).wellFormed = false ∧
    (Instr.serviceReadField ⟨.standard, 0x800⟩ 0 0 0).wellFormed = false ∧
    (Instr.serviceClearFaults ⟨.extended, 0x20000000⟩ 0).wellFormed = false ∧
    (Instr.readFaults ⟨.extended, 0x20000000⟩).wellFormed = false ∧
    (Instr.readFaults ⟨.extended, 0x1FFFFFFF⟩).wellFormed = true := by decide

/-! ### Numbers of the manual -/

/-- The table of R27. -/
theorem test_rounding_of_halves :
    [105, 111, -105, -111].map (fun q => roundShift .convergent q 1) = [52, 56, -52, -56] ∧
    [105, 111, -105, -111].map (fun q => roundShift .halfUp q 1) = [53, 56, -52, -55] := by decide

/-- The largest products of R26. -/
theorem test_largest_products :
    ({ MapEntry.cold with bitLength := 32, gatherCount := 4, factor := 32767 }).product (2 ^ 32 - 1) = 140733193355265 ∧
    ({ MapEntry.cold with bitLength := 32, gatherCount := 4, signed := true, factor := 0x8000 }).product (2 ^ 31) =
      70368744177664 := by decide

/-- The check value of this CRC-16 (polynomial 0x1021, initial 0xFFFF, not reflected) over the digits 1 to 9, as published. -/
theorem test_crc_of_the_nine_digits : crc16 [0x31, 0x32, 0x33, 0x34, 0x35, 0x36, 0x37, 0x38, 0x39] = 0x29B1 := by
  decide +kernel

/-- R77: a GT telltale with threshold −2147483648 and hysteresis 1 stays true at the lowest value. -/
theorem test_release_below_the_range_never_happens :
    ({ TelltaleEntry.cold with op := .gt, threshold := 0x80000000, hysteresis := 1 }).condition
      ⟨0x80000000, .fresh, false, 0⟩ true = true := by decide

/-- R60 step 3 and R61: a quarter of the way at damping 2, and one unit at the end. -/
theorem test_damping_steps : damped 2 100 0 = 400 ∧ damped 7 1 15 = 16 ∧ movedPosition 10 4095 1600 0 = 10 := by decide

/-! ### States for single steps -/

/-- The cold start values without TIME_LOST, the command queue given. -/
def bare (pending : List Instr) : State := State.cold true false false 0 pending

/-- A part in a state, everything else at its cold start values. -/
def inPart (p : PartState) : State := { bare [] with time := { (bare []).time with part := p } }

/-- A part in a state with telltale 0 valid on slot 0, lamp 3, message 7, chime pattern 0. -/
def withTelltale (p : PartState) (r : Telltale) : State :=
  { inPart p with
    tables := { (inPart p).tables with
      telltale := ((inPart p).tables.telltale.set 0
        { TelltaleEntry.cold with valid := true, lamp := some 3, message := 7, chime := some 0 }) }
    telltales := { (inPart p).telltales with records := ((inPart p).telltales.records.set 0 r) } }

/-- A part in a state with one intake entry. -/
def withIntake (p : PartState) (e : IntakeEntry) : State :=
  { inPart p with tables := { (inPart p).tables with intake := ((inPart p).tables.intake.set 0 e) } }

/-- A part in a state with channel 0 as given. -/
def withChannel (p : PartState) (e : GaugeEntry) (c : Channel) : State :=
  { inPart p with
    tables := { (inPart p).tables with gauge := ((inPart p).tables.gauge.set 0 e) }
    gauges := { channels := ((inPart p).gauges.channels.set 0 c), tick := some 0 } }

/-- A part with decoded slot 5 at a value and quality, and its timers. -/
def withSlot (x : Slot) (hold stale : Timer) : State :=
  { inPart .run with
    store := { slots := ((inPart .run).store.slots.set 5 x), hold := ((inPart .run).store.hold.set 5 hold)
               stale := ((inPart .run).store.stale.set 5 stale) } }

/-- A part with telltale requests and an arbiter. -/
def withChime (a : Arbiter) (l : LoadState) : State :=
  { inPart .run with messages := { (inPart .run).messages with
      arbiter := a, load := l
      requests := (((inPart .run).messages.requests.set 0 (some ⟨0, none, .active⟩)).set 1 (some ⟨1, none, .active⟩)) } }

/-- A crew of one record attached to DRIVER. -/
def oneCard : CrewRecord :=
  { token := 9, place := .attached .driver, activity := .drive, continuous := 60, daily := 120, run := 0, breakState := .none
    provisional := false, contSeen := true, daySeen := true }

/-- A part whose crew is that record. -/
def withCard (r : CrewRecord) : State :=
  { inPart .run with crew := { places := ((Vector.replicate 4 none).set 1 (some r)), snapshotCounter := 0 } }

/-- A part with a reply queue and a transmitter. -/
def withReplies (n : Nat) (left : Nat) (x : PortTransmit) : State :=
  { inPart .run with portB := { queue := List.replicate n ⟨⟨⟨.standard, 5⟩, [0x30]⟩, left⟩, transmit := x } }

/-! ### One step -/

/-- R161: TIME_LOST is the one record queued by a cold start. -/
theorem test_cold_start_queues_time_lost :
    ∃ t, step (bare [.coldStart]) = .next t ∧
      t.link.egress = [.notice .timeLost (.item 0) ⟨0, none⟩ ((Vector.replicate 16 false).set 0 true) false] := by
  refine ⟨_, rfl, ?_⟩; decide +kernel

/-- R10, R9: an ON_CHANGE frame in RUN is forwarded once. -/
theorem test_on_change_forwards_a_first_frame :
    ∃ t, exec (.frameArrival ⟨.a, .standard 1, false, [7]⟩) (withIntake .run
      { IntakeEntry.cold with valid := true, ports := .both, idValue := 1, idMask := 0x7FF, forwardMode := .onChange }) = .next t ∧
      t.intake.forwardMemory[0] = some [7] ∧ t.link.egress = [.forward 0 .a (.standard 1) [7]] := by
  refine ⟨_, rfl, ?_⟩; decide

/-- R83: a telltale whose on-debounce is over is ON, its message shown. -/
theorem test_on_debounce_shows_the_message :
    ∃ t, exec (.onDebounceExpiry 0) (withTelltale .run ⟨.rising, true, some 0, false, .none⟩) = .next t ∧
      (t.telltales.records[0]).state = .on ∧ t.messages.current = some ⟨0, 0, 7, false⟩ ∧ t.telltales.lamps[3] = .lit := by
  refine ⟨_, rfl, ?_⟩; decide

/-- R32: at its hold expiry a slot without a stale time is HELD with its value. -/
theorem test_hold_expiry_holds :
    ∃ t, exec (.holdExpiry 5) (withSlot ⟨42, .fresh, false, 3⟩ (some 0) none) = .next t ∧
      t.slot 5 = ⟨42, .held, false, 3⟩ := by
  refine ⟨_, rfl, ?_⟩; decide

/-- R64: a stall in HOMING ends it at 0, TRACKING in RUN. -/
theorem test_stall_ends_homing :
    ∃ t, exec (.stallReport 0) (withChannel .run { GaugeEntry.cold with valid := true, maxPos := 100 }
      { Channel.cold with state := .homing, position := 50 }) = .next t ∧
      (t.gauges.channels[0]).state = .tracking ∧ (t.gauges.channels[0]).position = 0 := by
  refine ⟨_, rfl, ?_⟩; decide

/-- R126: a second of driving. -/
theorem test_a_second_of_driving :
    tickedRecord CrewConfig.cold oneCard = { oneCard with continuous := 61, daily := 121 } := by decide

/-- R22, R23: two gathered bytes, the first selector's lowest, and eight bits from bit 4 on. -/
def gathered : MapEntry :=
  { MapEntry.cold with gatherCount := 2, selectors := #v[1, 0, 0, 0], bitOffset := 4, bitLength := 8, naCodes := true }

theorem test_gathered_pattern : gathered.ok = true ∧ gathered.pattern [0x12, 0x34] = 0x23 ∧ gathered.short [0x12] = true := by decide

/-- R58: below, at and above the points, and halves away from zero on both slopes. -/
def hill : Curve := { Curve.cold with valid := true, pointCount := 3, points := #v[⟨0, 0⟩, ⟨10, 5⟩, ⟨20, 0⟩, ⟨0, 0⟩, ⟨0, 0⟩, ⟨0, 0⟩,
  ⟨0, 0⟩, ⟨0, 0⟩] }

theorem test_curve_halves : [-1, 0, 1, 2, 10, 11, 20, 21].map hill.value = [0, 0, 1, 1, 5, 4, 0, 0] := by decide

/-- A part whose places are full and whose telltale 0 is about to offer above the current presentation. -/
def crowded : State :=
  let s := withTelltale .run ⟨.rising, true, some 0, false, .none⟩
  { s with
    tables := { s.tables with telltale := (s.tables.telltale.set 0 { s.tables.telltale[0] with priority := 6, chime := none }) }
    messages := { s.messages with
      current := some ⟨1, 5, 1, true⟩, stack := [⟨2, 0, 1, true⟩, ⟨3, 1, 1, true⟩, ⟨4, 2, 1, true⟩, ⟨5, 3, 1, true⟩]
      ring := (List.range 16).map fun n => ⟨Fin.ofNat 64 (n + 6), 4, 1, true⟩ } }

/-- R101, R102: a spilled record that the full ring drops is noticed before the PRESENT record of the preemption. -/
theorem test_spill_drop_noticed_before_present :
    ∃ t, exec (.onDebounceExpiry 0) crowded = .next t ∧ t.link.egress.map EgressRecord.kind = [.notice, .present] ∧
      t.messages.current = some ⟨0, 6, 7, false⟩ ∧ t.messages.stack.length = 4 := by
  refine ⟨_, rfl, ?_⟩; decide +kernel

/-- The same with PRESENT_DROPPED and LINK_OVERRUN SEVERE, one free place in the egress queue, and telltale 40 on slot 127 for the
count 1 alone, with no debounce on the way to ON. -/
def watched : State :=
  { crowded with
    tables := { crowded.tables with
      policy := (crowded.tables.policy.set 8 ⟨false, .severe, true⟩).set 11 ⟨false, .severe, true⟩
      telltale := (crowded.tables.telltale.set 40
        { TelltaleEntry.cold with valid := true, source := 127, op := .eq, threshold := 1, offDebounce := 5 }) }
    link := { crowded.link with egress := List.replicate 31 (.reply 1 0 .ok []) } }

/-- R18, R169: PRESENT_DROPPED and then LINK_OVERRUN become set within one offer. A reader of slot 127 sees the count 1, which takes it
to ON, and then the count 2, which takes it on to FALLING. -/
theorem test_each_count_is_seen : ∃ t, exec (.onDebounceExpiry 0) watched = .next t ∧
    (t.telltales.records[40]).state = .falling ∧ (t.slot 127).value = 2 := by
  refine ⟨_, rfl, ?_, ?_⟩ <;> decide +kernel

/-- R71: a GAUGES section reset that changes no channel's state reports nothing. -/
theorem test_gauges_reset_without_a_change :
    ∃ t, exec (.gaugesSectionReset 1) (inPart .unconfigured) = .next t ∧ t.time.homingDone = false := by
  refine ⟨_, rfl, ?_⟩; decide

/-- R108: tone 0 at 400 Hz, tone 15 at 1900 Hz, silence in the OFF phase. -/
theorem test_tone_frequencies : (withChime (.playing 0 .on 5 0) .normal).chimeOutput = some 400 ∧
    (withChime (.playing 0 .on 5 15) .normal).chimeOutput = some 1900 ∧
    (withChime (.playing 0 .off 5 15) .normal).chimeOutput = none := by decide

/-- A part in RUN whose SEVERE, set class PORT_SILENT is masked or not. -/
def maskedSilent (masked set : Bool) : State :=
  let s := { inPart .run with intake := { (inPart .run).intake with silenceA := ⟨some 0, false⟩ } }
  { s with
    tables := { s.tables with policy := (s.tables.policy.set 2 ⟨masked, .severe, true⟩) }
    faults := { s.faults with status := (s.faults.status.set 2 set) } }

/-- R166: the first occurrence of a masked class sets its status and nothing more. -/
theorem test_masked_occurrence :
    ∃ t, exec (.silenceExpiry .a) (maskedSilent true false) = .next t ∧ t.faults.status[2] = true ∧ t.faults.capture = none ∧
      t.link.egress = [] ∧ t.slot 127 = ⟨0, .fresh, false, 0⟩ := by
  refine ⟨_, rfl, ?_⟩; decide +kernel

/-- R164, R169: unmasking a set SEVERE class writes slot 127 with 1. -/
theorem test_policy_write_counts :
    ∃ t, exec (.setField 1 9 2 0 0) (maskedSilent true true) = .next t ∧ t.slot 127 = ⟨1, .fresh, false, 0⟩ := by
  refine ⟨_, rfl, ?_⟩; decide +kernel

/-- A telltale that shows its message, acknowledged, with its chime request and its lamp. -/
def showing : State :=
  let s := withTelltale .run ⟨.on, true, none, true, .main⟩
  { s with
    telltales := { s.telltales with lamps := (s.telltales.lamps.set 3 .lit) }
    messages := { s.messages with
      current := some ⟨0, 0, 7, false⟩, requests := (s.messages.requests.set 0 (some ⟨0, none, .active⟩)) } }

/-- R94: a write that sets valid false withdraws presentation and chime request, clears acknowledged, and darkens the lamp. -/
theorem test_rewrite_withdraws :
    ∃ t, exec (.setField 1 5 0 0 0) showing = .next t ∧ t.telltales.records[0] = ⟨.off, false, none, false, .none⟩ ∧
      t.messages.current = none ∧ t.messages.requests[0] = none ∧ t.telltales.lamps[3] = .idle := by
  refine ⟨_, rfl, ?_⟩; decide +kernel

/-- A part whose channel 0 has been driven MaxPos + 32 without a stall. -/
def homingLate : State := withChannel .run { GaugeEntry.cold with valid := true, maxPos := 100 }
  { Channel.cold with state := .homing, homingDistance := 132 }

/-- R63: a homing that fails at MaxPos + 64 raises GAUGE_HOMING_FAIL with its channel. -/
theorem test_homing_failure_names_its_channel :
    ∃ t, exec .filterTick homingLate = .next t ∧
      t.faults.capture.map (fun k => (k.faultClass, k.detail)) = some (.gaugeHomingFail, .item 0) ∧
      (t.gauges.channels[0]).state = .tracking := by
  refine ⟨_, rfl, ?_⟩; decide +kernel

/-- R187: a START request's bytes. -/
theorem test_start_request_bytes : requestPayload (.start 0x1234) = some [8, 0x34, 0x12] := by decide

/-! ### Witnesses: supplies, ignition, counters -/

theorem witness_empty_queue : State.reset.pending = [] ∧ (bare [.filterTick]).pending = .filterTick :: [] := by decide

theorem witness_keep_alive_removal_same_pins : bare [] ≠ inPart .run ∧ (bare []).resetHeld = (inPart .run).resetHeld ∧
    (bare []).rawIgnition = (inPart .run).rawIgnition ∧ (bare []).choices = (inPart .run).choices ∧
    (bare []).pending = (inPart .run).pending := by decide

theorem witness_without_keep_alive : (State.cold false false false 0 []).keepAlive = false ∧
    Instr.msCounterAdvance ∉ [Instr.coldStart, .keepAliveRemoval, .resetInputAssert, .resetInputRelease,
      .ignitionSenseChange true, .ignitionSenseChange false] := by decide

theorem witness_asleep : (inPart .sleep).keepAlive = true ∧ (inPart .sleep).awake = false ∧
    Instr.filterTick ∉ [Instr.coldStart, .keepAliveRemoval, .resetInputAssert, .resetInputRelease, .ignitionSenseChange true,
      .ignitionSenseChange false, .ignitionOn, .ignitionOff, .portBFrameStart, .monotonicAdvance] ∧
    ∀ u, Instr.filterTick ≠ .linkTransfer u := by
  refine ⟨by decide, by decide, by decide, fun u h => by cases h⟩

theorem witness_held : ({ inPart .run with resetHeld := true } : State).keepAlive = true ∧
    ({ inPart .run with resetHeld := true } : State).awake = false ∧
    ({ inPart .run with resetHeld := true } : State).resetHeld = true := by decide

theorem witness_release_asleep_and_awake :
    ({ inPart .sleep with resetHeld := true } : State).resetHeld = true ∧
    ({ inPart .sleep with resetHeld := true } : State).keepAlive = true ∧
    ({ inPart .sleep with resetHeld := true } : State).time.part = .sleep ∧ (inPart .run).resetHeld = false := by decide

theorem witness_release_without_keep_alive : (State.cold false true false 0 []).resetHeld = true ∧
    (State.cold false true false 0 []).keepAlive = false := by decide

theorem witness_awake : (inPart .run).awake = true ∧ (inPart .unconfigured).awake = true ∧ (inPart .standby).awake = true := by
  decide

/-- A part whose ignition filter is about to take a level. -/
def turning (p : PartState) (level : Bool) : State :=
  { inPart p with rawIgnition := level, time := { (inPart p).time with ignitionFilter := true, filteredIgnition := !level } }

theorem witness_ignition_events : ∀ level : Bool, ∀ p ∈ [PartState.unconfigured, .waking, .homing, .run, .standby],
    (turning p level).awake = true ∧ (turning p level).time.ignitionFilter = true ∧ (turning p level).rawIgnition = level ∧
      (turning p level).time.part = p := by decide

theorem witness_ignition_not_due : (inPart .run).keepAlive = true ∧
    ¬ ((inPart .run).keepAlive = true ∧ (inPart .run).time.ignitionFilter = true ∧ (inPart .run).rawIgnition = true) ∧
    ¬ ((inPart .run).keepAlive = true ∧ (inPart .run).time.ignitionFilter = true ∧ (inPart .run).rawIgnition = false) := by
  decide

theorem witness_wake : (turning .sleep true).keepAlive = true ∧ (turning .sleep true).resetHeld = false ∧
    (turning .sleep true).time.part = .sleep ∧ (turning .sleep true).time.ignitionFilter = true ∧
    (turning .sleep true).rawIgnition = true ∧ (inPart .run).time.part ≠ .sleep := by decide

/-- A part with its settle interval or its quiet timer due. -/
def expiring (p : PartState) (q : QuietTimer) (rest : Bool) : State :=
  { inPart p with time := { (inPart p).time with settle := some 0, quiet := q, atRest := rest } }

theorem witness_settle : (expiring .waking .stopped false).awake = true ∧ (expiring .waking .stopped false).time.part = .waking ∧
    (expiring .waking .stopped false).time.settle = some 0 ∧
    ¬ ((inPart .waking).time.part = .waking ∧ (inPart .waking).time.settle = some 0) := by decide

theorem witness_quiet : ∀ rest : Bool, (expiring .standby (.running 0) rest).awake = true ∧
    (expiring .standby (.running 0) rest).time.part = .standby ∧ (expiring .standby (.running 0) rest).time.quiet = .running 0 ∧
    (expiring .standby (.running 0) rest).time.atRest = rest ∧
    ¬ ((inPart .standby).time.part = .standby ∧ (inPart .standby).time.quiet = .running 0) := by decide

/-! ### Witnesses: frames and signals -/

/-- A frame and entries that take it. -/
def someFrame (data : List Byte) : Frame := ⟨.b, .standard 0x123, false, data⟩

def decodeEntry : IntakeEntry := { IntakeEntry.cold with valid := true, ports := .both, idValue := 0x123, idMask := 0x7FF }

def manageEntry : IntakeEntry := { decodeEntry with action := .manage, replyId := 0x700 }

theorem witness_decode_frame : (withIntake .run decodeEntry).awake = true ∧ (someFrame [1]).remote = false ∧
    (withIntake .run decodeEntry).takenBy (someFrame [1]) 0 ∧ ((withIntake .run decodeEntry).tables.intake[0]).action = .decode := by
  refine ⟨by decide, by decide, ⟨by decide, fun j h => absurd h (by omega)⟩, by decide⟩

theorem witness_manage_frame : (withIntake .run manageEntry).awake = true ∧ (someFrame [10]).remote = false ∧
    (withIntake .run manageEntry).takenBy (someFrame [10]) 0 ∧ ((withIntake .run manageEntry).tables.intake[0]).action = .manage ∧
    (someFrame [10]).data = 10 :: [] := by
  refine ⟨by decide, by decide, ⟨by decide, fun j h => absurd h (by omega)⟩, by decide, by decide⟩

theorem witness_manage_frame_contents :
    (someFrame [3, 3, 0, 3, 1, 0, 0, 0]).data = 3 :: 3 :: 0 :: 3 :: 1 :: 0 :: 0 :: 0 :: [] ∧
    (someFrame [4, 3, 0, 3]).data = 4 :: 3 :: 0 :: 3 :: [] ∧ (someFrame [6, 1, 0]).data = 6 :: 1 :: 0 :: [] ∧
    ¬ serviceKnown (someFrame []).data ∧ ¬ serviceKnown (someFrame [3, 3, 0, 3, 1, 0, 0]).data := by
  refine ⟨rfl, rfl, rfl, ?_, ?_⟩ <;> simp [serviceKnown, someFrame]

theorem witness_unclaimed_frame : (withIntake .run decodeEntry).awake = true ∧
    (∀ i : Fin 96, ((withIntake .run decodeEntry).tables.intake[i]).claims ⟨.a, .standard 0x124, false, []⟩ = false) ∧
    (⟨.a, .standard 0x123, true, []⟩ : Frame).remote = true := by decide

/-- A part whose silence timers are due. -/
def silent (p : PartState) : State :=
  { inPart p with intake := { (inPart p).intake with silenceA := ⟨some 0, false⟩, silenceB := ⟨some 0, false⟩ } }

theorem witness_silence : (silent .run).awake = true ∧ (silent .run).time.part = .run ∧
    (silent .run).intake.silenceA.timer = some 0 ∧ (silent .run).intake.silenceB.timer = some 0 ∧
    (silent .standby).awake = true ∧ ¬ ((silent .standby).time.part = .run ∧ (silent .standby).intake.silenceA.timer = some 0) ∧
    ¬ ((silent .standby).time.part = .run ∧ (silent .standby).intake.silenceB.timer = some 0) := by decide

/-- An entry of 32 signed bits. -/
def wideEntry : MapEntry := { MapEntry.cold with gatherCount := 4, bitLength := 32, signed := true, factor := 1, shift := 1 }

theorem witness_map_entry : wideEntry.ok = true ∧ (2 ^ 32 - 1 : Nat) < 2 ^ wideEntry.bitLength ∧
    2 * |(105 : Int) - roundShift .convergent 105 1 * 2 ^ 1| = 2 ^ 1 := by decide

/-- A Slot Config range of −10 to 10, and offset values beyond and inside it. -/
def narrow : SlotConfig := { SlotConfig.cold with min := -10, max := 10 }

theorem witness_clamp : wideEntry.offsetValue (2 ^ 32 - 22) = -11 ∧ wideEntry.offsetValue 22 = 11 ∧
    wideEntry.offsetValue 20 = 10 ∧ (-11 : Int) < narrow.min.toInt ∧ narrow.max.toInt < (11 : Int) ∧
    narrow.min.toInt ≤ (10 : Int) ∧ (10 : Int) ≤ narrow.max.toInt := by decide

theorem witness_ageing : (withSlot ⟨1, .fresh, false, 0⟩ (some 0) (some 0)).awake = true ∧
    (withSlot ⟨1, .fresh, false, 0⟩ (some 0) (some 0)).store.hold[5] = some 0 ∧
    (withSlot ⟨1, .fresh, false, 0⟩ (some 0) (some 0)).store.stale[5] = some 0 ∧
    (withSlot ⟨1, .fresh, false, 0⟩ none none).store.hold[5] ≠ some 0 ∧
    (withSlot ⟨1, .fresh, false, 0⟩ none none).store.stale[5] ≠ some 0 := by decide

theorem witness_readers : (withTelltale .run Telltale.cold).telltaleActive 0 = true ∧
    ((withTelltale .run Telltale.cold).tables.telltale[0]).source = decodedSlot 0 ∧
    ((withChannel .run GaugeEntry.cold { Channel.cold with state := .tracking }).gauges.channels[0]).state = .tracking ∧
    ((withChannel .run GaugeEntry.cold { Channel.cold with state := .tracking }).tables.gauge[0]).source = decodedSlot 0 := by
  decide

/-- A part with both speed slots and the acknowledge slot named, slots 0 and 1 as given. -/
def withSpeed (p q : Quality) (a : ArbitrationState) : State :=
  { inPart .run with
    tables := { (inPart .run).tables with
      system := { SystemConfig.cold with primarySpeed := some 0, secondarySpeed := some 1, ackSlot := some 0 } }
    store := { (inPart .run).store with
      slots := (((inPart .run).store.slots.set 0 ⟨80, p, false, 0⟩).set 1 ⟨82, q, false, 0⟩) }
    speed := { (inPart .run).speed with state := a, tick := some 0 } }

theorem witness_ack_slot : (withSpeed .fresh .fresh .agree).tables.system.ackSlot = some (decodedSlot 0) := by decide

theorem witness_selection :
    (withSpeed .fresh .fresh .agree).selectSpeed = .primary ∧ (withSpeed .fresh .fresh .conflict).selectSpeed = .secondary ∧
    (withSpeed .stale .error .agree).selectSpeed = .none ∧ (withSpeed .fresh .fresh .agree).tables.system.primarySpeed = some 0 ∧
    (withSpeed .fresh .fresh .conflict).tables.system.secondarySpeed = some 1 := by decide

theorem witness_plausibility_tick : (withSpeed .fresh .fresh .learning).awake = true ∧
    (withSpeed .fresh .fresh .learning).speed.tick = some 0 ∧ (inPart .run).speed.tick ≠ some 0 := by decide

/-! ### Witnesses: gauges, telltales, lamps, chime -/

theorem witness_filter_tick : (withChannel .run GaugeEntry.cold Channel.cold).awake = true ∧
    (withChannel .run GaugeEntry.cold Channel.cold).gauges.tick = some 0 ∧ (inPart .run).gauges.tick ≠ some 0 := by decide

theorem witness_still_target : ({ GaugeEntry.cold with maxPos := 4095, vmax := 1, damping := 7 }).ok = true ∧
    ({ Channel.cold with state := .tracking, target := 4095 }).target ≤
      ({ GaugeEntry.cold with maxPos := 4095, vmax := 1, damping := 7 }).maxPos := by decide

theorem witness_motion : 16 * 10 ≤ 160 + 8 ∧ 160 + 8 < 16 * 10 + 16 ∧ 10 ≤ 5 + 5 ∧ 5 ≤ 10 + 5 ∧ 4 + 5 < 10 ∧ 10 + 5 < 16 := by
  decide

theorem witness_stall : (withChannel .run GaugeEntry.cold { Channel.cold with state := .homing }).awake = true ∧
    ((withChannel .run GaugeEntry.cold { Channel.cold with state := .homing }).gauges.channels[0]).state = .homing ∧
    ((withChannel .run GaugeEntry.cold { Channel.cold with state := .tracking, moved := true, stallCount := 2 }).gauges.channels[0]).moved
      = true ∧
    ((withChannel .standby GaugeEntry.cold { Channel.cold with state := .parking, stallCheck := true }).gauges.channels[0]).stallCheck
      = true ∧
    ((withChannel .run GaugeEntry.cold { Channel.cold with state := .tracking }).gauges.channels[0]).moved = false := by decide

theorem witness_condition : (⟨5, .held, false, 0⟩ : Slot).usable = true ∧ (⟨5, .stale, false, 0⟩ : Slot).usable = false := by
  decide

theorem witness_debounce : (withTelltale .run ⟨.rising, true, some 0, false, .none⟩).awake = true ∧
    ((withTelltale .run ⟨.rising, true, some 0, false, .none⟩).telltales.records[0]).state = .rising ∧
    ((withTelltale .run ⟨.rising, true, some 0, false, .none⟩).telltales.records[0]).debounce = some 0 ∧
    ((withTelltale .run ⟨.falling, false, some 0, false, .main⟩).telltales.records[0]).state = .falling ∧
    (withTelltale .run ⟨.falling, false, some 0, false, .main⟩).fallen 0 = .off ∧
    ¬ (((withTelltale .run Telltale.cold).telltales.records[0]).state = .rising ∧
      ((withTelltale .run Telltale.cold).telltales.records[0]).debounce = some 0) := by decide

/-- The same part with a latching entry. -/
def latching : State :=
  { withTelltale .run ⟨.falling, false, some 0, false, .main⟩ with
    tables := { (withTelltale .run Telltale.cold).tables with
      telltale := ((withTelltale .run Telltale.cold).tables.telltale.set 0
        { TelltaleEntry.cold with valid := true, latch := .untilIgnitionOff }) } }

theorem witness_latching : latching.awake = true ∧ (latching.telltales.records[0]).state = .falling ∧
    (latching.telltales.records[0]).debounce = some 0 ∧ latching.fallen 0 = .latched := by decide

/-- A part whose lamp channel 3 is shown and in a state. -/
def withLamp (l : LampState) : State :=
  { withTelltale .run ⟨.on, true, none, false, .main⟩ with
    telltales := { (withTelltale .run ⟨.on, true, none, false, .main⟩).telltales with
      lamps := ((Vector.replicate 32 .idle).set 3 l), bulbCheck := some 0 } }

theorem witness_lamps : ∀ l ∈ [LampState.lit, .open], (withLamp l).awake = true ∧ (withLamp l).telltales.lamps[3] = l ∧
    (withLamp l).lampOutput 3 = true ∧ (withLamp l).lampDemanded 3 = true ∧ (withLamp l).telltales.bulbCheck = some 0 ∧
    (inPart .run).telltales.bulbCheck ≠ some 0 := by decide

theorem witness_lamps_not_due : (withLamp .idle).telltales.lamps[3] = .idle ∧ (withLamp .shortProtect).lampOutput 3 = false := by
  decide

/-- Three places in use: current of priority 5, a stack of four, a ring of two. -/
def busy : Messages :=
  { Messages.cold with
    current := some ⟨0, 5, 1, true⟩, stack := [⟨1, 0, 1, true⟩, ⟨2, 1, 1, true⟩, ⟨3, 2, 1, true⟩, ⟨4, 3, 1, true⟩]
    ring := [⟨5, 4, 1, true⟩, ⟨6, 1, 1, true⟩] }

theorem placeLaws_of (c : Presentation) (stack ring : List Presentation) (m : Messages) (hm : m = { Messages.cold with
    current := some c, stack := stack, ring := ring })
    (h : (([c] ++ stack ++ ring).map Presentation.telltale).Nodup ∧ (stack.map Presentation.priority).Pairwise (· < ·) ∧
      (∀ p ∈ stack, p.priority < c.priority) ∧ stack.length ≤ 4 ∧ ring.length ≤ 16) : PlaceLaws m := by
  subst hm
  exact ⟨h.1, h.2.1, fun x e => (by cases e; exact h.2.2.1), fun e => (by cases e), fun e => (by cases e), h.2.2.2.1, h.2.2.2.2⟩

theorem witness_places : PlaceLaws busy ∧ busy.current = some ⟨0, 5, 1, true⟩ ∧ busy.stack.length = 4 ∧
    busy.stack = ⟨1, 0, 1, true⟩ :: [⟨2, 1, 1, true⟩, ⟨3, 2, 1, true⟩, ⟨4, 3, 1, true⟩] ∧ (5 : Nat) < 6 ∧
    (⟨7, 6, 1, true⟩ : Presentation).telltale ∉ busy.standing.map Presentation.telltale ∧
    busy.stack.getLast? = some ⟨4, 3, 1, true⟩ ∧ bestRecord busy.ring = some ⟨5, 4, 1, true⟩ ∧ (3 : Nat) < 4 := by
  refine ⟨placeLaws_of _ _ _ busy rfl (by decide), by decide, by decide, by decide, by decide, by decide, by decide, by decide,
    by decide⟩

/-- The other cases of an offer and of a removal. -/
def calm (stack ring : List Presentation) : Messages :=
  { Messages.cold with current := some ⟨0, 5, 1, true⟩, stack := stack, ring := ring }

theorem witness_places_calm : PlaceLaws (calm [⟨1, 0, 1, true⟩] [⟨5, 0, 1, true⟩]) ∧
    (calm [⟨1, 0, 1, true⟩] [⟨5, 0, 1, true⟩]).stack.length < 4 ∧
    (∀ b ∈ (calm [⟨1, 0, 1, true⟩] [⟨5, 0, 1, true⟩]).ring, b.priority ≤ 0) ∧ PlaceLaws (calm [] [⟨5, 0, 1, true⟩]) ∧
    bestRecord (calm [] [⟨5, 0, 1, true⟩]).ring = some ⟨5, 0, 1, true⟩ ∧ PlaceLaws (calm [] []) ∧ (calm [] []).ring = [] := by
  refine ⟨placeLaws_of _ _ _ _ rfl (by decide), by decide, by decide, placeLaws_of _ _ _ _ rfl (by decide), by decide,
    placeLaws_of _ _ _ _ rfl (by decide), by decide⟩

theorem witness_places_empty : PlaceLaws Messages.cold ∧ Messages.cold.current = none := by
  refine ⟨⟨by decide, by decide, fun c e => (by cases e), fun _ => rfl, fun _ => rfl, by decide, by decide⟩, rfl⟩

/-- Pattern 1 with a priority above pattern 0's. -/
def ranked (a : Arbiter) : State :=
  { withChime a .normal with
    tables := { (inPart .run).tables with chime := ((inPart .run).tables.chime.set 1 { ChimePattern.cold with priority := 3 }) } }

theorem witness_chime_choice : (ranked .idle).messages.arbiter = .idle ∧ (ranked .idle).chimeWinner = some (1, 1) ∧
    (ranked (.playing 0 .on 5 0)).messages.arbiter = .playing 0 .on 5 0 ∧
    (ranked (.playing 0 .on 5 0)).messages.requests[0] = some ⟨0, none, .active⟩ ∧
    (ranked (.playing 0 .on 5 0)).chimeWinner = some (1, 1) ∧
    (ranked (.playing 0 .on 5 0)).patternPriority 0 < (ranked (.playing 0 .on 5 0)).patternPriority 1 ∧
    (withChime (.playing 0 .on 5 0) .normal).chimeWinner = some (0, 0) ∧ (inPart .run).chimeWinner = none := by decide

theorem witness_chime_phases : (withChime (.playing 0 .on 0 2) .normal).awake = true ∧
    (withChime (.playing 0 .on 0 2) .normal).messages.arbiter = .playing 0 .on 0 2 ∧
    (withChime (.playing 0 .off 0 2) .normal).messages.arbiter = .playing 0 .off 0 2 ∧
    (withChime (.playing 0 .off 0 2) .normal).messages.requests[0] = some ⟨0, none, .active⟩ ∧
    (withChime (.playing 0 .on 0 2) .normal).messages.load = .normal ∧
    (withChime (.playing 0 .on 0 2) .open).messages.load = .open ∧ (withChime .idle .normal).messages.arbiter = .idle := by decide

/-! ### Witnesses: crew, faults, link -/

theorem crewLaws_withCard (r : CrewRecord) (ht : r.token ≠ 0) (hc : r.continuous ≤ r.daily ∧ r.daily ≤ 86400) :
    CrewLaws (withCard r) := by
  have h : ∀ (p : Fin 4) x, (withCard r).crew.places[p] = some x → p = 1 ∧ x = r := by
    intro p x e
    have e' : ((Vector.replicate 4 none).set 1 (some r) : Vector (Option CrewRecord) 4)[p.val] = some x := e
    rw [Vector.getElem_set] at e'
    split at e'
    · next hp => exact ⟨Fin.ext hp.symm, by cases e'; rfl⟩
    · simp at e'
  exact ⟨fun p x e => (h p x e).2 ▸ ht, fun p q x y e f _ => (h p x e).1.trans (h q y f).1.symm,
    fun p q x y z e f _ _ => (h p x e).1.trans (h q y f).1.symm, fun p x e => (h p x e).2 ▸ hc⟩

theorem witness_crew : CrewLaws (withCard oneCard) ∧ (withCard oneCard).crew.places[1] = some oneCard ∧
    oneCard.place = .attached .driver ∧ oneCard.token = 9 ∧ (9 : Word32) ≠ 0 ∧
    (withCard oneCard).tables.crew.ok = true ∧ (withCard oneCard).crew.attached .driver = some oneCard ∧
    (withCard oneCard).crew.attached .coDriver = none :=
  ⟨crewLaws_withCard _ (by decide) (by decide), by decide, by decide, by decide, by decide, by decide, by decide, by decide⟩

/-- The same record detached, provisional, or attached to CO_DRIVER. -/
theorem witness_crew_other_places : CrewLaws (withCard { oneCard with place := .detached 0 }) ∧
    (withCard { oneCard with place := .detached 0 }).crew.attached .driver = none ∧
    CrewLaws (withCard { oneCard with provisional := true }) ∧
    CrewLaws (withCard { oneCard with place := .attached .coDriver }) ∧
    (withCard { oneCard with place := .attached .coDriver }).crew.attached .coDriver =
      some { oneCard with place := .attached .coDriver } :=
  ⟨crewLaws_withCard _ (by decide) (by decide), by decide, crewLaws_withCard _ (by decide) (by decide),
    crewLaws_withCard _ (by decide) (by decide), by decide⟩

/-- A crew that fills the table: both positions taken, two records detached. -/
def fullCrew : State :=
  { inPart .run with crew :=
    { places := #v[some { oneCard with token := 1 }, some { oneCard with token := 2, place := .attached .coDriver },
        some { oneCard with token := 3, place := .detached 5 }, some { oneCard with token := 4, place := .detached 7 }]
      snapshotCounter := 0 } }

/-- The laws of a crew, place by place. -/
theorem crewLaws_of (s : State) (h : ∀ p q : Fin 4, ∀ r ∈ s.crew.places[p], ∀ x ∈ s.crew.places[q],
    r.token ≠ 0 ∧ (r.token = x.token → p = q) ∧
      (∀ y ∈ [CrewPosition.driver, .coDriver], r.place = .attached y → x.place = .attached y → p = q) ∧
      r.continuous ≤ r.daily ∧ r.daily ≤ 86400) : CrewLaws s :=
  ⟨fun p r e => (h p p r e r e).1, fun p q r x e f g => (h p q r e x f).2.1 g,
    fun p q r x y e f g k => (h p q r e x f).2.2.1 y (by cases y <;> simp) g k, fun p r e => (h p p r e r e).2.2.2⟩

theorem witness_full_crew : CrewLaws fullCrew ∧ (∀ q : Fin 4, fullCrew.crew.places[q] ≠ none) ∧
    (5 : Word32) ≠ 0 ∧ ∀ p : Fin 4, ∀ r ∈ fullCrew.crew.places[p], r.token ≠ 5 := by
  refine ⟨crewLaws_of _ ?_, ?_, ?_, ?_⟩ <;> decide +kernel

/-- Tallies at, and one minute beyond, the tolerance of 120 s from a daily counter of 120 s. -/
theorem witness_tally : ¬ (120 + 120 < min (60 * (4 : Int)).toNat 86400 ∨ min (60 * (4 : Int)).toNat 86400 + 120 < 120) ∧
    (120 + 120 < min (60 * (5 : Int)).toNat 86400) := by decide

theorem witness_reply_queue : (withReplies 4 10 .idle).awake = true ∧ 4 ≤ (withReplies 4 10 .idle).portB.queue.length ∧
    (withReplies 3 0 .idle).portB.queue.length < 4 ∧ (withReplies 3 0 .idle).portB.transmit = .idle ∧
    (withReplies 3 0 .idle).portB.queue = ⟨⟨⟨.standard, 5⟩, [0x30]⟩, 0⟩ :: (withReplies 2 0 .idle).portB.queue ∧
    (withReplies 1 0 (.sending ⟨⟨.standard, 5⟩, [0x30]⟩ true)).portB.transmit = .sending ⟨⟨.standard, 5⟩, [0x30]⟩ true ∧
    (withReplies 1 0 (.sending ⟨⟨.standard, 5⟩, [0x30]⟩ false)).portB.transmit = .sending ⟨⟨.standard, 5⟩, [0x30]⟩ false ∧
    (withReplies 0 0 .idle).portB.queue = [] ∧ (withReplies 3 0 .idle).portB.queue[2]? = some ⟨⟨⟨.standard, 5⟩, [0x30]⟩, 0⟩ ∧
    (∀ q, (withReplies 3 0 .idle).portB.queue[3]? = some q → q.left ≠ 0) := by
  refine ⟨by decide, by decide, by decide, by decide, by decide, by decide, by decide, by decide, by decide, fun q h => ?_⟩
  exact absurd h (by simp [withReplies])

theorem witness_upstream : upstreamGood emptyRecord ∧ byteAt emptyRecord 0 = 0 ∧ ¬ upstreamGood (List.replicate 64 0) ∧
    (inPart .run).awake = true := by
  refine ⟨by unfold upstreamGood; decide +kernel, by decide +kernel, by unfold upstreamGood; decide +kernel, by decide⟩

theorem witness_carried_request : Settled (inPart .run) ∧ (Instr.start 7).wellFormed = true ∧
    requestPayload (.start 7) = some [8, 7, 0] :=
  ⟨⟨fun h => absurd h (by decide), fun h => absurd h (by decide)⟩, by decide, by decide⟩

/-- Entries that pass and fail each check of a LOAD: a chime pattern, a curve out of order. -/
theorem witness_load : byteEnum tableCodes 10 = none ∧ byteEnum tableCodes 6 = some .chime ∧ TableId.chime.size = 8 ∧
    entryGood .chime [1, 10, 10, 0, 7] = true ∧ entryGood .chime [16, 10, 10, 0, 7] = false ∧
    entryStatus .curve (List.replicate 1 0 ++ [2] ++ List.replicate 48 0) = .order := by
  refine ⟨by decide, by decide, by decide, by decide, by decide, by unfold entryStatus; decide⟩

theorem witness_load_length : TableId.chime.entryLength = 5 ∧ TableId.chime.entryLength ≤ [1, 10, 10, 0, 7].length ∧
    (7 : Byte).toNat < TableId.chime.size ∧ TableId.chime.size ≤ (8 : Byte).toNat := by decide

theorem witness_load_completes : ∃ t, exec (.load 3 6 7 [1, 10, 10, 0, 7]) (inPart .run) = .next t ∧ t.awake = true := by
  refine ⟨_, rfl, ?_⟩; decide

/-- A chime pattern's fields: the last one, one beyond, values inside and outside. -/
theorem witness_set_field : (∃ l, (inPart .run).entryBytes .chime 7 = some l) ∧ TableId.chime.fields.length = 5 ∧
    (∃ f, TableId.chime.fields[4]? = some f ∧ f.fits 255 = true ∧ f.fits 256 = false ∧
      entryGood .chime (f.splice [0, 10, 10, 1, 0] 7) = true ∧ entryGood .chime (f.splice [0, 10, 10, 1, 0] 8) = false) := by
  refine ⟨⟨_, rfl⟩, by decide, ⟨_, rfl, by decide, by decide, by decide, by decide⟩⟩

/-- A part at a standstill with the parking brake on slot 126, ignition 1. -/
def standing : State :=
  { inPart .standby with
    tables := { (inPart .standby).tables with system := { SystemConfig.cold with parkingBrake := some 126 } }
    store := { (inPart .standby).store with
      slots := (((inPart .standby).store.slots.set 120 ⟨0, .fresh, false, 0⟩).set 126 ⟨1, .fresh, false, 0⟩) } }

theorem witness_service_set_field : standing.awake = true ∧ standing.portB.queue.length < 4 ∧ standing.workshopCondition = true ∧
    standing.serviceMay .curve 0 3 ∧ ¬ standing.serviceMay .curve 0 2 ∧ (inPart .run).workshopCondition = false ∧
    (inPart .run).serviceMay .curve 0 17 := by
  refine ⟨by decide, by decide, by decide, Or.inl ⟨rfl, by decide⟩, ?_, by decide, Or.inl ⟨rfl, by decide⟩⟩
  rintro (⟨-, h⟩ | ⟨h, -⟩)
  · exact absurd h (by decide)
  · exact absurd h (by decide)

theorem witness_calibration : Tables.ok standing.tables = true ∧
    ∃ t, exec (.serviceSetField ⟨.standard, 5⟩ 3 0 3 7) standing = .next t ∧ t.tables ≠ standing.tables := by
  refine ⟨by decide +kernel, _, rfl, ?_⟩; decide +kernel

theorem witness_entries : IntakeEntry.cold.ok = true ∧ MapEntry.cold.ok = true ∧ SlotConfig.cold.ok = true ∧
    Curve.cold.inRange = true ∧ GaugeEntry.cold.ok = true ∧ TelltaleEntry.cold.ok = true ∧ ChimePattern.cold.ok = true ∧
    CrewConfig.cold.ok = true ∧ SystemConfig.cold.ok = true := by decide +kernel

/-! ### Witnesses: readers, curves, modes, places, requests, layouts -/

theorem witness_pattern : gathered.ok = true ∧ gathered.short [0x12, 0x34] = false ∧ gathered.short [] = true ∧
    (∃ j : Fin 4, j.val < gathered.gatherCount ∧ [(0x12 : Byte)].length ≤ (gathered.selectors[j]).val) ∧
    (3 : Nat) < gathered.bitLength ∧ (0 : Fin 4).val = (gathered.bitOffset + 3) / 8 ∧
    (7 : Nat) < gathered.bitLength ∧ (1 : Fin 4).val = (gathered.bitOffset + 7) / 8 ∧ gathered.bitLength ≤ 8 := by decide

theorem witness_codes : gathered.naCodes = true ∧ (255 : Nat) = 2 ^ gathered.bitLength - 1 ∧ (254 : Nat) = 2 ^ gathered.bitLength - 2 ∧
    (253 : Nat) + 2 < 2 ^ gathered.bitLength ∧ (255 : Nat) < 2 ^ gathered.bitLength ∧ wideEntry.naCodes = false := by decide

/-- A part whose DRIVER activity, token, tally and time slots are decoded slots 0 to 3, slot 0 at a value and quality. -/
def withCrewSlots (value : Word32) (q : Quality) : State :=
  { withCard oneCard with
    tables := { (inPart .run).tables with crew := { CrewConfig.cold with
      driver := { activity := some 0, token := some 1, tallyContinuous := some 2, tallyDaily := some 2 }, timeSlot := some 3 } }
    store := { (inPart .run).store with slots := ((inPart .run).store.slots.set 0 ⟨value, q, false, 0⟩) } }

theorem witness_crew_readers :
    (withCrewSlots 3 .fresh).decodedReader .code 0 (.activity .driver) ∧
    (withCrewSlots 3 .fresh).decodedReader .value 1 (.token .driver) ∧
    (withCrewSlots 3 .fresh).decodedReader .value 2 (.tally .driver .daily) ∧ (withCrewSlots 3 .fresh).decodedReader .value 3 .time ∧
    (withSpeed .fresh .fresh .agree).decodedReader .quality 0 .speed ∧ (withSpeed .fresh .fresh .agree).decodedReader .code 0 .ack ∧
    (withTelltale .run Telltale.cold).decodedReader .code 0 .telltales ∧ (withCrewSlots 3 .fresh).derivedReader 120 .road := by
  refine ⟨rfl, ⟨rfl, rfl⟩, ⟨rfl, rfl⟩, ⟨rfl, rfl⟩, Or.inl rfl, rfl, ⟨0, by decide, by decide⟩, rfl, 1, oneCard, .driver, by decide, rfl⟩

theorem witness_activity : ((withCrewSlots 4 .held).tables.crew.inputs .driver).activity = some 0 ∧
    ((withCrewSlots 4 .held).slot (decodedSlot 0)).usable = true ∧
    (withCrewSlots 4 .held).namedUsable ((withCrewSlots 4 .held).tables.crew.inputs .coDriver).activity = false ∧
    (withCrewSlots 4 .stale).namedUsable ((withCrewSlots 4 .stale).tables.crew.inputs .driver).activity = false ∧
    (withCrewSlots 4 .held).crew.attached .driver ≠ none ∧ (withCrewSlots 4 .held).tables.crew.timeSlot = some 3 ∧
    (withCrewSlots 4 .held).tables.crew.timeSlot ≠ some 0 := by decide

theorem witness_curve : hill.inRange = true ∧ hill.inOrder = true ∧ hill.valid = true ∧ Curve.cold.valid = false ∧
    (0 : Int) ≤ (hill.points[0]).x.toInt ∧ (2 : Fin 8).val + 1 = hill.pointCount ∧ (hill.points[2]).x.toInt ≤ 20 ∧
    (1 : Fin 8).val = (0 : Fin 8).val + 1 ∧ (1 : Fin 8).val < hill.pointCount ∧ (hill.points[0]).x.toInt ≤ 9 ∧
    (9 : Int) < (hill.points[1]).x.toInt ∧ (hill.points[1]).x.toInt ≤ 10 ∧ (10 : Int) < (hill.points[2]).x.toInt := by decide

/-- A part whose telltale 0 governs lamp channel 3 in a mode, at a value of the ms counter, with no bulb check. -/
def withMode (m : LampMode) (ms : Word32) : State :=
  let s := withTelltale .run ⟨.on, true, none, false, .main⟩
  { s with
    time := { s.time with ms := ms }
    tables := { s.tables with telltale := (s.tables.telltale.set 0 { s.tables.telltale[0] with lampMode := m }) }
    telltales := { s.telltales with lamps := (s.telltales.lamps.set 3 .lit) } }

theorem witness_lamp_mode : (withMode .slow 499).governing 3 = some 0 ∧ (withMode .slow 499).telltales.bulbCheck = none ∧
    (withMode .slow 499).lampOutput 3 = true ∧ (withMode .slow 500).lampOutput 3 = false ∧ (withMode .fast 124).lampOutput 3 = true ∧
    (withMode .fast 125).lampOutput 3 = false ∧ (withMode .steady 999).lampOutput 3 = true ∧
    (withLamp .lit).telltales.bulbCheck ≠ none ∧ (withMode .slow 0).governing 4 = none := by decide

/-- A telltale that is ON with a backup message and holds none: it offers at its channel's failure (R92). -/
theorem witness_backup_offer : let s := withTelltale .run ⟨.on, true, none, false, .none⟩
    s.namesLamp 0 3 = true ∧ (s.telltales.records[0]).state = .on ∧ (s.telltales.records[0]).held = .none := by decide

theorem witness_full_ring : crowded.messages.ring.length = 16 ∧ weakestRecord crowded.messages.ring = some ⟨6, 4, 1, true⟩ ∧
    (4 : Nat) < 5 ∧ ¬ (4 : Nat) < 4 ∧ PlaceLaws crowded.messages ∧
    (⟨0, 6, 7, false⟩ : Presentation).telltale ∉ crowded.messages.standing.map Presentation.telltale := by
  refine ⟨by decide, by decide, by decide, by decide, placeLaws_of _ _ _ _ rfl (by decide +kernel), by decide⟩

theorem witness_press : busy.current = some ⟨0, 5, 1, true⟩ ∧ (⟨0, 5, 1, true⟩ : Presentation).acknowledgeable = true ∧
    crowded.messages.current = some ⟨1, 5, 1, true⟩ := by decide

/-- A masked class that is clear, and one that was set (R166). -/
theorem witness_masked : (maskedSilent true false).faults.status[FaultClass.portSilent.number] = false ∧
    ((maskedSilent true false).tables.policy[FaultClass.portSilent.number]).masked = true ∧
    (maskedSilent true true).faults.status[FaultClass.portSilent.number] = true := by decide

/-- Written telltale entries, active afterwards and not, and one on slot 127 (R94). -/
theorem witness_rewritten : showing.awake = true ∧ showing.telltaleActive 0 = true ∧ (showing.telltales.records[0]).held = .main ∧
    TelltaleEntry.ofBytes ({ showing.tables.telltale[0] with source := 127 }).bytes =
      some { showing.tables.telltale[0] with source := 127 } ∧
    activeIn .run { showing.tables.telltale[0] with source := 127 } = true ∧ activeIn .run TelltaleEntry.cold = false := by
  decide +kernel

/-- A clear that changes a status, and one that does not (R170). -/
theorem witness_cleared_statuses : (maskedSilent true true).awake = true ∧ (0x0004 : Word16).getLsbD 2 = true ∧
    (maskedSilent true true).faults.status[2] = true ∧ (maskedSilent true true).tables.policy[2].serviceClearable = true ∧
    (0x0001 : Word16).getLsbD 2 = false := by decide

/-- A homing that is about to fail (R63). -/
theorem witness_homing_failure : homingLate.awake = true ∧ homingLate.gauges.tick = some 0 ∧
    (homingLate.gauges.channels[0]).state = .homing ∧
    (homingLate.tables.gauge[0]).maxPos + 64 ≤ (homingLate.gauges.channels[0]).homingDistance + 32 := by decide

/-- A request that starts a burst with the arbiter idle (R108, R111). -/
theorem witness_tone : Tables.ok (ranked .idle).tables = true ∧ (ranked .idle).awake = true ∧
    (ranked .idle).chimeWinner = some (1, 1) ∧ (ranked .idle).choose.chimeOutput = some 400 := by decide +kernel

/-- A full egress queue at an occurrence of a class that is clear and unmasked (R168). -/
def choked : State := { inPart .run with link := { (inPart .run).link with egress := List.replicate 32 (.reply 1 0 .ok []) } }

theorem witness_overrun : choked.faults.status[FaultClass.frameShort.number] = false ∧
    (choked.tables.policy[FaultClass.frameShort.number]).masked = false ∧ 32 ≤ choked.link.egress.length ∧ choked.ready = true ∧
    (inPart .run).ready = false ∧ ({ choked with resetHeld := true } : State).awake = false := by decide

/-- Malformed requests: nothing, a code alone, half a tag, an unknown code, a section that is none, a READ without its index. -/
theorem witness_malformed_requests : ∀ payload ∈ ([[], [8], [8, 1], [200, 0, 0], [7, 0, 0, 8], [2, 0, 0, 1]] : List (List Byte)),
    upstreamGood (linkRecord 1 payload) ∧ byteAt (linkRecord 1 payload) 0 = 1 ∧
    ((linkRecord 1 payload).drop 2).take (byteAt (linkRecord 1 payload) 1).toNat = payload := by
  unfold upstreamGood; decide +kernel

theorem witness_unknown_requests : ¬ requestKnown 200 [] ∧ ¬ requestKnown 7 [8] ∧ ¬ requestKnown 2 [1] := by
  simp [requestKnown]

theorem witness_state_targets : stateTargetCodes.length = 9 ∧ byteEnum stateTargetCodes 0 = some .slot ∧
    byteEnum stateTargetCodes 8 = some .time ∧ byteEnum stateTargetCodes 9 = none ∧ (128 : Nat) ≤ (128 : Byte).toNat ∧
    (127 : Byte).toNat < 128 ∧ crowded.messages.stack.length ≤ 4 ∧ crowded.messages.ring.length ≤ 16 ∧
    (inPart .run).speed.ring.count ≤ 8 := by decide

theorem witness_downstream_records : (List.replicate 8 (0 : Byte)).length ≤ 8 ∧ (List.replicate 56 (0 : Byte)).length ≤ 56 := by
  decide

/-! ### Witnesses: the laws, in a state with a command to take -/

theorem witness_laws_next : Tables.ok (bare [.msCounterAdvance]).tables ∧
    ∃ t, step (bare [.msCounterAdvance]) = .next t ∧ t.time.ms = 1 := by
  refine ⟨by decide +kernel, _, rfl, ?_⟩; decide

theorem witness_queue_laws : QueueLaws (withReplies 4 250 .idle) :=
  ⟨by decide, by decide, by decide, by decide⟩

theorem witness_fault_laws : FaultLaws (bare [.filterTick]) :=
  ⟨fun k h => (by cases h), fun _ => rfl, by decide⟩

theorem witness_message_laws : MessageLaws (bare [.filterTick]) := by
  refine ⟨witness_places_empty.1, fun i => ⟨?_, fun h => absurd ?_ h⟩, fun i h => absurd ?_ h⟩
  · rintro ⟨p, hp, -⟩; exact absurd hp (by simp [bare, State.cold, Messages.standing, Messages.cold])
  all_goals simp [bare, State.cold, Telltales.cold, Telltale.cold]

theorem witness_slot_laws : SlotLaws (withSlot ⟨42, .fresh, false, 0⟩ (some 3) none) := by
  refine ⟨by decide, by decide, by decide⟩

theorem witness_gauge_laws : GaugeLaws (withChannel .run { GaugeEntry.cold with valid := true, maxPos := 100 }
    { Channel.cold with state := .tracking, position := 100, target := 100, filter := 1600 }) :=
  ⟨by decide, by decide, by decide⟩

theorem witness_speed_laws : SpeedLaws (withSpeed .fresh .fresh .learning) :=
  ⟨by decide, by decide, by decide⟩

theorem witness_settled : Settled (expiring .standby (.running 3) true) :=
  ⟨fun h => absurd h (by decide), fun _ h => absurd h.1 (by decide)⟩

end Sys2Proof.Tests
end

section
/-! PROOFS. What operations leave of the tables: every operation but the accepted writes of an entry keeps them as they are (R178). -/

namespace Sys2Proof.Machine

/-! ### Operations that write no table -/

theorem foldl_tables {α : Type} {f : State → α → State} (hf : ∀ s a, (f s a).tables = s.tables) (l : List α) (s : State) :
    (l.foldl f s).tables = s.tables := by
  induction l generalizing s with
  | nil => rfl
  | cons a l ih => rw [List.foldl_cons, ih, hf]

@[simp] theorem raise_tables (c : FaultClass) (d : FaultDetail) (s : State) : (raise c d s).tables = s.tables :=
  (reacted_raise c d s).tables

@[simp] theorem raiseItem_tables (c : FaultClass) (n : Nat) (s : State) : (raiseItem c n s).tables = s.tables :=
  (reacted_raiseItem c n s).tables

@[simp] theorem raiseRefused_tables (r : ReplyStatus) (s : State) : (raiseRefused r s).tables = s.tables := raise_tables ..

@[simp] theorem offer_tables (r : EgressRecord) (s : State) : (offer r s).tables = s.tables := (reacted_offer r s).tables

@[simp] theorem reply_tables (code : Byte) (tag : Word16) (r : ReplyStatus) (data : List Byte) (s : State) :
    (reply code tag r data s).tables = s.tables := offer_tables ..

@[simp] theorem refuse_tables (code : Byte) (tag : Word16) (r : ReplyStatus) (s : State) :
    (refuse code tag r s).tables = s.tables := by simp [refuse]

@[simp] theorem publishSevere_tables (s : State) : (publishSevere s).tables = s.tables := (reacted_publishSevere s).tables

@[simp] theorem decodedEvent_tables (c : SlotChange) (k : Fin 120) (s : State) : (decodedEvent c k s).tables = s.tables :=
  (observed_decodedEvent c k s).tables

@[simp] theorem writeIgnition_tables (s : State) : (writeIgnition s).tables = s.tables :=
  (reacted_writeDerived 126 (by decide) _ s).tables

@[simp] theorem writeSelection_tables (s : State) : (writeSelection s).tables = s.tables := (observed_writeSelection s).tables

@[simp] theorem writeRemaining_tables (s : State) : (writeRemaining s).tables = s.tables := (observed_writeRemaining s).tables

@[simp] theorem offerSnapshot_tables (s : State) : (offerSnapshot s).tables = s.tables := (observed_offerSnapshot s).tables

theorem whole_tables {f : State → Change} (hf : ∀ s, Presented s (f s).state) (s : State) : (whole f s).tables = s.tables :=
  (reacted_whole hf s).tables

theorem eachTelltale_tables {f : State → Fin 64 → Change} (hf : ∀ s i, Presented s (f s i).state) (s : State) :
    (eachTelltale f s).tables = s.tables :=
  foldl_tables (fun s i => whole_tables (fun s => hf s i) s) _ s

@[simp] theorem recomputeLamps_tables (s : State) : s.recomputeLamps.tables = s.tables :=
  (presented_recomputeLamps s).reacted.tables

@[simp] theorem endBulbCheck_tables (s : State) : s.endBulbCheck.tables = s.tables := by simp [State.endBulbCheck]

@[simp] theorem mapLamps_tables (s : State) (f : LampState → LampState) : (s.mapLamps f).tables = s.tables := by
  simp only [State.mapLamps]

@[simp] theorem startBulbCheck_tables (s : State) : s.startBulbCheck.tables = s.tables := by
  unfold State.startBulbCheck
  dsimp only
  split <;> simp

/-! ### Moves of the part -/

@[simp] theorem conclude_tables (s : State) : (conclude s).tables = s.tables := by
  have h := conclude_spec s
  unfold Concluded at h
  split at h
  · rw [h]; rfl
  · split at h
    · exact h.tables
    · rw [h]

theorem presented_evaluateFresh (s : State) (i : Fin 64) : Presented s (s.evaluateFresh i).state :=
  (moving_presented i).evaluateFresh s

theorem presented_telltaleCleared (s : State) (i : Fin 64) : Presented s (s.telltaleCleared i).state := by
  unfold State.telltaleCleared
  split
  · exact presented_setCondition s i false
  · exact (presented_setCondition s i false).trans ((moving_presented i).telltaleOff _)

theorem presented_telltaleStandby (s : State) (i : Fin 64) : Presented s (s.telltaleStandby i).state := by
  unfold State.telltaleStandby
  split
  · split
    · exact (moving_presented i).telltaleOff s
    · exact .refl s
  · exact presented_telltaleCleared s i

@[simp] theorem freshTelltales_tables (before : PartState) (s : State) : (freshTelltales before s).tables = s.tables := by
  refine eachTelltale_tables (fun s i => ?_) s
  split
  · exact presented_evaluateFresh s i
  · exact .refl s

@[simp] theorem telltalesStandbyEntry_tables (before : PartState) (s : State) :
    (telltalesStandbyEntry before s).tables = s.tables := by
  unfold telltalesStandbyEntry
  rw [endBulbCheck_tables, freshTelltales_tables, eachTelltale_tables presented_telltaleStandby]

@[simp] theorem telltalesHomingEntry_tables (before : PartState) (s : State) :
    (telltalesHomingEntry before s).tables = s.tables := by simp [telltalesHomingEntry]

@[simp] theorem startFilterTick_tables (s : State) : s.startFilterTick.tables = s.tables := by
  unfold State.startFilterTick; split <;> rfl

@[simp] theorem mapChannels_tables (s : State) (f : Channel → GaugeEntry → Channel) : (s.mapChannels f).tables = s.tables := rfl

@[simp] theorem homingEntry_tables (s : State) : (homingEntry s).tables = s.tables := by
  simp [homingEntry, State.gaugesHomingEntry, State.timeHomingEntry]

@[simp] theorem standbyEntry_tables (s : State) : (standbyEntry s).tables = s.tables := by
  simp [standbyEntry, State.gaugesStandbyEntry, State.speedStandby, State.timeStandbyEntry]

@[simp] theorem enterByLevel_tables (s : State) : (enterByLevel s).tables = s.tables := by
  unfold enterByLevel; split <;> simp

@[simp] theorem wakingEntry_tables (s : State) : (wakingEntry s).tables = s.tables := by
  simp [wakingEntry, wakeCredit, State.creditCrew]

@[simp] theorem warmStart_tables (s : State) : s.warmStart.tables = s.tables := by
  rw [(warmStart_spec s).tables]; split <;> rfl

@[simp] theorem takeIgnitionOn_tables (s : State) : (takeIgnitionOn s).tables = s.tables := by
  unfold takeIgnitionOn; split
  · rfl
  · split <;> simp

@[simp] theorem takeIgnitionOff_tables (s : State) : (takeIgnitionOff s).tables = s.tables := by
  unfold takeIgnitionOff; split
  · rfl
  · split <;> simp

@[simp] theorem accountingTick_tables (s : State) : (accountingTick s).tables = s.tables := by
  unfold accountingTick advanceSnapshot
  dsimp only
  split
  · simp
  · split <;> simp

/-! ### Signals, units and sections -/

@[simp] theorem forwardFrame_tables (i : Fin 96) (f : Frame) (s : State) : (forwardFrame i f s).tables = s.tables := by
  unfold forwardFrame
  split
  · split
    · rfl
    · simp
    · split
      · rfl
      · split <;> simp
  · rfl

@[simp] theorem codeUpdate_tables (k : Fin 120) (q : Quality) (s : State) : (codeUpdate k q s).tables = s.tables := by
  simp [codeUpdate]

@[simp] theorem valueUpdate_tables (k : Fin 120) (v : Word32) (c : Bool) (s : State) :
    (valueUpdate k v c s).tables = s.tables := by simp [valueUpdate]

@[simp] theorem runMapEntry_tables (f : Frame) (m : Fin 192) (s : State) : (runMapEntry f m s).tables = s.tables := by
  unfold runMapEntry
  dsimp only
  split
  · split
    · simp
    · split <;> simp
  · rfl

@[simp] theorem runMapRange_tables (f : Frame) (first count : Nat) (s : State) :
    (runMapRange f first count s).tables = s.tables :=
  foldl_tables (fun s m => by split <;> simp) _ s

@[simp] theorem matchedFrame_tables (s : State) (p : Port) : (s.matchedFrame p).tables = s.tables := by
  unfold State.matchedFrame
  split
  case h_2 => cases p <;> rfl
  all_goals rfl

@[simp] theorem goStale_tables (k : Fin 120) (s : State) : (goStale k s).tables = s.tables := by
  unfold goStale
  dsimp only
  split <;> simp [State.setQuality]

@[simp] theorem goHeld_tables (k : Fin 120) (s : State) : (goHeld k s).tables = s.tables := by
  unfold goHeld
  dsimp only
  split <;> simp [State.setQuality]

@[simp] theorem silenceExpired_tables (p : Port) (s : State) : (silenceExpired p s).tables = s.tables := by
  cases p <;> exact raiseItem_tables ..

@[simp] theorem sampleSpeed_tables (s : State) : (sampleSpeed s).tables = s.tables := by
  unfold sampleSpeed
  dsimp only
  split
  · split
    · split <;> simp
    · simp
  · simp

@[simp] theorem plausibilityTicked_tables (s : State) : (plausibilityTicked s).tables = s.tables := by
  simp [plausibilityTicked]

@[simp] theorem updateChannel_tables (s : State) (ch : Fin 6) (f : Channel → GaugeEntry → Channel) :
    (s.updateChannel ch f).tables = s.tables := rfl

@[simp] theorem finishHoming_tables (s : State) (ch : Fin 6) : (s.finishHoming ch).tables = s.tables := rfl

@[simp] theorem reportChanges_tables (s before : State) : (s.reportChanges before).tables = s.tables := by
  unfold State.reportChanges; split <;> rfl

@[simp] theorem tickChannel_tables (ch : Fin 6) (s : State) : (tickChannel ch s).tables = s.tables := by
  unfold tickChannel tickHoming
  dsimp only
  split
  · split <;> simp
  all_goals rfl

@[simp] theorem tickChannels_tables (s : State) : (tickChannels s).tables = s.tables :=
  foldl_tables (fun s ch => tickChannel_tables ch s) _ s

@[simp] theorem filterTicked_tables (s : State) : (filterTicked s).tables = s.tables := by simp [filterTicked]

@[simp] theorem stallReported_tables (ch : Fin 6) (s : State) : (stallReported ch s).tables = s.tables := by
  unfold stallReported takeStall
  split
  · split <;> simp
  · rfl

@[simp] theorem lampFails_tables (ch : Fin 32) (l : LampState) (c : FaultClass) (s : State) :
    (lampFails ch l c s).tables = s.tables := by
  have h : ∀ s, (backupOffers ch s).tables = s.tables := foldl_tables (fun s i => by
    dsimp only
    split
    · exact whole_tables (fun s => (moving_presented i).offerPresentation s i .backup _) s
    · rfl) _
  simp [lampFails, h]

@[simp] theorem completeBurst_tables (s : State) (t : Fin 64) : (s.completeBurst t).tables = s.tables :=
  (presented_completeBurst s t).reacted.tables

@[simp] theorem chimeOnEnds_tables (s : State) : s.chimeOnEnds.tables = s.tables := by
  unfold State.chimeOnEnds; split <;> simp

@[simp] theorem chimeOffEnds_tables (s : State) : s.chimeOffEnds.tables = s.tables := by
  unfold State.chimeOffEnds; split <;> simp

@[simp] theorem chimeFails_tables (s : State) : (chimeFails s).tables = s.tables := by
  unfold chimeFails; split <;> simp

@[simp] theorem chimeRecovers_tables (s : State) : s.chimeRecovers.tables = s.tables := by
  unfold State.chimeRecovers; split <;> simp

@[simp] theorem telltaleOn_whole_tables (i : Fin 64) (s : State) : (whole (fun s => s.telltaleOn i) s).tables = s.tables :=
  whole_tables (fun s => (moving_presented i).telltaleOn s) s

@[simp] theorem telltaleFallen_whole_tables (i : Fin 64) (s : State) :
    (whole (fun s => s.telltaleFallen i) s).tables = s.tables :=
  whole_tables (fun s => (moving_presented i).telltaleFallen s) s

@[simp] theorem resetTelltales_tables (s : State) : (resetTelltales s).tables = s.tables := by
  unfold resetTelltales
  rw [recomputeLamps_tables, eachTelltale_tables (fun s i => by
    split
    · exact presented_evaluateFresh s i
    · exact .refl s), mapLamps_tables, eachTelltale_tables presented_telltaleCleared]

@[simp] theorem resetPresentation_tables (s : State) : (resetPresentation s).tables = s.tables := by
  unfold resetPresentation
  split <;> simp [State.forgetHeld]

@[simp] theorem setUnknown_tables (s : State) (k : Fin 120) (age : Nat) : (s.setUnknown k age).tables = s.tables := by
  simp [State.setUnknown]

@[simp] theorem resetSignals_tables (s : State) : (resetSignals s).tables = s.tables :=
  foldl_tables (fun s k => by simp) _ s

@[simp] theorem resetSection_tables (x : Section) (s : State) : (resetSection x s).tables = s.tables := by
  cases x with
  | intake => simp only [resetSection, State.resetIntake]; split <;> simp
  | signals => exact resetSignals_tables s
  | speed => exact writeSelection_tables _
  | gauges => exact reportChanges_tables _ _
  | telltales => exact resetTelltales_tables s
  | presentation => exact resetPresentation_tables s
  | crew => simp [resetSection, resetCrewSection]
  | faults => exact publishSevere_tables _

@[simp] theorem requestReset_tables (tag : Word16) (x : Section) (s : State) : (requestReset tag x s).tables = s.tables := by
  simp [requestReset]

@[simp] theorem startPart_tables (s : State) : (startPart s).tables = s.tables := by
  unfold startPart; split <;> simp

@[simp] theorem requestStart_tables (tag : Word16) (s : State) : (requestStart tag s).tables = s.tables := by
  simp [requestStart]

@[simp] theorem requestWarmReset_tables (tag : Word16) (s : State) : (requestWarmReset tag s).tables = s.tables := by
  simp [requestWarmReset]

@[simp] theorem answerRead_tables (code : Byte) (tag : Word16) (r : Except ReplyStatus (List Byte)) (s : State) :
    (answerRead code tag r s).tables = s.tables := by
  cases r <;> simp [answerRead]

@[simp] theorem clearFaultClasses_tables (classes : Word16) (service : Bool) (s : State) :
    (clearFaultClasses classes service s).tables = s.tables := by
  unfold clearFaultClasses
  dsimp only
  split <;> simp

@[simp] theorem requestClearFaults_tables (tag classes : Word16) (s : State) :
    (requestClearFaults tag classes s).tables = s.tables := by simp [requestClearFaults]

/-! ### Service requests and port B -/

@[simp] theorem placeReply_tables (s : State) (f : ReplyFrame) : (s.placeReply f).tables = s.tables := rfl

@[simp] theorem refuseService_tables (a : ReplyAddress) (code : Byte) (r : ReplyStatus) (s : State) :
    (refuseService a code r s).tables = s.tables := by simp [refuseService]

/-- A request on port B that is not busy does what its handler does; a busy one raises MGMT_REFUSED (R181). -/
theorem unlessBusy_tables {handle : State → State} (s : State) (h : (handle s).tables = s.tables) :
    (unlessBusy s handle).tables = s.tables := by
  unfold unlessBusy; split
  · simp
  · exact h

@[simp] theorem serviceReadField_tables (a : ReplyAddress) (table index field : Byte) (s : State) :
    (serviceReadField a table index field s).tables = s.tables :=
  unlessBusy_tables s (by split <;> simp)

@[simp] theorem serviceClearFaults_tables (a : ReplyAddress) (classes : Word16) (s : State) :
    (serviceClearFaults a classes s).tables = s.tables := unlessBusy_tables s (by simp)

@[simp] theorem serviceReadFaults_tables (a : ReplyAddress) (s : State) : (serviceReadFaults a s).tables = s.tables :=
  unlessBusy_tables s rfl

@[simp] theorem serviceMalformed_tables (a : ReplyAddress) (code : Byte) (s : State) :
    (serviceMalformed a code s).tables = s.tables := unlessBusy_tables s (by simp)

@[simp] theorem sendReply_tables (s : State) : s.sendReply.tables = s.tables := by
  unfold State.sendReply; split <;> rfl

@[simp] theorem replySent_tables (s : State) : s.replySent.tables = s.tables := by
  unfold State.replySent
  split
  · rfl
  · split <;> rfl

@[simp] theorem replyNotSent_tables (s : State) : s.replyNotSent.tables = s.tables := by
  unfold State.replyNotSent; split <;> rfl

@[simp] theorem replyExpired_tables (s : State) (place : Nat) : (s.replyExpired place).tables = s.tables := by
  unfold State.replyExpired
  split
  · rfl
  · split <;> rfl

@[simp] theorem sendDownstream_tables (s : State) : s.sendDownstream.tables = s.tables := by
  unfold State.sendDownstream; split <;> rfl

end Sys2Proof.Machine
end

section
/-! PROOFS. An accepted write of a telltale's entry (R94): the readers of slot 127 leave a telltale on another slot as it stands, so the
write leaves it OFF, or as its fresh evaluation gives it. -/

namespace Sys2Proof.Machine

/-! ### Telltales that no event of slot 127 evaluates -/

/-- The part's state and the telltale entries stand, and every telltale whose source is not slot 127 keeps state and condition. -/
def Slot127Stand (s t : State) : Prop :=
  t.time.part = s.time.part ∧ t.tables.telltale = s.tables.telltale ∧
    ∀ i : Fin 64, (s.tables.telltale[i]).source ≠ 127 →
      (t.telltales.records[i]).state = (s.telltales.records[i]).state ∧
        (t.telltales.records[i]).condition = (s.telltales.records[i]).condition

theorem slot127Stand_same {s t : State} (hp : t.time.part = s.time.part) (ht : t.tables.telltale = s.tables.telltale)
    (hr : t.telltales.records = s.telltales.records) : Slot127Stand s t :=
  ⟨hp, ht, fun i _ => by rw [hr]; exact ⟨rfl, rfl⟩⟩

theorem slot127Stand_refl (s : State) : Slot127Stand s s := slot127Stand_same rfl rfl rfl

theorem slot127Stand_trans {s t u : State} (h : Slot127Stand s t) (g : Slot127Stand t u) : Slot127Stand s u := by
  obtain ⟨hpart, hentry, hrec⟩ := h
  obtain ⟨gpart, gentry, grec⟩ := g
  refine ⟨gpart.trans hpart, gentry.trans hentry, fun i hi => ?_⟩
  have gi := grec i (by rw [hentry]; exact hi)
  exact ⟨gi.1.trans (hrec i hi).1, gi.2.trans (hrec i hi).2⟩

theorem occurring_slot127Stand : Occurring Slot127Stand where
  refl := slot127Stand_refl
  trans := slot127Stand_trans
  egress _ _ _ _ := slot127Stand_same rfl rfl rfl
  record _ _ _ _ _ := slot127Stand_same rfl rfl rfl

/-- A press changes no telltale's state and no condition (R106). -/
theorem slot127Stand_press (s : State) : Slot127Stand s s.press.state := by
  have h := (presented_press s).reacted
  refine ⟨by rw [h.time], by rw [h.tables], fun j _ => ?_⟩
  unfold State.press
  split
  · exact ⟨rfl, rfl⟩
  · split
    · simp only [removeRequest_telltales, setTelltale_record]
      split
      · next e => subst e; exact ⟨rfl, rfl⟩
      · exact ⟨rfl, rfl⟩
    · exact ⟨rfl, rfl⟩

/-- A telltale on slot 127 is evaluated: the others keep state and condition (R80). -/
theorem slot127Stand_evaluate (s : State) (i : Fin 64) (hi : (s.tables.telltale[i]).source = 127) :
    Slot127Stand s (s.evaluateTelltale i).state := by
  obtain ⟨htime, htables, hrec⟩ := (moving_onlyHeld i).evaluateTelltale s
  refine ⟨by rw [htime], by rw [htables], fun j hj => ?_⟩
  rw [hrec j (by rintro rfl; exact hj hi)]
  exact ⟨rfl, rfl⟩

section
variable {publish : State → State}

theorem slot127Stand_runDerived (hp : ∀ s, Slot127Stand s (publish s)) (r : Reader) (hr : r ≠ .road) (s : State) :
    Slot127Stand s (runDerived publish 127 r s) := by
  have reports := fun c => occurring_slot127Stand.reported hp c
  cases r with
  | telltales =>
    show Slot127Stand s (evaluateReaders publish 127 s)
    unfold evaluateReaders
    generalize List.finRange 64 = l
    induction l generalizing s with
    | nil => exact slot127Stand_refl s
    | cons i l ih =>
      rw [List.foldl_cons]
      refine slot127Stand_trans ?_ (ih _)
      split
      · next h =>
        rw [Bool.and_eq_true, beq_iff_eq] at h
        exact slot127Stand_trans (slot127Stand_evaluate s i h.2) (reports _)
      · exact slot127Stand_refl s
  | ack =>
    show Slot127Stand s (observeAck publish 127 s)
    have hs : Slot127Stand s (s.setSeen (s.slot 127).seen) := slot127Stand_same rfl rfl rfl
    unfold observeAck
    dsimp only
    split
    · exact slot127Stand_trans hs (slot127Stand_trans (slot127Stand_press _) (reports _))
    · exact hs
  | road => exact absurd rfl hr
  | speed | activity | token | tally | time => exact slot127Stand_refl s

end

/-- A write of slot 127, to any depth, evaluates the telltales on slot 127 alone (R80, R169). -/
theorem slot127Stand_publish (n : Nat) (s : State) : Slot127Stand s (publish n s) := by
  induction n generalizing s with
  | zero => exact slot127Stand_same rfl rfl rfl
  | succ n ih =>
    have h₀ : Slot127Stand s (s.storeSevere.gaugesObserve 127) := by
      rw [gaugesObserve_eq]; exact slot127Stand_same rfl rfl rfl
    refine slot127Stand_trans h₀ (observe_induction slot127Stand_refl (fun _ _ _ => slot127Stand_trans)
      (fun _ _ => slot127Stand_same rfl rfl rfl) _ _ fun r hr x => ?_)
    exact slot127Stand_runDerived ih r (not_road_of_severe r ((mem_derivedReaders _ _ _).1 hr)) x

/-- An event taken whole and reported: the reports evaluate the telltales on slot 127 alone (R163). -/
theorem slot127Stand_whole (f : State → Change) (s : State) : Slot127Stand (f s).state (whole f s) :=
  occurring_slot127Stand.reported (slot127Stand_publish _) (f s)

/-! ### A telltale's record along its move -/

/-- Dropped records change what telltales hold, no state and no condition (R85). -/
theorem hear_record (l : List MessageReport) (s : State) (j : Fin 64) :
    ((l.foldl State.hear s).telltales.records[j]).state = (s.telltales.records[j]).state ∧
      ((l.foldl State.hear s).telltales.records[j]).condition = (s.telltales.records[j]).condition := by
  rw [hear_eq]
  simp only [Fin.getElem_fin, Vector.getElem_ofFn]
  split <;> exact ⟨rfl, rfl⟩

theorem offerPresentation_record (s : State) (i j : Fin 64) (h : Held) (m : Nat) :
    ((s.offerPresentation i h m).state.telltales.records[j]).state = (s.telltales.records[j]).state ∧
      ((s.offerPresentation i h m).state.telltales.records[j]).condition = (s.telltales.records[j]).condition := by
  have held : ((s.setHeld i h).telltales.records[j]).state = (s.telltales.records[j]).state ∧
      ((s.setHeld i h).telltales.records[j]).condition = (s.telltales.records[j]).condition := by
    rw [setHeld_record]; split <;> exact ⟨rfl, rfl⟩
  have heard := hear_record ((s.setHeld i h).messages.place ⟨i, (s.tables.telltale[i]).priority, m,
    (s.tables.telltale[i]).acknowledgeable⟩).2 { s.setHeld i h with messages := ((s.setHeld i h).messages.place
    ⟨i, (s.tables.telltale[i]).priority, m, (s.tables.telltale[i]).acknowledgeable⟩).1 } j
  exact ⟨heard.1.trans held.1, heard.2.trans held.2⟩

theorem onOffer_record (s : State) (i j : Fin 64) :
    ((s.onOffer i).state.telltales.records[j]).state = (s.telltales.records[j]).state ∧
      ((s.onOffer i).state.telltales.records[j]).condition = (s.telltales.records[j]).condition := by
  unfold State.onOffer
  dsimp only
  split
  · split
    · exact offerPresentation_record ..
    · split
      · exact offerPresentation_record ..
      · exact ⟨rfl, rfl⟩
  · exact ⟨rfl, rfl⟩

/-- A telltale that goes ON keeps its condition (R83). -/
theorem telltaleOn_record (s : State) (i : Fin 64) :
    ((s.telltaleOn i).state.telltales.records[i]).state = .on ∧
      ((s.telltaleOn i).state.telltales.records[i]).condition = (s.telltales.records[i]).condition := by
  unfold State.telltaleOn Change.andThen
  dsimp only
  rw [onChime_telltales]
  refine (onOffer_record ..).imp (fun h => h.trans ?_) (fun h => h.trans ?_) <;>
    rw [recomputeNamed_records, setTelltale_record, if_pos rfl]

/-- A telltale that goes OFF keeps its condition (R84). -/
theorem telltaleOff_record (s : State) (i : Fin 64) :
    ((s.telltaleOff i).state.telltales.records[i]).state = .off ∧
      ((s.telltaleOff i).state.telltales.records[i]).condition = (s.telltales.records[i]).condition := by
  unfold State.telltaleOff Change.andThen
  dsimp only
  rw [recomputeNamed_records, removeRequest_telltales]
  split
  · rw [Change.silent, setTelltale_record, if_pos rfl]; exact ⟨rfl, rfl⟩
  · simp only [State.withdraw, setTelltale_record, if_true]; exact ⟨trivial, trivial⟩

/-- The state that a fresh evaluation gives an OFF telltale, by its condition (R81). -/
def TelltaleEntry.freshState (e : TelltaleEntry) (condition : Bool) : TelltaleState :=
  if condition = true then (if e.onDebounce = 0 then .on else .rising) else .off

/-- The move of an OFF telltale by its condition (R81). -/
theorem moveTelltale_off_record (s : State) (i : Fin 64) (hoff : (s.telltales.records[i]).state = .off) :
    ((s.moveTelltale i).state.telltales.records[i]).condition = (s.telltales.records[i]).condition ∧
      ((s.moveTelltale i).state.telltales.records[i]).state =
        (s.tables.telltale[i]).freshState (s.telltales.records[i]).condition := by
  unfold State.moveTelltale TelltaleEntry.freshState
  cases hc : (s.telltales.records[i]).condition with
  | false => simp only [hoff, hc]; exact ⟨hc, hoff⟩
  | true =>
    simp only [hoff, hc, if_true]
    split
    · exact ⟨(telltaleOn_record s i).2.trans hc, (telltaleOn_record s i).1⟩
    · simp only [Change.silent, setTelltale_record, if_true]; exact ⟨trivial, trivial⟩

/-- A fresh evaluation of an OFF telltale (R80, R81). -/
theorem evaluateFresh_record (s : State) (i : Fin 64) (hoff : (s.telltales.records[i]).state = .off) :
    let e := s.tables.telltale[i]
    ((s.evaluateFresh i).state.telltales.records[i]).condition = e.condition (s.slot e.source) false ∧
      ((s.evaluateFresh i).state.telltales.records[i]).state = e.freshState (e.condition (s.slot e.source) false) := by
  let c := (s.tables.telltale[i]).condition (s.slot (s.tables.telltale[i]).source) false
  have hfresh : s.evaluateFresh i = ((s.setCondition i false).setCondition i c).moveTelltale i := by
    unfold State.evaluateFresh State.evaluateTelltale
    simp only [State.setCondition, setTelltale_record, if_true]
    rfl
  have hrec : ((s.setCondition i false).setCondition i c).telltales.records[i] =
      { s.telltales.records[i] with condition := c } := by
    simp only [State.setCondition, setTelltale_record, if_true]
  have h := moveTelltale_off_record ((s.setCondition i false).setCondition i c) i (by rw [hrec]; exact hoff)
  rw [hrec, ← hfresh] at h
  exact h

/-! ### An accepted telltale entry write -/

theorem reacted_telltaleWritten (i : Fin 64) (l : Option (Fin 32)) (s : State) : Reacted s (telltaleWritten i l s) := by
  unfold telltaleWritten
  dsimp only
  have h₁ := reacted_whole (f := fun s => ((s.setCondition i false).telltaleOff i).andThen fun s => s.recomputeNamed l)
    (fun s => ((presented_setCondition s i false).trans ((moving_presented i).telltaleOff _)).trans
      (presented_recomputeNamed _ l)) s
  split
  · exact h₁.trans (reacted_whole (fun s => (moving_presented i).evaluateFresh s) _)
  · exact h₁

/-- What an entry write leaves of a telltale that is not on slot 127: OFF with condition false, and, active under the entry as
written, what the fresh evaluation gives (R94). -/
theorem telltaleWritten_record (i : Fin 64) (l : Option (Fin 32)) (s : State)
    (hsource : (s.tables.telltale[i]).source ≠ 127) :
    let e := s.tables.telltale[i]
    let r := (telltaleWritten i l s).telltales.records[i]
    (activeIn s.time.part e = false → r.state = .off ∧ r.condition = false) ∧
      (activeIn s.time.part e = true → r.condition = e.condition (s.slot e.source) false ∧
        r.state = e.freshState (e.condition (s.slot e.source) false)) := by
  let off : State → Change := fun s => ((s.setCondition i false).telltaleOff i).andThen fun s => s.recomputeNamed l
  have hpres : ∀ s, Presented s (off s).state := fun s =>
    ((presented_setCondition s i false).trans ((moving_presented i).telltaleOff _)).trans (presented_recomputeNamed _ l)
  have hre := reacted_whole hpres s
  have hentry : (whole off s).tables.telltale[i] = s.tables.telltale[i] := by rw [hre.tables]
  have hslot : (whole off s).slot (s.tables.telltale[i]).source = s.slot (s.tables.telltale[i]).source :=
    hre.slots _ hsource
  have hactive : (whole off s).telltaleActive i = activeIn s.time.part s.tables.telltale[i] := by
    unfold State.telltaleActive; rw [hre.time, hentry]
  -- after the first move and its reports the telltale stands OFF with condition false
  have hstands : ((whole off s).telltales.records[i]).state = .off ∧
      ((whole off s).telltales.records[i]).condition = false := by
    have hout := (slot127Stand_whole off s).2.2 i (by rw [(hpres s).reacted.tables]; exact hsource)
    have hoff := telltaleOff_record (s.setCondition i false) i
    have hrec : (off s).state.telltales.records = ((s.setCondition i false).telltaleOff i).state.telltales.records :=
      recomputeNamed_records ..
    rw [hout.1, hout.2, hrec, hoff.1, hoff.2]
    simp only [State.setCondition, setTelltale_record, if_true]; exact ⟨trivial, trivial⟩
  dsimp only
  unfold telltaleWritten
  dsimp only
  rw [show whole (fun s => ((s.setCondition i false).telltaleOff i).andThen fun s => s.recomputeNamed l) s = whole off s
    from rfl, hactive]
  refine ⟨fun h => ?_, fun h => ?_⟩
  · rw [h, if_neg Bool.false_ne_true]; exact hstands
  · rw [if_pos h]
    have hfresh := evaluateFresh_record (whole off s) i hstands.1
    have hout := (slot127Stand_whole (fun s => s.evaluateFresh i) (whole off s)).2.2 i (by
      rw [((moving_presented i).evaluateFresh _).reacted.tables, hentry]; exact hsource)
    dsimp only at hfresh
    rw [hentry, hslot] at hfresh
    exact ⟨hout.2.trans hfresh.1, hout.1.trans hfresh.2⟩

end Sys2Proof.Machine
end

section
/-! PROOFS. LOAD and SET_FIELD (R177, R178): the checks in their order, and the write of an accepted entry with its effect in use
(chapter 10 section 5). -/

namespace Sys2Proof.Machine

/-! ### Checks of an entry -/

@[simp] theorem natIndex_val {n : Nat} (i : Fin n) : natIndex n i.val = some i := dif_pos i.isLt

theorem natIndex_of_le {n k : Nat} (h : n ≤ k) : natIndex n k = none := dif_neg (Nat.not_lt.2 h)

section
variable {α : Type} {e : Option α} {ok : α → Bool} {write : α → State}

theorem accept_good (h : e.any ok = true) : ∃ x, e = some x ∧ accept e ok write = .ok (write x) := by
  cases e with
  | none => cases h
  | some x => exact ⟨x, rfl, if_pos h⟩

theorem accept_bad (h : e.any ok = false) : accept e ok write = .error .range := by
  cases e with
  | none => rfl
  | some x => exact if_neg (Bool.eq_false_iff.1 h)

end

theorem acceptCurve_good {e : Option Curve} {write : Curve → State} (h : e.any (fun c => c.inRange && c.inOrder) = true) :
    ∃ x, e = some x ∧ acceptCurve e write = .ok (write x) := by
  cases e with
  | none => cases h
  | some x =>
    obtain ⟨hrange, horder⟩ := Bool.and_eq_true_iff.1 h
    exact ⟨x, rfl, by simp only [acceptCurve, hrange, horder, if_true]⟩

theorem acceptCurve_bad {l : List Byte} {write : Curve → State} (h : entryGood .curve l = false) :
    acceptCurve (Curve.ofBytes l) write = .error (entryStatus .curve l) := by
  unfold entryGood at h
  unfold entryStatus acceptCurve
  cases hl : Curve.ofBytes l with
  | none => simp
  | some c =>
    rw [hl] at h
    cases hr : c.inRange <;> cases ho : c.inOrder <;> simp_all

/-- Tables but the curves give RANGE alone (R177). -/
theorem entryStatus_of_ne {t : TableId} (h : t ≠ .curve) (l : List Byte) : entryStatus t l = .range := if_neg fun g => h g.1

/-! ### Writes of an entry -/

theorem writeSlotConfig_eq (i : Fin 120) (e : SlotConfig) (s : State) :
    writeSlotConfig i e s = decodedEvent .quality i { s with
      tables := { s.tables with slotConfig := s.tables.slotConfig.set i e }
      store := { slots := s.store.slots.set (decodedSlot i) { s.slot (decodedSlot i) with quality := .unknown, clamped := false }
                 hold := s.store.hold.set i none, stale := s.store.stale.set i none } } := rfl

theorem rewrite_eq (c : Channel) (e : GaugeEntry) (part : PartState) : c.rewrite e part =
    if part = .homing ∨ part = .run ∨ part = .standby then
      { c with target := e.park, state := .homing, homingDistance := 0, position := min c.position e.maxPos }
    else { c with state := .unhomed, position := 0, filter := 0, target := 0 } := by
  cases part <;> simp [Channel.rewrite, Channel.startHoming]

theorem writeGauge_eq (i : Fin 6) (e : GaugeEntry) (s : State) : s.writeGauge i e = State.gaugesReported { s with
    tables := { s.tables with gauge := s.tables.gauge.set i e }
    gauges := { s.gauges with channels := (s.gauges.channels.set i
      (if s.time.part = .homing ∨ s.time.part = .run ∨ s.time.part = .standby then
        { s.gauges.channels[i] with
          target := e.park, state := .homing, homingDistance := 0, position := min (s.gauges.channels[i]).position e.maxPos }
      else { s.gauges.channels[i] with state := .unhomed, position := 0, filter := 0, target := 0 })) } } := by
  rw [← rewrite_eq]
  have hentry : (s.tables.gauge.set i e)[i] = e := by simp
  unfold State.writeGauge State.gaugeWritten State.updateChannel
  simp only [State.setTables, hentry]
  rfl

theorem writeSystemConfig_taken (e : SystemConfig) (w : Written) (s : State) :
    ∃ v : State, v = { s with
        tables := { s.tables with system := e }
        messages := { s.messages with lastSeen := if w.covers 5 = true then .none else s.messages.lastSeen } } ∧
      if w.covers 1 = true ∨ w.covers 2 = true then
        Selected { v with speed :=
          { s.speed with ring := { s.speed.ring with position := 0, count := 0, lastSum := none }, state := .learning } }
          (writeSystemConfig e w s)
      else writeSystemConfig e w s = v := by
  refine ⟨_, rfl, ?_⟩
  unfold writeSystemConfig
  simp only [Bool.or_eq_true]
  cases w.covers 5
  all_goals
    split
    · exact writeSelection_spec _
    · rfl

/-- An accepted write of a telltale's entry, from the entry in its place on (R94). -/
theorem writeTelltale_taken (i : Fin 64) (e : TelltaleEntry) (s : State) :
    let a := { s with tables := { s.tables with telltale := s.tables.telltale.set i e } }
    let u := writeTelltale i e s
    TelltaleRewritten i (s.tables.telltale[i]).lamp a u ∧ Reacted a u ∧
      (e.source ≠ 127 →
        (activeIn s.time.part e = false →
          (u.telltales.records[i]).state = .off ∧ (u.telltales.records[i]).condition = false) ∧
        (activeIn s.time.part e = true →
          (u.telltales.records[i]).condition = e.condition (s.slot e.source) false ∧
          (u.telltales.records[i]).state = e.freshState (e.condition (s.slot e.source) false))) := by
  intro a u
  have hentry : a.tables.telltale[i] = e := by simp [a]
  refine ⟨telltaleWritten_spec i _ a, reacted_telltaleWritten i _ a, fun he => ?_⟩
  have h := telltaleWritten_record i (s.tables.telltale[i]).lamp a (by rw [hentry]; exact he)
  dsimp only at h
  rw [hentry] at h
  exact h

/-- An entry that its block accepts is written, with its effect in use (R177, R178; chapter 10 section 5). -/
theorem writeEntry_good {t : TableId} {k : Nat} {l : List Byte} (w : Written) (s : State) (hk : k < t.size)
    (hg : entryGood t l = true) : ∃ u, writeEntry t k l w s = .ok u ∧ EntryTaken s t k l w u := by
  cases t with
  | intake =>
    obtain ⟨i, rfl⟩ : ∃ i : Fin 96, i.val = k := ⟨⟨k, hk⟩, rfl⟩
    obtain ⟨e, he, hw⟩ := accept_good (write := s.writeIntake i) hg
    exact ⟨_, by rw [writeEntry, natIndex_val]; exact hw, i, e, rfl, he, rfl⟩
  | map =>
    obtain ⟨i, rfl⟩ : ∃ i : Fin 192, i.val = k := ⟨⟨k, hk⟩, rfl⟩
    obtain ⟨e, he, hw⟩ := accept_good (write := s.writeMap i) hg
    exact ⟨_, by rw [writeEntry, natIndex_val]; exact hw, i, e, rfl, he, rfl⟩
  | slotConfig =>
    obtain ⟨i, rfl⟩ : ∃ i : Fin 120, i.val = k := ⟨⟨k, hk⟩, rfl⟩
    obtain ⟨e, he, hw⟩ := accept_good (write := fun e => writeSlotConfig i e s) hg
    exact ⟨_, by rw [writeEntry, natIndex_val]; exact hw, i, e, rfl, he, writeSlotConfig_eq ..⟩
  | curve =>
    obtain ⟨i, rfl⟩ : ∃ i : Fin 12, i.val = k := ⟨⟨k, hk⟩, rfl⟩
    obtain ⟨e, he, hw⟩ := acceptCurve_good (write := s.writeCurve i) hg
    exact ⟨_, by rw [writeEntry, natIndex_val]; exact hw, i, e, rfl, he, rfl⟩
  | gauge =>
    obtain ⟨i, rfl⟩ : ∃ i : Fin 6, i.val = k := ⟨⟨k, hk⟩, rfl⟩
    obtain ⟨e, he, hw⟩ := accept_good (write := s.writeGauge i) hg
    exact ⟨_, by rw [writeEntry, natIndex_val]; exact hw, i, e, rfl, he, writeGauge_eq ..⟩
  | telltale =>
    obtain ⟨i, rfl⟩ : ∃ i : Fin 64, i.val = k := ⟨⟨k, hk⟩, rfl⟩
    obtain ⟨e, he, hw⟩ := accept_good (write := fun e => writeTelltale i e s) hg
    exact ⟨_, by rw [writeEntry, natIndex_val]; exact hw, i, e, rfl, he, writeTelltale_taken ..⟩
  | chime =>
    obtain ⟨i, rfl⟩ : ∃ i : Fin 8, i.val = k := ⟨⟨k, hk⟩, rfl⟩
    obtain ⟨e, he, hw⟩ := accept_good (e := ChimePattern.ofBytes l) (ok := ChimePattern.ok) (write := s.writeChime i) hg
    exact ⟨_, by rw [writeEntry, natIndex_val]; exact hw, i, e, rfl, he, rfl⟩
  | crewConfig =>
    obtain rfl : k = 0 := Nat.lt_one_iff.1 hk
    obtain ⟨e, he, hw⟩ := accept_good (write := fun e => writeCrewConfig e s) hg
    exact ⟨_, hw, e, rfl, he, writeRemaining_told _,
      writeRemaining_reacted _⟩
  | systemConfig =>
    obtain rfl : k = 0 := Nat.lt_one_iff.1 hk
    obtain ⟨e, he, hw⟩ := accept_good (write := fun e => writeSystemConfig e w s) hg
    obtain ⟨v, hv, hu⟩ := writeSystemConfig_taken e w s
    exact ⟨_, hw, e, v, rfl, he, hv, hu⟩
  | faultPolicy =>
    obtain ⟨i, rfl⟩ : ∃ i : Fin 16, i.val = k := ⟨⟨k, hk⟩, rfl⟩
    obtain ⟨e, he⟩ := Option.isSome_iff_exists.1 hg
    exact ⟨writePolicy i e s, by rw [writeEntry, natIndex_val, he]; rfl, i, e, rfl, he,
      publishSevere_spec _, reacted_publishSevere _⟩

/-- An entry that its block does not accept is refused with its status (R177). -/
theorem writeEntry_bad {t : TableId} {k : Nat} {l : List Byte} (w : Written) (s : State) (hk : k < t.size)
    (hg : entryGood t l = false) : writeEntry t k l w s = .error (entryStatus t l) := by
  have some_index : ∀ {n : Nat}, k < n → ∃ i : Fin n, natIndex n k = some i := fun h => ⟨_, dif_pos h⟩
  cases t with
  | curve =>
    obtain ⟨i, hi⟩ := some_index (n := 12) hk
    rw [writeEntry, hi]; exact acceptCurve_bad hg
  | faultPolicy =>
    obtain ⟨i, hi⟩ := some_index (n := 16) hk
    rw [writeEntry, hi, Option.not_isSome_iff_eq_none.1 (Bool.eq_false_iff.1 hg)]; rfl
  | _ =>
    obtain ⟨i, hi⟩ := some_index hk
    rw [entryStatus_of_ne (by decide)]
    unfold writeEntry TableId.size at *
    rw [hi]; exact accept_bad hg

theorem natIndex_isSome (n k : Nat) : (natIndex n k).isSome = true ↔ k < n := by
  unfold natIndex; split <;> simp_all

/-- An index names an entry exactly when it lies below the table's size (R177). -/
theorem entryBytes_isSome (s : State) (t : TableId) (k : Nat) : (s.entryBytes t k).isSome = true ↔ k < t.size := by
  cases t <;> simp only [State.entryBytes, Option.isSome_map, natIndex_isSome, TableId.size]

theorem entryBytes_of_le (s : State) {t : TableId} {k : Nat} (h : t.size ≤ k) : s.entryBytes t k = none :=
  Option.not_isSome_iff_eq_none.1 (by rw [entryBytes_isSome]; exact Nat.not_lt.2 h)

theorem lt_of_entryBytes {s : State} {t : TableId} {k : Nat} {l : List Byte} (h : s.entryBytes t k = some l) : k < t.size :=
  (entryBytes_isSome s t k).1 (by rw [h]; rfl)

/-! ### A LOAD's checks, in their order (R177) -/

section
variable {table index : Byte} {entry : List Byte} {s : State} {t : TableId}

theorem loadEntry_badTable (h : byteEnum tableCodes table = none) : loadEntry table index entry s = .error .badTable := by
  rw [loadEntry, h]

theorem loadEntry_badIndex (h : byteEnum tableCodes table = some t) (hi : t.size ≤ index.toNat) :
    loadEntry table index entry s = .error .badIndex := by
  rw [loadEntry, h]
  dsimp only
  rw [entryBytes_of_le s hi]

theorem loadEntry_short (h : byteEnum tableCodes table = some t) (hi : index.toNat < t.size)
    (hl : entry.length < t.entryLength) : loadEntry table index entry s = .error .range := by
  obtain ⟨l, hs⟩ := Option.isSome_iff_exists.1 ((entryBytes_isSome s t index.toNat).2 hi)
  rw [loadEntry, h]
  dsimp only
  rw [hs]
  exact if_pos hl

theorem loadEntry_write (h : byteEnum tableCodes table = some t) (hi : index.toNat < t.size)
    (hl : t.entryLength ≤ entry.length) :
    loadEntry table index entry s = writeEntry t index.toNat (entry.take t.entryLength) .all s := by
  obtain ⟨l, hs⟩ := Option.isSome_iff_exists.1 ((entryBytes_isSome s t index.toNat).2 hi)
  rw [loadEntry, h]
  dsimp only
  rw [hs]
  exact if_neg (Nat.not_lt.2 hl)

end

/-! ### A SET_FIELD's checks, in their order (R177) -/

section
variable {table index field : Byte} {s : State} {t : TableId} {l : List Byte} {f : FieldLayout}

theorem nameField_badTable (h : byteEnum tableCodes table = none) : s.nameField table index field = .error .badTable := by
  rw [State.nameField, h]

theorem nameField_badIndex (h : byteEnum tableCodes table = some t) (hi : t.size ≤ index.toNat) :
    s.nameField table index field = .error .badIndex := by
  rw [State.nameField, h]
  dsimp only
  rw [entryBytes_of_le s hi]

theorem nameField_badField (h : byteEnum tableCodes table = some t) (hl : s.entryBytes t index.toNat = some l)
    (hf : t.fields.length ≤ field.toNat) : s.nameField table index field = .error .badField := by
  rw [State.nameField, h]
  dsimp only
  rw [hl]
  dsimp only
  rw [List.getElem?_eq_none hf]

theorem nameField_named (h : byteEnum tableCodes table = some t) (hl : s.entryBytes t index.toNat = some l)
    (hf : t.fields[field.toNat]? = some f) :
    s.nameField table index field = .ok ⟨t, index.toNat, field.toNat, f, l⟩ := by
  rw [State.nameField, h]
  dsimp only
  rw [hl]
  dsimp only
  rw [hf]

end

/-! ### Answers to requests -/

theorem onAwake_of_awake {f : State → State} {s : State} (h : s.awake = true) : onAwake f s = .next (f s) := by
  rw [onAwake, if_pos h]

/-- A refused request (R177). -/
theorem refuse_refused (code : Byte) (tag : Word16) (r : ReplyStatus) (s : State) : Refused s code tag r (refuse code tag r s) :=
  ⟨_, raise_spec _ _ s, offer_spec _ _⟩

section
variable {i : Instr} {s : State} {code : Byte} {tag : Word16}

/-- A command that comes to a refusal and then the end of its event. -/
theorem refused_concluded {r : ReplyStatus} (h : exec i s = .next (conclude (refuse code tag r s))) :
    ∃ u t, exec i s = .next t ∧ Refused s code tag r u ∧ Concluded u t :=
  ⟨_, _, h, refuse_refused .., conclude_spec _⟩

/-- A command that comes to an accepted entry write, its REPLY and then the end of its event. -/
theorem entryTaken_concluded {id : TableId} {k : Nat} {l : List Byte} {w : Written} {u : State}
    (h : exec i s = .next (conclude (reply code tag .ok [] u))) (hu : EntryTaken s id k l w u) :
    ∃ u v t, exec i s = .next t ∧ EntryTaken s id k l w u ∧ Offered u (.reply code tag .ok []) v ∧ Concluded v t :=
  ⟨_, _, _, h, hu, offer_spec _ _, conclude_spec _⟩

end

section
variable {tag : Word16} {table index field : Byte} {entry : List Byte} {value : Word32} {s : State}

/-- A LOAD in an awake part: the answer of its checks and write, then the end of the event (R177). -/
theorem exec_load (hs : s.awake = true) : exec (.load tag table index entry) s =
    .next (conclude (answerWrite 1 tag (loadEntry table index entry s) s)) :=
  onAwake_of_awake (f := fun s => conclude (requestLoad tag table index entry s)) hs

/-- A SET_FIELD in an awake part whose checks 2 to 4 fail (R177). -/
theorem exec_setField_unnamed (hs : s.awake = true) {r : ReplyStatus} (h : s.nameField table index field = .error r) :
    exec (.setField tag table index field value) s = .next (conclude (refuse 3 tag r s)) := by
  refine (onAwake_of_awake (f := fun s => conclude (requestSetField tag table index field value s)) hs).trans ?_
  rw [requestSetField, h]; rfl

/-- A SET_FIELD in an awake part whose checks 2 to 4 pass (R177). -/
theorem exec_setField_named (hs : s.awake = true) {f : NamedField} (h : s.nameField table index field = .ok f) :
    exec (.setField tag table index field value) s = .next (conclude (answerWrite 3 tag (f.write value s) s)) := by
  refine (onAwake_of_awake (f := fun s => conclude (requestSetField tag table index field value s)) hs).trans ?_
  rw [requestSetField, h]

end

/-- Settles O43: the checks in their order, then the write of `writeEntry_good`. -/
theorem loadReplacesTheEntryOrIsRefused : Obligations.LoadReplacesTheEntryOrIsRefused := by
  intro tag table index entry s hs
  have refused : ∀ r, loadEntry table index entry s = .error r → ∃ u t, exec (.load tag table index entry) s = .next t ∧
      Refused s 1 tag r u ∧ Concluded u t :=
    fun r h => refused_concluded (by rw [exec_load hs, h]; rfl)
  refine ⟨fun h => refused _ (loadEntry_badTable h), fun id h => ⟨fun hi => refused _ (loadEntry_badIndex h hi),
    fun hi hl => refused _ (loadEntry_short h hi hl), fun hi hl hg => refused _ ?_, fun hi hl hg => ?_⟩⟩
  · rw [loadEntry_write h hi hl, writeEntry_bad .all s hi hg]
  · obtain ⟨u, hw, hu⟩ := writeEntry_good .all s hi hg
    exact entryTaken_concluded (by rw [exec_load hs, loadEntry_write h hi hl, hw]; rfl) hu

/-- Settles O44: the checks in their order, then the write of `writeEntry_good` with the field replaced. -/
theorem setFieldWritesOneFieldOrIsRefused : Obligations.SetFieldWritesOneFieldOrIsRefused := by
  intro tag table index field value s hs refused
  have unnamed : ∀ r, s.nameField table index field = .error r → refused r :=
    fun r h => refused_concluded (exec_setField_unnamed hs h)
  refine ⟨fun h => unnamed _ (nameField_badTable h), fun id h => ⟨fun hi => unnamed _ (nameField_badIndex h hi),
    fun l hl => ⟨fun hf => unnamed _ (nameField_badField h hl hf), fun f hf => ?_⟩⟩⟩
  have hexec := exec_setField_named (tag := tag) (value := value) hs (nameField_named h hl hf)
  have hi := lt_of_entryBytes hl
  refine ⟨fun hv => refused_concluded ?_, fun hv hg => refused_concluded ?_, fun hv hg => ?_⟩
  · rw [hexec, NamedField.write, if_neg (by simp [hv])]; rfl
  · rw [hexec, NamedField.write, if_pos hv, writeEntry_bad _ s hi hg]; rfl
  · obtain ⟨u, hw, hu⟩ := writeEntry_good (.field field.toNat) s hi hg
    exact entryTaken_concluded (by rw [hexec, NamedField.write, if_pos hv, hw]; rfl) hu

end Sys2Proof.Machine
end

section
/-! PROOFS. Every step keeps every table entry within its constraints (R3, R19, R30, R52, R54, R76, R108, R118, R160). -/

namespace Sys2Proof.Machine

/-! ### Accepted entries keep the constraints -/

theorem any_of_some {α : Type} {o : Option α} {x : α} {p : α → Bool} (h : o = some x) (hp : o.any p = true) : p x = true := by
  rw [h] at hp; exact hp

theorem forall_set {α : Type} {n : Nat} {p : α → Bool} {v : Vector α n} (hv : ∀ i : Fin n, p v[i] = true) (k : Fin n) {x : α}
    (hx : p x = true) (i : Fin n) : p (v.set k x)[i] = true := by
  rw [Fin.getElem_fin, Vector.getElem_set]
  split
  · exact hx
  · exact hv i

theorem cold_ok : Tables.ok Tables.cold := by
  have hcold : ∀ {α : Type} {n : Nat} {p : α → Prop} {x : α} (_ : p x) (i : Fin n), p (Vector.replicate n x)[i] :=
    fun h i => by rw [Fin.getElem_fin, Vector.getElem_replicate]; exact h
  exact ⟨hcold (p := fun e => IntakeEntry.ok e = true) (by decide), hcold (p := fun e => MapEntry.ok e = true) (by decide),
    hcold (p := fun e => SlotConfig.ok e = true) (by decide),
    hcold (p := fun c => Curve.inRange c = true ∧ Curve.inOrder c = true) (by decide),
    hcold (p := fun e => GaugeEntry.ok e = true) (by decide), hcold (p := fun e => TelltaleEntry.ok e = true) (by decide),
    hcold (p := fun e => ChimePattern.ok e = true) (by decide), by decide, by decide⟩

/-- An accepted entry write keeps every entry within its constraints: the entry written passed its block's check (R177). -/
theorem entryTaken_ok {s u : State} {t : TableId} {k : Nat} {l : List Byte} {w : Written} (h : EntryTaken s t k l w u)
    (hg : entryGood t l = true) (hs : Tables.ok s.tables) : Tables.ok u.tables := by
  obtain ⟨hintake, hmap, hslot, hcurve, hgauge, htelltale, hchime, hcrew, hsystem⟩ := hs
  cases t with
  | intake =>
    obtain ⟨i, e, -, he, rfl⟩ := h
    exact ⟨forall_set (p := IntakeEntry.ok) hintake i (any_of_some he hg), hmap, hslot, hcurve, hgauge, htelltale, hchime, hcrew, hsystem⟩
  | map =>
    obtain ⟨i, e, -, he, rfl⟩ := h
    exact ⟨hintake, forall_set (p := MapEntry.ok) hmap i (any_of_some he hg), hslot, hcurve, hgauge, htelltale, hchime, hcrew, hsystem⟩
  | slotConfig =>
    obtain ⟨i, e, -, he, rfl⟩ := h
    rw [decodedEvent_tables]
    exact ⟨hintake, hmap, forall_set (p := SlotConfig.ok) hslot i (any_of_some he hg), hcurve, hgauge, htelltale, hchime, hcrew, hsystem⟩
  | curve =>
    obtain ⟨i, e, -, he, rfl⟩ := h
    obtain ⟨hrange, horder⟩ := Bool.and_eq_true_iff.1 (any_of_some (p := fun c : Curve => c.inRange && c.inOrder) he hg)
    exact ⟨hintake, hmap, hslot, fun j => ⟨forall_set (p := Curve.inRange) (fun j => (hcurve j).1) i hrange j,
      forall_set (p := Curve.inOrder) (fun j => (hcurve j).2) i horder j⟩, hgauge, htelltale, hchime, hcrew, hsystem⟩
  | gauge =>
    obtain ⟨i, e, -, he, rfl⟩ := h
    exact ⟨hintake, hmap, hslot, hcurve, forall_set (p := GaugeEntry.ok) hgauge i (any_of_some he hg), htelltale, hchime, hcrew, hsystem⟩
  | telltale =>
    obtain ⟨i, e, -, he, -, hr, -⟩ := h
    rw [hr.tables]
    exact ⟨hintake, hmap, hslot, hcurve, hgauge, forall_set (p := TelltaleEntry.ok) htelltale i (any_of_some he hg), hchime, hcrew, hsystem⟩
  | chime =>
    obtain ⟨i, e, -, he, rfl⟩ := h
    rw [(presented_choose _).reacted.tables]
    exact ⟨hintake, hmap, hslot, hcurve, hgauge, htelltale, forall_set (p := ChimePattern.ok) hchime i (any_of_some he hg), hcrew, hsystem⟩
  | crewConfig =>
    obtain ⟨e, -, he, -, hr⟩ := h
    rw [hr.tables]
    exact ⟨hintake, hmap, hslot, hcurve, hgauge, htelltale, hchime, any_of_some he hg, hsystem⟩
  | systemConfig =>
    obtain ⟨e, v, -, he, rfl, hu⟩ := h
    have htables : u.tables = { s.tables with system := e } := by
      split at hu
      · exact hu.rest.tables
      · rw [hu]
    rw [htables]
    exact ⟨hintake, hmap, hslot, hcurve, hgauge, htelltale, hchime, hcrew, any_of_some he hg⟩
  | faultPolicy =>
    obtain ⟨i, e, -, -, -, hr⟩ := h
    rw [hr.tables]
    exact ⟨hintake, hmap, hslot, hcurve, hgauge, htelltale, hchime, hcrew, hsystem⟩

theorem writeEntry_ok {s u : State} {t : TableId} {k : Nat} {l : List Byte} {w : Written} (hk : k < t.size)
    (h : writeEntry t k l w s = .ok u) (hs : Tables.ok s.tables) : Tables.ok u.tables := by
  cases hg : entryGood t l with
  | false => rw [writeEntry_bad w s hk hg] at h; cases h
  | true =>
    obtain ⟨v, hv, htaken⟩ := writeEntry_good w s hk hg
    rw [hv] at h
    cases h
    exact entryTaken_ok htaken hg hs

/-! ### The requests that write a table -/

theorem loadEntry_ok {table index : Byte} {entry : List Byte} {s u : State} (h : loadEntry table index entry s = .ok u)
    (hs : Tables.ok s.tables) : Tables.ok u.tables := by
  unfold loadEntry at h
  split at h
  · cases h
  · split at h
    · cases h
    · next hl =>
      split at h
      · cases h
      · exact writeEntry_ok (lt_of_entryBytes hl) h hs

/-- What checks 2 to 4 name is an entry of its table (R177). -/
theorem nameField_index {s : State} {table index field : Byte} {f : NamedField} (h : s.nameField table index field = .ok f) :
    f.index < f.table.size := by
  unfold State.nameField at h
  split at h
  · cases h
  · split at h
    · cases h
    · next hl =>
      split at h
      · cases h
      · cases h; exact lt_of_entryBytes hl

theorem namedField_write_ok {f : NamedField} {value : Word32} {s u : State} (hf : f.index < f.table.size)
    (h : f.write value s = .ok u) (hs : Tables.ok s.tables) : Tables.ok u.tables := by
  unfold NamedField.write at h
  split at h
  · exact writeEntry_ok hf h hs
  · cases h

/-- A request that writes answers with the state its write leaves (R177). -/
theorem answerWrite_ok {code : Byte} {tag : Word16} {r : Except ReplyStatus State} {s : State}
    (hr : ∀ u, r = .ok u → Tables.ok u.tables) (hs : Tables.ok s.tables) : Tables.ok (answerWrite code tag r s).tables := by
  cases r with
  | error e => rw [answerWrite, refuse_tables]; exact hs
  | ok u => rw [answerWrite, reply_tables]; exact hr u rfl

section
variable {s : State} (hs : Tables.ok s.tables)
include hs

theorem requestLoad_ok (tag : Word16) (table index : Byte) (entry : List Byte) :
    Tables.ok (requestLoad tag table index entry s).tables :=
  answerWrite_ok (fun _ h => loadEntry_ok h hs) hs

theorem requestSetField_ok (tag : Word16) (table index field : Byte) (value : Word32) :
    Tables.ok (requestSetField tag table index field value s).tables := by
  refine answerWrite_ok (fun u h => ?_) hs
  split at h
  · cases h
  · next hf => exact namedField_write_ok (nameField_index hf) h hs

theorem serviceSetField_ok (a : ReplyAddress) (table index field : Byte) (value : Word32) :
    Tables.ok (serviceSetField a table index field value s).tables := by
  have hwrite : ∀ u, serviceWrite table index field value s = .ok u → Tables.ok u.tables := by
    intro u h
    unfold serviceWrite at h
    split at h
    · cases h
    · next hf =>
      split at h
      · split at h
        · exact namedField_write_ok (nameField_index hf) h hs
        · cases h
      · cases h
  unfold serviceSetField unlessBusy
  split
  · rw [raiseRefused_tables]; exact hs
  · dsimp only
    split
    · rw [refuseService_tables]; exact hs
    · next hw => rw [placeReply_tables]; exact hwrite _ hw

theorem serviceFrame_ok (a : ReplyAddress) (data : List Byte) : Tables.ok (serviceFrame a data s).tables := by
  unfold serviceFrame
  split
  case h_1 => exact serviceSetField_ok hs ..
  all_goals simpa using hs

theorem dispatch_ok (code : Byte) (tag : Word16) (args : List Byte) : Tables.ok (dispatch code tag args s).tables := by
  unfold dispatch
  split
  case h_1 => exact requestLoad_ok hs ..
  case h_3 => exact requestSetField_ok hs ..
  case h_7 => split <;> simpa using hs
  all_goals simpa [requestRead, requestReadField, requestState] using hs

theorem handlePayload_ok (payload : List Byte) : Tables.ok (handlePayload payload s).tables := by
  unfold handlePayload
  split
  case h_1 => exact dispatch_ok hs ..
  all_goals simpa using hs

theorem handleUpstream_ok (u : List Byte) : Tables.ok (handleUpstream u s).tables := by
  unfold handleUpstream
  split
  · split
    · exact hs
    · exact handlePayload_ok hs _
  · simpa using hs

theorem transfer_ok (u : List Byte) : Tables.ok (transfer u s).tables :=
  handleUpstream_ok (s := s.sendDownstream) (by simpa using hs) u

theorem frameArrived_ok (f : Frame) : Tables.ok (frameArrived f s).tables := by
  unfold frameArrived actOnFrame
  split
  · exact hs
  · split
    · exact hs
    · dsimp only
      split
      · simpa using hs
      · exact serviceFrame_ok (by simpa using hs) _ _

end

/-! ### Every command -/

section
variable {f : State → State} {s t : State}

theorem onAwake_ok (h : onAwake f s = .next t) (hf : Tables.ok s.tables → Tables.ok (f s).tables) (hs : Tables.ok s.tables) :
    Tables.ok t.tables := by
  cases h
  split
  · exact hf hs
  · exact hs

/-- A command of an awake part that writes no table. -/
theorem onAwake_keeps (h : onAwake f s = .next t) (hf : (f s).tables = s.tables) (hs : Tables.ok s.tables) :
    Tables.ok t.tables := onAwake_ok h (fun _ => by rw [hf]; exact hs) hs

/-- The same for one that acts only on a condition. -/
theorem onAwake_keeps_if {p : State → Bool}
    (h : onAwake (fun s => if p s = true then f s else s) s = .next t) (hf : (f s).tables = s.tables) (hs : Tables.ok s.tables) : Tables.ok t.tables :=
  onAwake_keeps h (by split; exacts [hf, rfl]) hs

end

@[simp] theorem advanceMs_tables (s : State) : s.advanceMs.tables = s.tables := by simp only [State.advanceMs]

/-- Every command keeps every entry within its constraints: LOAD, SET_FIELD, the transfers and frames that carry them check what they write,
the two supply commands set the cold start tables, and no other command writes a table. -/
theorem exec_ok {c : Instr} {s t : State} (h : exec c s = .next t) (hs : Tables.ok s.tables) : Tables.ok t.tables := by
  unfold exec at h
  cases c with
  | coldStart => cases h; unfold coldStart; rw [raiseItem_tables]; exact cold_ok
  | keepAliveRemoval => cases h; exact cold_ok
  | resetInputAssert => cases h; exact hs
  | resetInputRelease =>
    cases h
    split
    · split
      · rw [warmStart_tables]; exact hs
      · exact hs
    · exact hs
  | ignitionSenseChange level => cases h; split <;> exact hs
  | ignitionOn => cases h; split; exacts [by rw [takeIgnitionOn_tables]; exact hs, hs]
  | ignitionOff => cases h; split; exacts [by rw [takeIgnitionOff_tables]; exact hs, hs]
  | portBFrameStart => cases h; split; exacts [by rw [wakingEntry_tables]; exact hs, hs]
  | monotonicAdvance =>
    cases h
    split
    · split
      · rw [accountingTick_tables]; exact hs
      · exact hs
    · exact hs
  | linkTransfer u =>
    cases h
    split
    · split
      · rw [conclude_tables]; exact transfer_ok hs u
      · exact hs
    · exact hs
  | frameArrival f => exact onAwake_ok h (fun hs => by rw [conclude_tables]; exact frameArrived_ok hs f) hs
  | load tag table index entry => exact onAwake_ok h (fun hs => by rw [conclude_tables]; exact requestLoad_ok hs ..) hs
  | setField tag table index field value =>
    exact onAwake_ok h (fun hs => by rw [conclude_tables]; exact requestSetField_ok hs ..) hs
  | serviceSetField a table index field value => exact onAwake_ok h (fun hs => serviceSetField_ok hs ..) hs
  | read tag table index => exact onAwake_keeps h (answerRead_tables ..) hs
  | readField tag table index field => exact onAwake_keeps h (answerRead_tables ..) hs
  | state tag target index => exact onAwake_keeps h (answerRead_tables ..) hs
  | clearFaults tag classes => exact onAwake_keeps h (requestClearFaults_tables ..) hs
  | intakeSectionReset tag => exact onAwake_keeps h (requestReset_tables ..) hs
  | signalsSectionReset tag => exact onAwake_keeps h (requestReset_tables ..) hs
  | speedSectionReset tag => exact onAwake_keeps h (requestReset_tables ..) hs
  | gaugesSectionReset tag => exact onAwake_keeps h ((conclude_tables _).trans (requestReset_tables ..)) hs
  | telltalesSectionReset tag => exact onAwake_keeps h (requestReset_tables ..) hs
  | presentationSectionReset tag => exact onAwake_keeps h (requestReset_tables ..) hs
  | crewSectionReset tag => exact onAwake_keeps h (requestReset_tables ..) hs
  | faultsSectionReset tag => exact onAwake_keeps h (requestReset_tables ..) hs
  | start tag => exact onAwake_keeps h ((conclude_tables _).trans (requestStart_tables ..)) hs
  | warmReset tag => exact onAwake_keeps h (requestWarmReset_tables ..) hs
  | serviceReadField a table index field => exact onAwake_keeps h (serviceReadField_tables ..) hs
  | serviceClearFaults a classes => exact onAwake_keeps h (serviceClearFaults_tables ..) hs
  | readFaults a => exact onAwake_keeps h (serviceReadFaults_tables ..) hs
  | silenceExpiry p => exact onAwake_keeps_if h (silenceExpired_tables ..) hs
  | holdExpiry k => exact onAwake_keeps_if h (goHeld_tables ..) hs
  | staleExpiry k => exact onAwake_keeps_if h (goStale_tables ..) hs
  | plausibilityTick => exact onAwake_keeps_if h (plausibilityTicked_tables _) hs
  | filterTick => exact onAwake_keeps_if h (filterTicked_tables _) hs
  | stallReport ch => exact onAwake_keeps h ((conclude_tables _).trans (stallReported_tables ..)) hs
  | onDebounceExpiry i => exact onAwake_keeps_if h (telltaleOn_whole_tables ..) hs
  | offDebounceExpiry i => exact onAwake_keeps_if h (telltaleFallen_whole_tables ..) hs
  | lampNoCurrent ch => exact onAwake_keeps_if h (lampFails_tables ..) hs
  | lampCurrentPresent ch => exact onAwake_keeps_if h (State.setLamp_tables ..) hs
  | lampOverCurrent ch => exact onAwake_keeps_if h (lampFails_tables ..) hs
  | bulbCheckExpiry =>
    exact onAwake_keeps_if h ((conclude_tables _).trans ((State.reportBulbEnd_tables _).trans (endBulbCheck_tables s))) hs
  | chimeOnExpiry => exact onAwake_keeps h (chimeOnEnds_tables _) hs
  | chimeOffExpiry => exact onAwake_keeps h (chimeOffEnds_tables _) hs
  | chimeNoCurrent => exact onAwake_keeps h (chimeFails_tables _) hs
  | chimeCurrentPresent => exact onAwake_keeps h (chimeRecovers_tables _) hs
  | settleExpiry => exact onAwake_keeps_if h ((conclude_tables _).trans (enterByLevel_tables _)) hs
  | quietExpiry => exact onAwake_keeps_if h (conclude_tables _) hs
  | replyFrameSend => exact onAwake_keeps h (sendReply_tables _) hs
  | replyFrameSent => exact onAwake_keeps h (replySent_tables _) hs
  | replyFrameNotSent => exact onAwake_keeps h (replyNotSent_tables _) hs
  | replyExpiry place => exact onAwake_keeps h (replyExpired_tables ..) hs
  | msCounterAdvance => exact onAwake_keeps h (advanceMs_tables s) hs

/-- Settles O52: an idle step changes nothing, and a command keeps the constraints by `exec_ok`. -/
theorem stepsKeepEveryEntryWithinItsConstraints : Obligations.StepsKeepEveryEntryWithinItsConstraints := by
  intro s t hs h
  unfold step at h
  split at h
  · cases h; exact hs
  · exact exec_ok h hs

end Sys2Proof.Machine
end

section
/-! PROOFS. The ms counter, silence expiries and section resets (R13 to R16, R35, R117, R145, R146, R171). -/

namespace Sys2Proof.Machine

/-! ### The ms counter (R146) -/

theorem tickTimer_eq (t : Timer) : tickTimer t = t.map fun n => n - 1 := by cases t <;> rfl

theorem quietTick_eq (q : QuietTimer) : q.tick = match q with
    | .running n => .running (n - 1)
    | q => q := by cases q <;> rfl

theorem arbiterTick_eq (a : Arbiter) : a.tick = match a with
    | .playing i phase n tone => .playing i phase (n - 1) tone
    | .idle => .idle := by cases a <;> rfl

/-- Settles O12: one ms is `State.advanceMs`, which ticks every interval. -/
theorem msAdvancePacesEveryInterval : Obligations.MsAdvancePacesEveryInterval := by
  intro s hs
  refine ⟨s.advanceMs, onAwake_of_awake (f := State.advanceMs) hs, ?_, fun k => ?_, fun k => ?_, fun i => ?_⟩
  · simp only [State.advanceMs, Silence.tick, tickTimer_eq, quietTick_eq, arbiterTick_eq]
    rfl
  · simp [State.advanceMs, State.slot, Store.tick, Slot.age1]
  · simp [State.advanceMs, Store.tick, tickTimer_eq]
  · simp [State.advanceMs, Telltale.tick, tickTimer_eq]

/-! ### Silence expiries (R13, R14) -/

/-- SILENCE_EXPIRY in an awake part. -/
theorem exec_silenceExpiry {p : Port} {s : State} (hs : s.awake = true) : exec (.silenceExpiry p) s =
    .next (if s.time.part = .run ∧ (s.intake.silence p).timer = some 0 then silenceExpired p s else s) := by
  refine (onAwake_of_awake (f := fun s => if s.time.part == .run && (s.intake.silence p).timer == some 0 then
    silenceExpired p s else s) hs).trans ?_
  simp only [Bool.and_eq_true, beq_iff_eq]

/-- Settles O18: for each port, the expiry that is due and the one that is not. -/
theorem silenceExpiryRaisesPortSilent : Obligations.SilenceExpiryRaisesPortSilent := by
  intro s hs
  refine ⟨fun hrun hdue => ⟨_, ?_, raise_spec _ _ _⟩, fun hrun hdue => ⟨_, ?_, raise_spec _ _ _⟩, fun h => ?_, fun h => ?_⟩
  · rw [exec_silenceExpiry hs]; exact congrArg _ (if_pos ⟨hrun, hdue⟩)
  · rw [exec_silenceExpiry hs]; exact congrArg _ (if_pos ⟨hrun, hdue⟩)
  · rw [exec_silenceExpiry hs]; exact congrArg _ (if_neg h)
  · rw [exec_silenceExpiry hs]; exact congrArg _ (if_neg h)

/-! ### Section resets (R16, R117, R145, R171) -/

/-- The INTAKE section reset (R16). -/
theorem resetIntake_eq (s : State) : s.resetIntake =
    let silence : Silence :=
      { timer := if s.time.part ≠ .run ∨ s.tables.system.portSilence = 0 then none else some s.tables.system.portSilence
        episode := false }
    { s with intake := { forwardMemory := Vector.replicate 96 none, silenceA := silence, silenceB := silence } } := by
  unfold State.resetIntake
  by_cases h : s.time.part = .run <;> simp [h, State.setSilence, State.emptyMemories, State.silenceStart, Silence.cold]

/-- With no record attached the snapshot shows both positions absent (R141). -/
theorem snapshot_empty {s : State} (h : s.crew.places = Vector.replicate 4 none) : s.snapshot =
    .crewSnapshot s.time.mono ⟨false, 0, .unknown, 0, 0, .none, false⟩ ⟨false, 0, .unknown, 0, 0, .none, false⟩ := by
  have hnone : ∀ x, s.crew.attached x = none := by
    have hplace : ∀ x, s.crew.attachedPlace x = none := fun x => by
      unfold Crew.attachedPlace Crew.find
      rw [List.find?_eq_none]
      intro i _
      simp [h]
    intro x; rw [Crew.attached, hplace]
  simp only [State.snapshot, State.snapshotPosition, hnone]

/-- With no status set slot 127 counts nothing (R169). -/
theorem severeCount_cleared {s : State} (h : s.faults.status = Vector.replicate 16 false) : s.severeCount = 0 := by
  unfold State.severeCount
  rw [List.countP_eq_zero]
  intro c _
  simp [State.countsSevere, h]

/-- What a PRESENTATION section reset makes of the telltales and the Message Unit (R85, R117). -/
def State.presentationCleared (s : State) : State := State.forgetHeld { s with messages := s.messages.sectionReset }

theorem resetPresentation_spec (s : State) : if s.messages.current = none then
    resetPresentation s = s.presentationCleared
    else Offered s.presentationCleared (.present none 0 0) (resetPresentation s) := by
  unfold resetPresentation
  cases h : s.messages.current with
  | none => simp only [if_true]; rfl
  | some p => rw [if_neg (by simp)]; exact offer_spec _ _

theorem storeRemaining_time (s : State) : s.storeRemaining.time = s.time := by rw [storeRemaining_rest]

theorem storeRemaining_crew (s : State) : s.storeRemaining.crew = s.crew := by rw [storeRemaining_rest]

/-- The crew without a record, its snapshot counter at 0 (R145). -/
def State.crewEmptied (s : State) : State := { s with crew := { places := Vector.replicate 4 none, snapshotCounter := 0 } }

theorem resetCrewSection_eq (s : State) : resetCrewSection s =
    offer (writeRemaining s.crewEmptied).snapshot (writeRemaining s.crewEmptied) := by
  unfold resetCrewSection offerSnapshot State.crewEmptied State.setCrew; rfl

/-- The CREW section reset's snapshot shows both positions absent (R141, R145). -/
theorem crewEmptied_snapshot (s : State) : (writeRemaining s.crewEmptied).snapshot = .crewSnapshot s.time.mono
    ⟨false, 0, .unknown, 0, 0, .none, false⟩ ⟨false, 0, .unknown, 0, 0, .none, false⟩ := by
  have hreact := writeRemaining_reacted s.crewEmptied
  have hcrew : (writeRemaining s.crewEmptied).crew = s.crewEmptied.crew := hreact.crew.trans (storeRemaining_crew _)
  have htime : (writeRemaining s.crewEmptied).time = s.time := hreact.time.trans (storeRemaining_time _)
  rw [snapshot_empty (by rw [hcrew]; rfl), htime]

/-- The FAULTS section reset (R171): slot 127 is written with 0. -/
theorem faultsCleared_severe (s : State) :
    let a := { s with faults := { status := Vector.replicate 16 false, capture := none, overflow := false } }
    a.severeWritten = a.setSlot 127 ⟨0, .fresh, false, 0⟩ := by
  intro a
  unfold State.severeWritten
  rw [severeCount_cleared (s := a) rfl]
  rfl

/-- A RESET_SECTION is followed by its REPLY (R180). -/
theorem requestReset_spec (tag : Word16) (x : Section) (s : State) :
    Offered (resetSection x s) (.reply 7 tag .ok []) (requestReset tag x s) := offer_spec _ _

/-- A section reset in an awake part, the GAUGES section apart, is followed by its REPLY (R180). -/
theorem reset_replied {i : Instr} {tag : Word16} {x : Section} {s u : State} (h : exec i s = onAwake (requestReset tag x) s)
    (hs : s.awake = true) (hu : resetSection x s = u) : ∃ t, exec i s = .next t ∧ Offered u (.reply 7 tag .ok []) t :=
  ⟨_, h.trans (onAwake_of_awake hs), hu ▸ requestReset_spec tag x s⟩

/-- The CREW section reset: the remaining driving times, the snapshot, the REPLY, in this order (R139, R145). The states on the
way are named, so that no step evaluates them. -/
theorem crewReset_replied (tag : Word16) {s : State} (hs : s.awake = true) :
    ∃ u v t, exec (.crewSectionReset tag) s = .next t ∧ RemainingTold s.crewEmptied u ∧
      Reacted s.crewEmptied.storeRemaining u ∧
      Offered u (.crewSnapshot s.time.mono ⟨false, 0, .unknown, 0, 0, .none, false⟩ ⟨false, 0, .unknown, 0, 0, .none, false⟩) v ∧
      Offered v (.reply 7 tag .ok []) t := by
  obtain ⟨u, hu⟩ : ∃ u, writeRemaining s.crewEmptied = u := ⟨_, rfl⟩
  obtain ⟨v, hv⟩ : ∃ v, resetCrewSection s = v := ⟨_, rfl⟩
  have hsnapshot := crewEmptied_snapshot s
  have hoffer := resetCrewSection_eq s
  rw [hu] at hsnapshot
  rw [hu, hsnapshot, hv] at hoffer
  obtain ⟨t, ht, hr⟩ := reset_replied (i := .crewSectionReset tag) rfl hs hv
  refine ⟨u, v, t, ht, hu ▸ writeRemaining_told _, hu ▸ writeRemaining_reacted _, ?_, hr⟩
  rw [hoffer]
  exact offer_spec _ u

/-- Settles O39: each section's reset, then its REPLY. -/
theorem sectionResetsEmptyTheirBlocks : Obligations.SectionResetsEmptyTheirBlocks := by
  intro tag s hs
  dsimp only
  refine ⟨reset_replied rfl hs (resetIntake_eq s), ?_, ?_, ?_⟩
  · obtain ⟨t, ht, hr⟩ := reset_replied (i := .presentationSectionReset tag) (tag := tag) (x := .presentation)
      (u := resetPresentation s) rfl hs rfl
    refine ⟨s.presentationCleared, _, t, ht, ?_, fun i => ?_, resetPresentation_spec s, hr⟩
    · simp only [State.presentationCleared, State.forgetHeld, Messages.sectionReset]
    · simp [State.presentationCleared, State.forgetHeld]
  · exact crewReset_replied tag hs
  · obtain ⟨t, ht, hr⟩ := reset_replied (i := .faultsSectionReset tag) (tag := tag) (x := .faults) (u := resetFaults s)
      rfl hs rfl
    exact ⟨_, t, ht, faultsCleared_severe s, publishSevere_spec _, reacted_publishSevere _, hr⟩

/-! ### Frames (R5) -/

theorem portClaimed_iff (ports : PortSet) (p : Port) :
    portClaimed ports p = true ↔ ports = .both ∨ (ports = .a ∧ p = .a) ∨ (ports = .b ∧ p = .b) := by
  cases ports <;> cases p <;> simp [portClaimed]

/-- Settles O15: the four tests of `IntakeEntry.claims`, by the frame's id kind. -/
theorem frameMatchesByPortKindAndMaskedId : Obligations.FrameMatchesByPortKindAndMaskedId := by
  intro e f
  unfold IntakeEntry.claims
  simp only [Bool.and_eq_true, portClaimed_iff, beq_iff_eq, and_assoc]
  cases f.id <;> rfl

end Sys2Proof.Machine
end

section
/-! PROOFS. Service request frames (R7, R11, R181, R190). -/

namespace Sys2Proof.Machine

/-! ### Bytes in order -/

theorem toNat_append_byte {n : Nat} (x : BitVec n) (b : Byte) : (x ++ b).toNat = b.toNat + 256 * x.toNat := by
  rw [BitVec.toNat_append, ← Nat.shiftLeft_add_eq_or_of_lt b.isLt, Nat.shiftLeft_eq]
  omega

theorem wordAt_four (v0 v1 v2 v3 : Byte) : wordAt [v0, v1, v2, v3] 0 = v3 ++ v2 ++ v1 ++ v0 := by
  apply BitVec.eq_of_toNat_eq
  rw [toNat_append_byte, toNat_append_byte, toNat_append_byte]
  simp only [wordAt, numAt, bytesNat, BitVec.toNat_ofNat, List.drop_zero, List.take_succ_cons, List.take_zero]
  omega

theorem bytesNat_two (c0 c1 : Byte) : BitVec.ofNat 16 (bytesNat [c0, c1]) = c1 ++ c0 := by
  apply BitVec.eq_of_toNat_eq
  rw [toNat_append_byte]
  simp only [bytesNat, BitVec.toNat_ofNat]
  omega

/-! ### Matched frames (R6, R7) -/

/-- The first entry that claims a frame is the one that matches it (R6). -/
theorem matchFrame_takenBy {s : State} {f : Frame} {i : Fin 96} (h : s.takenBy f i) : s.matchFrame f = some i := by
  obtain ⟨hclaim, hfirst⟩ := h
  unfold State.matchFrame
  rw [List.find?_eq_some_iff_getElem]
  exact ⟨hclaim, i.val, by simp, by simp, fun j hj => by simpa using hfirst ⟨j, by omega⟩ hj⟩

/-- A frame that no entry claims matches none. -/
theorem matchFrame_unclaimed {s : State} {f : Frame} (h : ∀ i : Fin 96, (s.tables.intake[i]).claims f = false) :
    s.matchFrame f = none := by
  unfold State.matchFrame
  rw [List.find?_eq_none]
  exact fun i _ => by rw [h i]; decide

/-- What the model does with a matched frame is what the statements say of it (R7). -/
theorem matchedFrame_eq (s : State) (p : Port) : s.matchedFrame p = s.frameSeen p := by
  obtain ⟨_, _, _, ⟨part, _⟩, _⟩ := s
  cases part <;> cases p <;> rfl

@[simp] theorem frameSeen_tables (s : State) (p : Port) : (s.frameSeen p).tables = s.tables := rfl

@[simp] theorem frameSeen_portB (s : State) (p : Port) : (s.frameSeen p).portB = s.portB := rfl

theorem frameSeen_awake (s : State) (p : Port) : (s.frameSeen p).awake = s.awake := rfl

/-- A data frame in an awake part goes to the entry that takes it (R6, R7). -/
theorem exec_takenFrame {f : Frame} {i : Fin 96} {s : State} (hs : s.awake = true) (hf : f.remote = false)
    (hi : s.takenBy f i) : exec (.frameArrival f) s = .next (conclude (actOnFrame i f (s.frameSeen f.port))) := by
  have harrived : frameArrived f s = actOnFrame i f (s.frameSeen f.port) := by
    simp [frameArrived, hf, matchFrame_takenBy hi, matchedFrame_eq]
  rw [← harrived]
  exact onAwake_of_awake (f := fun s => conclude (frameArrived f s)) hs

/-! ### Requests that a frame's bytes carry (R181) -/

/-- A frame's service request is a command of its own: the frame does what the command does, then the event ends. -/
theorem service_concluded {c i : Instr} {handle : State → State} {s x u : State} (hx : x.awake = true)
    (hc : exec c x = onAwake handle x) (hi : exec i s = .next (conclude u)) (hu : u = handle x) :
    ∃ u t, exec c x = .next u ∧ exec i s = .next t ∧ Concluded u t :=
  ⟨u, conclude u, by rw [hc, onAwake_of_awake hx, hu], hi, conclude_spec u⟩

theorem serviceFrame_setField (reply : ReplyAddress) (table index field v0 v1 v2 v3 : Byte) (rest : List Byte) (s : State) :
    serviceFrame reply (3 :: table :: index :: field :: v0 :: v1 :: v2 :: v3 :: rest) s =
      serviceSetField reply table index field (v3 ++ v2 ++ v1 ++ v0) s := by
  rw [← wordAt_four]; rfl

theorem serviceFrame_clearFaults (reply : ReplyAddress) (c0 c1 : Byte) (rest : List Byte) (s : State) :
    serviceFrame reply (6 :: c0 :: c1 :: rest) s = serviceClearFaults reply (c1 ++ c0) s := by
  rw [← bytesNat_two]; rfl

/-- Bytes that carry no request fail check 1 (R181, R190). -/
theorem serviceFrame_unknown {reply : ReplyAddress} {data : List Byte} {s : State} (h : ¬ serviceKnown data) :
    serviceFrame reply data s = serviceMalformed reply (data.headD 0) s := by
  unfold serviceFrame
  split
  · exact absurd (.inl ⟨rfl, by simp⟩) h
  · exact absurd (.inr (.inl ⟨rfl, by simp⟩)) h
  · exact absurd (.inr (.inr (.inl ⟨rfl, by simp⟩))) h
  · exact absurd (.inr (.inr (.inr rfl))) h
  · rfl
  · rfl

/-- A status alone in a reply frame (R190). -/
theorem placeReply_replyFrame (reply : ReplyAddress) (code : Byte) (r : ReplyStatus) (s : State) :
    s.placeReply (replyFrame reply code r []) = s.replyPlaced reply [replyHead code r] := by
  cases r <;> rfl

/-- A request frame that fails check 1 is refused with RANGE, or with BUSY when four frames are queued (R181). -/
theorem serviceMalformed_spec (reply : ReplyAddress) (code : Byte) (x : State) : ∃ u,
    if x.portB.queue.length < 4 then Raised x .mgmtRefused (.item ReplyStatus.range.code) u ∧
      serviceMalformed reply code x = u.replyPlaced reply [replyHead code .range]
    else Raised x .mgmtRefused (.item ReplyStatus.busy.code) u ∧ serviceMalformed reply code x = u := by
  unfold serviceMalformed unlessBusy refuseService
  by_cases h : x.portB.queue.length < 4
  · refine ⟨raiseRefused .range x, ?_⟩
    rw [if_pos h, if_neg (by simpa [Config.replyPlaces] using h), placeReply_replyFrame]
    exact ⟨raise_spec _ _ x, rfl⟩
  · refine ⟨raiseRefused .busy x, ?_⟩
    rw [if_neg h, if_pos (by simpa [Config.replyPlaces] using h)]
    exact ⟨raise_spec _ _ x, rfl⟩

/-- Settles O17: a MANAGE entry hands the bytes over, and each form of the bytes is its command. -/
theorem manageFrameIsAServiceRequest : Obligations.ManageFrameIsAServiceRequest := by
  intro f i s hs hf hi hmanage reply x
  have hx : x.awake = true := (frameSeen_awake s f.port).trans hs
  have hrun : exec (.frameArrival f) s = .next (conclude (serviceFrame reply f.data x)) := by
    rw [exec_takenFrame hs hf hi]
    unfold actOnFrame
    dsimp only [frameSeen_tables]
    rw [hmanage]
  refine ⟨fun table index field v0 v1 v2 v3 rest hd => ?_, fun table index field rest hd => ?_,
    fun c0 c1 rest hd => ?_, fun rest hd => ?_, fun hd => ?_⟩
  · exact service_concluded hx rfl hrun (by rw [hd, serviceFrame_setField])
  · exact service_concluded hx rfl hrun (by rw [hd]; rfl)
  · exact service_concluded hx rfl hrun (by rw [hd, serviceFrame_clearFaults])
  · exact service_concluded hx rfl hrun (by rw [hd]; rfl)
  · rw [serviceFrame_unknown hd] at hrun
    obtain ⟨u, hu⟩ := serviceMalformed_spec reply (f.data.headD 0) x
    refine ⟨u, _, hrun, ?_⟩
    change if s.portB.queue.length < 4 then _ else _ at hu
    split at hu
    · next hfree =>
      obtain ⟨hraised, heq⟩ := hu
      rw [if_pos hfree]
      exact ⟨hraised, heq ▸ conclude_spec _⟩
    · next hfull =>
      obtain ⟨hraised, heq⟩ := hu
      rw [if_neg hfull]
      exact ⟨hraised, heq ▸ conclude_spec _⟩

end Sys2Proof.Machine
end

section
/-! PROOFS. Frame arrivals: frames without an entry, map ranges and forwarding (R6 to R10, R21 to R34). -/

namespace Sys2Proof.Machine

/-! ### Decoded slots of another state -/

theorem withDecoded_store (s t : State) : s.withDecoded t = { s with store := (s.withDecoded t).store } := by
  unfold State.withDecoded
  generalize (Vector.ofFn fun k : Fin 128 => if k.val < 120 then t.store.slots[k] else s.store.slots[k]) = slots
  rfl

theorem withDecoded_slots (s t : State) (k : Fin 128) : (s.withDecoded t).store.slots[k] =
    if k.val < 120 then t.store.slots[k] else s.store.slots[k] := Vector.getElem_ofFn _

theorem withDecoded_timers (s t : State) :
    (s.withDecoded t).store.hold = t.store.hold ∧ (s.withDecoded t).store.stale = t.store.stale := by
  unfold State.withDecoded
  exact ⟨rfl, rfl⟩

theorem withDecoded_tables (s t : State) : (s.withDecoded t).tables = s.tables := by rw [withDecoded_store]

theorem withDecoded_faults (s t : State) : (s.withDecoded t).faults = s.faults := by rw [withDecoded_store]

/-- The decoded slots of the state that is overwritten do not matter. -/
theorem withDecoded_congr {s t : State} {a : Store}
    (h : ∀ k : Fin 128, ¬ k.val < 120 → a.slots[k] = s.store.slots[k]) :
    State.withDecoded { s with store := a } t = s.withDecoded t := by
  have hslots : (State.withDecoded { s with store := a } t).store.slots = (s.withDecoded t).store.slots := by
    ext1 k hk
    refine ((withDecoded_slots _ t ⟨k, hk⟩).trans ?_).trans (withDecoded_slots s t ⟨k, hk⟩).symm
    split
    · rfl
    · next hge => exact h ⟨k, hk⟩ hge
  obtain ⟨hhold, hstale⟩ := withDecoded_timers { s with store := a } t
  obtain ⟨hhold', hstale'⟩ := withDecoded_timers s t
  rw [withDecoded_store { s with store := a }, withDecoded_store s]
  generalize (State.withDecoded { s with store := a } t).store = x at *
  generalize (s.withDecoded t).store = y at *
  obtain ⟨_, _, _⟩ := x
  obtain ⟨_, _, _⟩ := y
  dsimp only at hslots hhold hstale hhold' hstale'
  rw [hslots, hhold, hstale, hhold', hstale']

/-- What events of slots leave alone does not speak of slots 120 to 125 and 127, nor of what the stores have in common. -/
theorem Observed.stores {s t : State} {a x y : Store} (h : Observed { s with store := a } t)
    (hslots : ∀ k : Fin 128, k.val < 120 ∨ k = 126 → y.slots[k] = x.slots[k]) (hhold : y.hold = x.hold)
    (hstale : y.stale = x.stale) : Observed { s with store := x } { t with store := y } where
  keepAlive := h.keepAlive
  resetHeld := h.resetHeld
  rawIgnition := h.rawIgnition
  pending := h.pending
  time := h.time
  tables := h.tables
  intake := h.intake
  speed := h.speed
  portB := h.portB
  hold := hhold
  stale := hstale
  slots := hslots
  filterTick := h.filterTick
  motion := h.motion
  bulbCheck := h.bulbCheck
  snapshots := h.snapshots
  sent := h.sent
  status := h.status
  capture := h.capture

/-- What follows from `w` by events of slots follows also from `w` with the decoded slots that came of them. -/
theorem Observed.withDecoded {w t : State} (h : Observed w t) : Observed (w.withDecoded t) t := by
  obtain ⟨hhold, hstale⟩ := withDecoded_timers w t
  have hslots : ∀ k : Fin 128, k.val < 120 ∨ k = 126 → t.store.slots[k] = (w.withDecoded t).store.slots[k] := fun k hk => by
    rw [withDecoded_slots]
    split
    · rfl
    · next hge => exact h.slots k (.inr (hk.resolve_left hge))
  rw [withDecoded_store]
  exact Observed.stores (a := w.store) (y := t.store) h hslots hhold.symm hstale.symm

/-- The decoded slots of a later state over two states that follow one another. -/
theorem Observed.withDecoded_left {s t : State} (h : Observed (s.withDecoded t) t) (u : State) :
    Observed (s.withDecoded u) (t.withDecoded u) := by
  obtain ⟨hhold, hstale⟩ := withDecoded_timers s u
  obtain ⟨hhold', hstale'⟩ := withDecoded_timers t u
  have hslots : ∀ k : Fin 128, k.val < 120 ∨ k = 126 →
      (t.withDecoded u).store.slots[k] = (s.withDecoded u).store.slots[k] := fun k hk => by
    have hslot := h.slots k hk
    rw [withDecoded_slots] at hslot ⊢
    rw [withDecoded_slots]
    split
    · rfl
    · next hge => rwa [if_neg hge] at hslot
  rw [withDecoded_store s t] at h
  rw [withDecoded_store s u, withDecoded_store t u]
  exact h.stores hslots (hhold'.trans hhold.symm) (hstale'.trans hstale.symm)

/-! ### Runs of map entries (R8, R21 to R29, R34) -/

/-- What a run of map entries on a frame leaves, whatever the events between did: the clauses of `MapRan` beyond its path, for
a list of entries. -/
structure EntriesRan (f : Frame) (l : List (Fin 192)) (s t : State) : Prop where
  slots : ∀ k : Fin 120, t.slot (decodedSlot k) = l.foldl
    (fun x m => if (s.tables.map[m]).destination = k then
      (s.tables.map[m]).slotAfter s.tables.slotConfig[k] f.data x else x) (s.slot (decodedSlot k))
  timers : ∀ k : Fin 120, (t.store.hold[k], t.store.stale[k]) = l.foldl
    (fun x m => if (s.tables.map[m]).destination = k then
      (s.tables.map[m]).timersAfter s.tables.slotConfig[k] f.data x else x) (s.store.hold[k], s.store.stale[k])
  short : ∀ m ∈ l, (s.tables.map[m]).valid = true → (s.tables.map[m]).short f.data = true →
    t.faults.status[FaultClass.frameShort.number] = true
  rest : Observed (s.withDecoded t) t

theorem EntriesRan.nil (f : Frame) (s : State) : EntriesRan f [] s s where
  slots _ := rfl
  timers _ := rfl
  short := by simp
  rest := (Observed.refl s).withDecoded

theorem EntriesRan.append {f : Frame} {l r : List (Fin 192)} {s t u : State} (h : EntriesRan f l s t)
    (g : EntriesRan f r t u) : EntriesRan f (l ++ r) s u := by
  have htables : t.tables = s.tables := h.rest.tables.trans (withDecoded_tables s t)
  refine ⟨fun k => ?_, fun k => ?_, fun m hm hv hs => ?_, (h.rest.withDecoded_left u).trans g.rest⟩
  · rw [List.foldl_append, ← h.slots k, ← htables]; exact g.slots k
  · rw [List.foldl_append, ← h.timers k, ← htables]; exact g.timers k
  · rcases List.mem_append.mp hm with hm | hm
    · exact g.rest.status _ (by rw [withDecoded_faults]; exact h.short m hm hv hs)
    · exact g.short m hm (htables ▸ hv) (htables ▸ hs)

/-- A state with one map entry's destination and its timers as the entry leaves them (R29, R34). -/
def State.mapWritten (f : Frame) (m : Fin 192) (s : State) : State :=
  let e := s.tables.map[m]
  let k := e.destination
  let timers := e.timersAfter s.tables.slotConfig[k] f.data (s.store.hold[k], s.store.stale[k])
  (s.setSlot (decodedSlot k) (e.slotAfter s.tables.slotConfig[k] f.data (s.slot (decodedSlot k)))).setSlotTimers k
    timers.1 timers.2

/-- A valid entry that the frame is long enough for writes its destination, which makes one event of the slot. -/
theorem runMapEntry_update {f : Frame} {m : Fin 192} {s : State} (hv : (s.tables.map[m]).valid = true)
    (hs : (s.tables.map[m]).short f.data = false) : runMapEntry f m s =
      decodedEvent (match (s.tables.map[m]).read ((s.tables.map[m]).pattern f.data) with
        | .notAvailable | .error => .code
        | .value _ => .value) (s.tables.map[m]).destination (s.mapWritten f m) := by
  unfold runMapEntry State.mapWritten MapEntry.slotAfter MapEntry.timersAfter
  simp only [hv, hs]
  cases (s.tables.map[m]).read ((s.tables.map[m]).pattern f.data) <;> rfl

theorem runMapEntry_invalid {f : Frame} {m : Fin 192} {s : State} (hv : (s.tables.map[m]).valid = false) :
    runMapEntry f m s = s := by
  unfold runMapEntry
  dsimp only
  rw [hv, if_neg (by decide)]

theorem runMapEntry_short {f : Frame} {m : Fin 192} {s : State} (hv : (s.tables.map[m]).valid = true)
    (hs : (s.tables.map[m]).short f.data = true) :
    runMapEntry f m s = raise .frameShort (.frameShort f.port f.id m.val) s := by
  unfold runMapEntry
  dsimp only
  rw [hv, hs, if_pos rfl, if_pos rfl]

/-- One map entry's run is what the statements say of it. -/
theorem runMapEntry_ran (f : Frame) (m : Fin 192) (s : State) : MapEntryRan f m s (runMapEntry f m s) := by
  unfold MapEntryRan
  dsimp only
  cases hv : (s.tables.map[m]).valid with
  | false => rw [if_pos rfl]; exact runMapEntry_invalid hv
  | true =>
    rw [if_neg (by decide)]
    cases hs : (s.tables.map[m]).short f.data with
    | true => rw [if_pos rfl, runMapEntry_short hv hs]; exact raise_spec ..
    | false =>
      rw [if_neg (by decide), runMapEntry_update hv hs]
      cases (s.tables.map[m]).read ((s.tables.map[m]).pattern f.data) <;> rfl

theorem decodedSlot_inj {j k : Fin 120} : decodedSlot j = decodedSlot k ↔ j = k := by
  simp [decodedSlot, Fin.ext_iff]

theorem mapWritten_slot (f : Frame) (m : Fin 192) (s : State) (k : Fin 120) : (s.mapWritten f m).slot (decodedSlot k) =
    if (s.tables.map[m]).destination = k then
      (s.tables.map[m]).slotAfter s.tables.slotConfig[k] f.data (s.slot (decodedSlot k))
    else s.slot (decodedSlot k) := by
  refine (slot_setSlot s _ (decodedSlot k) _).trans ?_
  by_cases h : (s.tables.map[m]).destination = k
  · subst h; simp
  · rw [if_neg h, if_neg (fun heq => h (decodedSlot_inj.mp heq))]

theorem mapWritten_timers (f : Frame) (m : Fin 192) (s : State) (k : Fin 120) :
    ((s.mapWritten f m).store.hold[k], (s.mapWritten f m).store.stale[k]) =
      if (s.tables.map[m]).destination = k then
        (s.tables.map[m]).timersAfter s.tables.slotConfig[k] f.data (s.store.hold[k], s.store.stale[k])
      else (s.store.hold[k], s.store.stale[k]) := by
  unfold State.mapWritten
  by_cases h : (s.tables.map[m]).destination = k
  · subst h; simp
  · have hval : (s.tables.map[m]).destination.val ≠ k.val := fun heq => h (Fin.ext heq)
    simp only [State.setSlotTimers_store_hold, State.setSlotTimers_store_stale, State.setSlot_store_hold,
      State.setSlot_store_stale, Fin.getElem_fin] at h hval ⊢
    rw [Vector.getElem_set_ne _ _ hval, Vector.getElem_set_ne _ _ hval, if_neg h]

theorem mapWritten_withDecoded (f : Frame) (m : Fin 192) (s t : State) :
    (s.mapWritten f m).withDecoded t = s.withDecoded t := by
  refine withDecoded_congr (s := s) (a := (s.mapWritten f m).store) fun k hge => ?_
  refine (slot_setSlot s (decodedSlot (s.tables.map[m]).destination) k _).trans (if_neg fun heq => hge ?_)
  rw [← heq]
  exact (s.tables.map[m]).destination.isLt

/-- An entry that writes nothing leaves every slot as it stands. -/
theorem mapWritten_idle {f : Frame} {m : Fin 192} {s : State}
    (h : ¬ ((s.tables.map[m]).valid = true ∧ (s.tables.map[m]).short f.data = false)) : s.mapWritten f m = s := by
  unfold State.mapWritten MapEntry.slotAfter MapEntry.timersAfter
  simp only [if_neg h]
  unfold State.setSlot State.setSlotTimers State.slot
  simp only [Fin.getElem_fin, Vector.set_getElem_self]

/-- What one entry leaves, from what the readers of its destination leave alone. -/
theorem EntriesRan.single {f : Frame} {m : Fin 192} {s t : State} (h : Observed (s.mapWritten f m) t)
    (hshort : (s.tables.map[m]).valid = true → (s.tables.map[m]).short f.data = true →
      t.faults.status[FaultClass.frameShort.number] = true) : EntriesRan f [m] s t where
  slots k := (h.slots (decodedSlot k) (.inl k.isLt)).trans (mapWritten_slot f m s k)
  timers k := by
    rw [h.hold, h.stale]
    exact mapWritten_timers f m s k
  short j hj := by
    rw [List.mem_singleton.mp hj]
    exact hshort
  rest := mapWritten_withDecoded f m s t ▸ h.withDecoded

theorem runMapEntry_entriesRan (f : Frame) (m : Fin 192) (s : State) : EntriesRan f [m] s (runMapEntry f m s) := by
  cases hv : (s.tables.map[m]).valid with
  | false =>
    rw [runMapEntry_invalid hv]
    refine .single ?_ fun hvalid => absurd (hv.symm.trans hvalid) (by decide)
    rw [mapWritten_idle fun hwrites => absurd (hv.symm.trans hwrites.1) (by decide)]
    exact .refl s
  | true =>
    cases hs : (s.tables.map[m]).short f.data with
    | true =>
      rw [runMapEntry_short hv hs]
      refine .single ?_ fun _ _ => raise_status ..
      rw [mapWritten_idle fun hwrites => absurd (hs.symm.trans hwrites.2) (by decide)]
      exact (reacted_raise ..).observed
    | false =>
      rw [runMapEntry_update hv hs]
      exact .single (observed_decodedEvent ..) fun _ hshort => absurd (hs.symm.trans hshort) (by decide)

theorem foldl_entriesRan (f : Frame) (l : List (Fin 192)) (s : State) :
    EntriesRan f l s (l.foldl (fun s m => runMapEntry f m s) s) := by
  induction l generalizing s with
  | nil => exact .nil f s
  | cons m l ih => exact (runMapEntry_entriesRan f m s).append (ih _)

/-- The map range as a run of its entries alone (R8). -/
theorem runMapRange_eq (f : Frame) (first count : Nat) (s : State) :
    runMapRange f first count s = (mapRange first count).foldl (fun s m => runMapEntry f m s) s := by
  unfold runMapRange mapRange
  rw [List.foldl_filter]
  simp only [decide_eq_true_eq]

/-- One turn of the map range: an entry outside it is passed over (R8). -/
def runInRange (f : Frame) (first count : Nat) (s : State) (m : Fin 192) : State :=
  if first ≤ m.val ∧ m.val < first + count then runMapEntry f m s else s

theorem runInRange_ran (f : Frame) (first count : Nat) (s : State) (m : Fin 192) :
    if m ∈ mapRange first count then MapEntryRan f m s (runInRange f first count s m) else runInRange f first count s m = s := by
  have hmem : m ∈ mapRange first count ↔ first ≤ m.val ∧ m.val < first + count := by simp [mapRange]
  unfold runInRange
  by_cases h : first ≤ m.val ∧ m.val < first + count
  · rw [if_pos (hmem.mpr h), if_pos h]; exact runMapEntry_ran ..
  · rw [if_neg (fun hin => h (hmem.mp hin)), if_neg h]

/-- The entries in turn, those outside the range left out (R8). -/
theorem runMapRange_path (f : Frame) (first count : Nat) (s : State) : ∃ path : Nat → State, path 0 = s ∧
    path 192 = runMapRange f first count s ∧ ∀ m : Fin 192, if m ∈ mapRange first count then
      MapEntryRan f m (path m.val) (path (m.val + 1)) else path (m.val + 1) = path m.val := by
  refine ⟨fun n => ((List.finRange 192).take n).foldl (runInRange f first count) s, rfl, ?_, fun m => ?_⟩
  · dsimp only
    rw [List.take_of_length_le (by simp)]
    rfl
  · have hm : (List.finRange 192)[m.val]? = some m := by simp
    dsimp only
    rw [List.take_add_one, List.foldl_append, hm]
    exact runInRange_ran ..

/-- A frame's map range (R8, R21 to R34). -/
theorem runMapRange_ran (f : Frame) (first count : Nat) (s : State) :
    MapRan f first count s (runMapRange f first count s) := by
  obtain ⟨hslots, htimers, hshort, hrest⟩ := foldl_entriesRan f (mapRange first count) s
  rw [← runMapRange_eq] at hslots htimers hshort hrest
  exact ⟨runMapRange_path f first count s, hslots, htimers, hshort, hrest⟩

/-! ### Forwarding (R9, R10) -/

/-- A FORWARD record is accepted when there is a place for it, and dropped otherwise: it replaces nothing (R176). -/
theorem egressAccept_forward (q : List EgressRecord) (i : Fin 96) (f : Frame) : egressAccept q (forwardRecord i f) =
    if q.length < 32 ∧ q.countP (fun x => x.kind == .forward) < 24 then some (q ++ [forwardRecord i f]) else none := by
  have hforward : (forwardRecord i f).isForward = true := rfl
  have hreplaces : ¬ ((forwardRecord i f).kind.replaces = true ∧
      q.any (fun x => x.kind == (forwardRecord i f).kind) = true) := fun h => Bool.noConfusion h.1
  unfold egressAccept
  rw [if_neg hreplaces]
  exact if_congr (and_congr_right' ⟨fun h => h hforward, fun h _ => h⟩) rfl rfl

theorem offer_accepted {r : EgressRecord} {s : State} {q : List EgressRecord} (h : egressAccept s.link.egress r = some q) :
    offer r s = s.setEgress q := by
  unfold offer offerWith
  rw [h]

theorem driving_iff (p : PartState) : p.driving = true ↔ p = .homing ∨ p = .run := by cases p <;> simp [PartState.driving]

/-- The forwarding decision is what the statements say of it. -/
theorem forwardFrame_forwarded (i : Fin 96) (f : Frame) (s : State) : Forwarded i f s (forwardFrame i f s) := by
  unfold Forwarded forwardFrame
  dsimp only
  by_cases hpart : s.time.part = .homing ∨ s.time.part = .run
  · rw [if_pos ((driving_iff _).mpr hpart)]
    cases hmode : (s.tables.intake[i]).forwardMode with
    | never => rw [if_neg (by simp)]
    | always =>
      rw [if_pos ⟨hpart, .inl rfl⟩]
      exact ⟨_, offer_spec _ _, (if_neg (by simp)).symm⟩
    | onChange =>
      dsimp only
      by_cases hsame : s.intake.forwardMemory[i] = some f.data
      · rw [if_pos hsame, if_neg (by simp [hsame])]
      · rw [if_neg hsame, if_pos ⟨hpart, .inr ⟨rfl, hsame⟩⟩]
        refine ⟨_, offer_spec _ _, ?_⟩
        have haccept := egressAccept_forward s.link.egress i f
        by_cases hroom : s.link.egress.length < 32 ∧ s.link.egress.countP (fun x => x.kind == .forward) < 24
        · rw [if_pos hroom] at haccept
          rw [if_pos ⟨rfl, hroom⟩, haccept]
          change _ = (offer (forwardRecord i f) s).setMemory i (some f.data)
          rw [offer_accepted haccept]
        · rw [if_neg hroom] at haccept
          rw [if_neg (fun h => hroom h.2), haccept]
          rfl
  · rw [if_neg (fun h => hpart ((driving_iff _).mp h)), if_neg (fun h => hpart h.1)]

/-! ### Frame arrivals (R2, R6) -/

/-- Settles O16: a frame without an entry changes nothing; a DECODE entry's frame runs the map range and is forwarded. -/
theorem framesAreDiscardedOrDecodedAndForwarded : Obligations.FramesAreDiscardedOrDecodedAndForwarded := by
  refine ⟨fun f s hs h => ?_, fun f i s hs hf hi hdecode => ?_⟩
  · have hsame : frameArrived f s = s := by
      unfold frameArrived
      rcases h with hremote | hnone
      · rw [if_pos hremote]
      · rw [matchFrame_unclaimed hnone]; exact ite_self _
    exact ⟨conclude s, (onAwake_of_awake (f := fun s => conclude (frameArrived f s)) hs).trans (by rw [hsame]),
      conclude_spec s⟩
  · have hrun := exec_takenFrame hs hf hi
    unfold actOnFrame at hrun
    dsimp only [frameSeen_tables] at hrun
    rw [hdecode] at hrun
    exact ⟨_, _, _, hrun, runMapRange_ran .., forwardFrame_forwarded .., conclude_spec _⟩

end Sys2Proof.Machine
end

section
/-! PROOFS. Every step keeps the decoded slots' laws (R28, R30, R31, R32): most operations leave the decoded slots as they stand, and the
updates, expiries and resets of a slot are taken one by one. -/

namespace Sys2Proof.Machine

/-! ### The decoded part of the Signal Store -/

/-- What the slots' laws speak of: the Slot Config table, the decoded slots and their hold timers (R30 to R32). -/
structure DecodedPart where
  config : Vector SlotConfig 120
  slots : Fin 120 → Slot
  hold : Vector Timer 120

/-- The decoded part of a state. -/
def State.decoded (s : State) : DecodedPart :=
  { config := s.tables.slotConfig, slots := fun k => s.slot (decodedSlot k), hold := s.store.hold }

/-- The laws of one decoded slot: its entry, the value of a usable slot, and the quality under a running hold timer. -/
def SlotLawful (c : SlotConfig) (x : Slot) (hold : Timer) : Prop :=
  c.min.toInt ≤ c.max.toInt ∧
    (x.usable = true → c.min.toInt ≤ x.value.toInt ∧ x.value.toInt ≤ c.max.toInt) ∧ (hold ≠ none → x.quality = .fresh)

theorem slotLaws_iff (s : State) : SlotLaws s ↔
    ∀ k : Fin 120, SlotLawful s.decoded.config[k] (s.decoded.slots k) s.decoded.hold[k] :=
  ⟨fun h k => ⟨h.config k, h.range k, h.hold k⟩,
    fun h => ⟨fun k => (h k).1, fun k => (h k).2.1, fun k => (h k).2.2⟩⟩

theorem SlotLaws.of_decoded {s t : State} (hs : SlotLaws s) (h : t.decoded = s.decoded) : SlotLaws t := by
  rw [slotLaws_iff, h]; exact (slotLaws_iff s).1 hs

/-- A slot that is not usable meets the laws with its hold timer stopped. -/
theorem slotLawful_unusable {c : SlotConfig} {x : Slot} (hc : c.min.toInt ≤ c.max.toInt) (hx : x.usable = false) :
    SlotLawful c x none := ⟨hc, by simp [hx], by simp⟩

theorem decoded_of_same {s t : State} (ht : t.tables = s.tables) (hs : t.store = s.store) : t.decoded = s.decoded := by
  unfold State.decoded State.slot; rw [ht, hs]

theorem Observed.decoded {s t : State} (h : Observed s t) : t.decoded = s.decoded := by
  have hslot : ∀ k : Fin 120, t.slot (decodedSlot k) = s.slot (decodedSlot k) := fun k => h.slots _ (.inl k.isLt)
  unfold State.decoded
  rw [h.tables, h.hold, funext hslot]

theorem Reacted.decoded {s t : State} (h : Reacted s t) : t.decoded = s.decoded := h.observed.decoded

theorem Presented.decoded {s t : State} (h : Presented s t) : t.decoded = s.decoded := h.reacted.decoded

theorem foldl_decoded {α : Type} {f : State → α → State} (hf : ∀ s a, (f s a).decoded = s.decoded) (l : List α) (s : State) :
    (l.foldl f s).decoded = s.decoded := by
  induction l generalizing s with
  | nil => rfl
  | cons a l ih => rw [List.foldl_cons, ih, hf]

/-! ### Updates of one piece of state outside it -/

section
variable (s : State)

@[simp] theorem setPart_decoded (p : PartState) : (s.setPart p).decoded = s.decoded := rfl
@[simp] theorem setIgnition_decoded (level : Bool) : (s.setIgnition level).decoded = s.decoded := rfl
@[simp] theorem startSettle_decoded : s.startSettle.decoded = s.decoded := rfl
@[simp] theorem setQuiet_decoded (q : QuietTimer) : (s.setQuiet q).decoded = s.decoded := rfl
@[simp] theorem timeHomingEntry_decoded : s.timeHomingEntry.decoded = s.decoded := rfl
@[simp] theorem timeStandbyEntry_decoded : s.timeStandbyEntry.decoded = s.decoded := rfl
@[simp] theorem reportBulbEnd_decoded : s.reportBulbEnd.decoded = s.decoded := rfl
@[simp] theorem reportGauges_decoded : s.reportGauges.decoded = s.decoded := rfl
@[simp] theorem setSilence_decoded (x : Silence) : (s.setSilence x).decoded = s.decoded := rfl
@[simp] theorem emptyMemories_decoded : s.emptyMemories.decoded = s.decoded := rfl
@[simp] theorem setMemory_decoded (i : Fin 96) (m : Option (List Byte)) : (s.setMemory i m).decoded = s.decoded := rfl
@[simp] theorem setRing_decoded (r : PairRing) (a : ArbitrationState) : (s.setRing r a).decoded = s.decoded := rfl
@[simp] theorem setPlausibility_decoded (t : Timer) : (s.setPlausibility t).decoded = s.decoded := rfl
@[simp] theorem setFilterTick_decoded (t : Timer) : (s.setFilterTick t).decoded = s.decoded := rfl
@[simp] theorem setChannel_decoded (ch : Fin 6) (c : Channel) : (s.setChannel ch c).decoded = s.decoded := rfl
@[simp] theorem mapChannels_decoded (f : Channel → GaugeEntry → Channel) : (s.mapChannels f).decoded = s.decoded := rfl
@[simp] theorem mapLamps_decoded (f : LampState → LampState) : (s.mapLamps f).decoded = s.decoded :=
  decoded_of_same (mapLamps_tables s f) (by simp only [State.mapLamps])
@[simp] theorem setLamp_decoded (ch : Fin 32) (l : LampState) : (s.setLamp ch l).decoded = s.decoded := rfl
@[simp] theorem setBulbCheck_decoded (t : Timer) : (s.setBulbCheck t).decoded = s.decoded := rfl
@[simp] theorem setLoad_decoded (l : LoadState) : (s.setLoad l).decoded = s.decoded := rfl
@[simp] theorem setCrew_decoded (c : Crew) : (s.setCrew c).decoded = s.decoded := rfl
@[simp] theorem setSnapshotCounter_decoded (n : Nat) : (s.setSnapshotCounter n).decoded = s.decoded := rfl
@[simp] theorem setEgress_decoded (q : List EgressRecord) : (s.setEgress q).decoded = s.decoded := rfl
@[simp] theorem setSent_decoded (l : List Byte) : (s.setSent l).decoded = s.decoded := rfl
@[simp] theorem placeReply_decoded (f : ReplyFrame) : (s.placeReply f).decoded = s.decoded := rfl
@[simp] theorem setReplies_decoded (q : List QueuedReply) : (s.setReplies q).decoded = s.decoded := rfl
@[simp] theorem setTransmit_decoded (t : PortTransmit) : (s.setTransmit t).decoded = s.decoded := rfl

end

/-! ### Operations that leave the decoded part as it stands -/

@[simp] theorem decodedEvent_decoded (c : SlotChange) (k : Fin 120) (s : State) : (decodedEvent c k s).decoded = s.decoded :=
  (observed_decodedEvent c k s).decoded

@[simp] theorem raise_decoded (c : FaultClass) (d : FaultDetail) (s : State) : (raise c d s).decoded = s.decoded :=
  (reacted_raise c d s).decoded

@[simp] theorem raiseItem_decoded (c : FaultClass) (n : Nat) (s : State) : (raiseItem c n s).decoded = s.decoded :=
  raise_decoded ..

@[simp] theorem raiseRefused_decoded (r : ReplyStatus) (s : State) : (raiseRefused r s).decoded = s.decoded := raise_decoded ..

@[simp] theorem offer_decoded (r : EgressRecord) (s : State) : (offer r s).decoded = s.decoded := (reacted_offer r s).decoded

@[simp] theorem reply_decoded (code : Byte) (tag : Word16) (r : ReplyStatus) (data : List Byte) (s : State) :
    (reply code tag r data s).decoded = s.decoded := offer_decoded ..

@[simp] theorem refuse_decoded (code : Byte) (tag : Word16) (r : ReplyStatus) (s : State) :
    (refuse code tag r s).decoded = s.decoded := by rw [refuse, reply_decoded, raiseRefused_decoded]

@[simp] theorem publishSevere_decoded (s : State) : (publishSevere s).decoded = s.decoded := (reacted_publishSevere s).decoded

@[simp] theorem writeRemaining_decoded (s : State) : (writeRemaining s).decoded = s.decoded :=
  (observed_writeRemaining s).decoded

@[simp] theorem writeSelection_decoded (s : State) : (writeSelection s).decoded = s.decoded :=
  (observed_writeSelection s).decoded

@[simp] theorem offerSnapshot_decoded (s : State) : (offerSnapshot s).decoded = s.decoded := offer_decoded ..

theorem whole_decoded {f : State → Change} (hf : ∀ s, Presented s (f s).state) (s : State) :
    (whole f s).decoded = s.decoded := (reacted_whole hf s).decoded

theorem eachTelltale_decoded {f : State → Fin 64 → Change} (hf : ∀ s i, Presented s (f s i).state) (s : State) :
    (eachTelltale f s).decoded = s.decoded :=
  foldl_decoded (fun s i => whole_decoded (fun s => hf s i) s) _ s

/-- Slot 126 is no decoded slot. -/
@[simp] theorem writeIgnition_decoded (s : State) : (writeIgnition s).decoded = s.decoded := by
  have hset : (s.setSlot 126 s.ignitionContent).decoded = s.decoded := by
    have hslot : ∀ k : Fin 120, (s.setSlot 126 s.ignitionContent).slot (decodedSlot k) = s.slot (decodedSlot k) := fun k => by
      rw [slot_setSlot, if_neg]
      intro h
      have := congrArg Fin.val h
      simp only [decodedSlot] at this
      omega
    unfold State.decoded
    rw [funext hslot]
    rfl
  exact ((reacted_writeDerived 126 (by decide) _ s).decoded).trans hset

/-! ### Moves of the part that leave it -/

@[simp] theorem recomputeLamps_decoded (s : State) : s.recomputeLamps.decoded = s.decoded := (presented_recomputeLamps s).decoded

@[simp] theorem endBulbCheck_decoded (s : State) : s.endBulbCheck.decoded = s.decoded := by simp [State.endBulbCheck]

@[simp] theorem startBulbCheck_decoded (s : State) : s.startBulbCheck.decoded = s.decoded := by
  unfold State.startBulbCheck
  dsimp only
  split <;> simp

@[simp] theorem freshTelltales_decoded (before : PartState) (s : State) : (freshTelltales before s).decoded = s.decoded := by
  refine eachTelltale_decoded (fun s i => ?_) s
  split
  · exact presented_evaluateFresh s i
  · exact .refl s

@[simp] theorem startFilterTick_decoded (s : State) : s.startFilterTick.decoded = s.decoded := by
  unfold State.startFilterTick; split <;> rfl

@[simp] theorem homingEntry_decoded (s : State) : (homingEntry s).decoded = s.decoded := by
  simp [homingEntry, telltalesHomingEntry, State.gaugesHomingEntry]

@[simp] theorem telltalesStandbyEntry_decoded (before : PartState) (s : State) :
    (telltalesStandbyEntry before s).decoded = s.decoded := by
  rw [telltalesStandbyEntry, endBulbCheck_decoded, freshTelltales_decoded, eachTelltale_decoded presented_telltaleStandby]

@[simp] theorem standbyEntry_decoded (s : State) : (standbyEntry s).decoded = s.decoded := by
  simp [standbyEntry, State.gaugesStandbyEntry, State.speedStandby]

@[simp] theorem enterByLevel_decoded (s : State) : (enterByLevel s).decoded = s.decoded := by
  unfold enterByLevel; split <;> simp

@[simp] theorem wakingEntry_decoded (s : State) : (wakingEntry s).decoded = s.decoded := by
  simp [wakingEntry, wakeCredit, State.creditCrew]

@[simp] theorem startPart_decoded (s : State) : (startPart s).decoded = s.decoded := by
  unfold startPart
  split
  · rw [enterByLevel_decoded]; rfl
  · rfl

@[simp] theorem advanceSnapshot_decoded (s : State) : (advanceSnapshot s).decoded = s.decoded := by
  unfold advanceSnapshot
  dsimp only
  split
  · simp
  · split <;> simp

@[simp] theorem accountingTick_decoded (s : State) : (accountingTick s).decoded = s.decoded := by simp [accountingTick]

/-! ### Units and sections that leave it -/

@[simp] theorem forwardFrame_decoded (i : Fin 96) (f : Frame) (s : State) : (forwardFrame i f s).decoded = s.decoded := by
  unfold forwardFrame
  split
  · split
    · rfl
    · exact offer_decoded ..
    · split
      · rfl
      · split
        · rfl
        · exact offer_decoded ..
  · rfl

@[simp] theorem matchedFrame_decoded (s : State) (p : Port) : (s.matchedFrame p).decoded = s.decoded := by
  rw [matchedFrame_eq]; rfl

@[simp] theorem silenceExpired_decoded (p : Port) (s : State) : (silenceExpired p s).decoded = s.decoded := by
  rw [silenceExpired, raiseItem_decoded]; cases p <;> rfl

@[simp] theorem sampleSpeed_decoded (s : State) : (sampleSpeed s).decoded = s.decoded := by
  unfold sampleSpeed
  dsimp only
  split
  · split
    · split <;> simp
    · simp
  · simp

@[simp] theorem plausibilityTicked_decoded (s : State) : (plausibilityTicked s).decoded = s.decoded := by
  simp [plausibilityTicked]

@[simp] theorem reportChanges_decoded (s before : State) : (s.reportChanges before).decoded = s.decoded := by
  unfold State.reportChanges; split <;> rfl

theorem tickChannel_decoded (ch : Fin 6) (s : State) : (tickChannel ch s).decoded = s.decoded := by
  unfold tickChannel tickHoming State.evaluateTarget State.finishHoming State.updateChannel
  dsimp only
  split
  · split <;> simp
  all_goals simp

@[simp] theorem tickChannels_decoded (s : State) : (tickChannels s).decoded = s.decoded :=
  foldl_decoded (fun s ch => tickChannel_decoded ch s) _ s

@[simp] theorem stallReported_decoded (ch : Fin 6) (s : State) : (stallReported ch s).decoded = s.decoded := by
  unfold stallReported takeStall State.finishHoming State.updateChannel
  split
  · split <;> simp
  · rfl

@[simp] theorem lampFails_decoded (ch : Fin 32) (l : LampState) (c : FaultClass) (s : State) :
    (lampFails ch l c s).decoded = s.decoded := by
  have hoffers : ∀ x, (backupOffers ch x).decoded = x.decoded := foldl_decoded (fun x i => by
    dsimp only
    split
    · exact whole_decoded (fun s => (moving_presented i).offerPresentation s i .backup _) x
    · rfl) _
  simp [lampFails, hoffers]

@[simp] theorem chimeOnEnds_decoded (s : State) : s.chimeOnEnds.decoded = s.decoded := by
  unfold State.chimeOnEnds; split <;> rfl

@[simp] theorem chimeOffEnds_decoded (s : State) : s.chimeOffEnds.decoded = s.decoded := by
  unfold State.chimeOffEnds; split
  · exact (presented_completeBurst s _).decoded
  all_goals rfl

@[simp] theorem chimeFails_decoded (s : State) : (chimeFails s).decoded = s.decoded := by
  unfold chimeFails; split <;> simp

@[simp] theorem chimeRecovers_decoded (s : State) : s.chimeRecovers.decoded = s.decoded := by
  unfold State.chimeRecovers; split <;> rfl

@[simp] theorem resetTelltales_decoded (s : State) : (resetTelltales s).decoded = s.decoded := by
  unfold resetTelltales
  rw [recomputeLamps_decoded, eachTelltale_decoded (fun s i => by
    split
    · exact presented_evaluateFresh s i
    · exact .refl s), mapLamps_decoded, eachTelltale_decoded presented_telltaleCleared]

theorem presentationCleared_decoded (s : State) : s.presentationCleared.decoded = s.decoded :=
  decoded_of_same (by simp only [State.presentationCleared, State.forgetHeld])
    (by simp only [State.presentationCleared, State.forgetHeld])

@[simp] theorem resetPresentation_decoded (s : State) : (resetPresentation s).decoded = s.decoded := by
  unfold resetPresentation
  split
  · exact presentationCleared_decoded s
  · rw [offer_decoded]; exact presentationCleared_decoded s

@[simp] theorem clearFaultClasses_decoded (classes : Word16) (service : Bool) (s : State) :
    (clearFaultClasses classes service s).decoded = s.decoded := by
  unfold clearFaultClasses
  dsimp only
  split
  · rfl
  · rw [publishSevere_decoded]; rfl

@[simp] theorem answerRead_decoded (code : Byte) (tag : Word16) (r : Except ReplyStatus (List Byte)) (s : State) :
    (answerRead code tag r s).decoded = s.decoded := by
  cases r <;> simp [answerRead]

@[simp] theorem requestClearFaults_decoded (tag classes : Word16) (s : State) :
    (requestClearFaults tag classes s).decoded = s.decoded := by simp [requestClearFaults]

/-! ### Port B and service requests that leave it -/

theorem refuseService_decoded (a : ReplyAddress) (code : Byte) (r : ReplyStatus) (s : State) :
    (refuseService a code r s).decoded = s.decoded := by simp [refuseService]

theorem unlessBusy_decoded {handle : State → State} (s : State) (h : (handle s).decoded = s.decoded) :
    (unlessBusy s handle).decoded = s.decoded := by
  unfold unlessBusy
  split
  · exact raiseRefused_decoded ..
  · exact h

@[simp] theorem serviceReadField_decoded (a : ReplyAddress) (table index field : Byte) (s : State) :
    (serviceReadField a table index field s).decoded = s.decoded :=
  unlessBusy_decoded s (by split; exacts [refuseService_decoded .., rfl])

@[simp] theorem serviceClearFaults_decoded (a : ReplyAddress) (classes : Word16) (s : State) :
    (serviceClearFaults a classes s).decoded = s.decoded :=
  unlessBusy_decoded s (by simp)

@[simp] theorem serviceReadFaults_decoded (a : ReplyAddress) (s : State) : (serviceReadFaults a s).decoded = s.decoded :=
  unlessBusy_decoded s rfl

@[simp] theorem serviceMalformed_decoded (a : ReplyAddress) (code : Byte) (s : State) :
    (serviceMalformed a code s).decoded = s.decoded := unlessBusy_decoded s (refuseService_decoded ..)

@[simp] theorem sendReply_decoded (s : State) : s.sendReply.decoded = s.decoded := by
  unfold State.sendReply; split <;> rfl

@[simp] theorem replySent_decoded (s : State) : s.replySent.decoded = s.decoded := by
  unfold State.replySent
  split
  · rfl
  · split <;> rfl

@[simp] theorem replyNotSent_decoded (s : State) : s.replyNotSent.decoded = s.decoded := by
  unfold State.replyNotSent; split <;> rfl

@[simp] theorem replyExpired_decoded (s : State) (place : Nat) : (s.replyExpired place).decoded = s.decoded := by
  unfold State.replyExpired
  split
  · rfl
  · split <;> rfl

@[simp] theorem sendDownstream_decoded (s : State) : s.sendDownstream.decoded = s.decoded := by
  unfold State.sendDownstream; split <;> rfl

/-! ### Changes of one decoded slot -/

/-- `t` follows from `s` by a change of one decoded slot, which leaves the slot lawful under its entry. -/
structure SlotChanged (k : Fin 120) (s t : State) : Prop where
  own : SlotLawful t.decoded.config[k] (t.decoded.slots k) t.decoded.hold[k]
  others : ∀ j : Fin 120, j ≠ k → t.decoded.config[j] = s.decoded.config[j] ∧
    t.decoded.slots j = s.decoded.slots j ∧ t.decoded.hold[j] = s.decoded.hold[j]

theorem SlotChanged.slotLaws {k : Fin 120} {s t : State} (h : SlotChanged k s t) (hs : SlotLaws s) : SlotLaws t := by
  rw [slotLaws_iff] at hs ⊢
  intro j
  by_cases hj : j = k
  · rw [hj]; exact h.own
  · obtain ⟨hconfig, hslot, hhold⟩ := h.others j hj
    rw [hconfig, hslot, hhold]
    exact hs j

/-- A write of a decoded slot with its hold and stale timers, the slot lawful as written. -/
theorem slotChanged_set {k : Fin 120} {s : State} {x : Slot} {hold stale : Timer}
    (h : SlotLawful s.tables.slotConfig[k] x hold) :
    SlotChanged k s ((s.setSlot (decodedSlot k) x).setSlotTimers k hold stale) where
  own := by
    have hslot : ((s.setSlot (decodedSlot k) x).setSlotTimers k hold stale).slot (decodedSlot k) = x :=
      (slot_setSlot s (decodedSlot k) (decodedSlot k) x).trans (if_pos rfl)
    simpa [State.decoded, hslot] using h
  others j hj := by
    have hslot : ((s.setSlot (decodedSlot k) x).setSlotTimers k hold stale).slot (decodedSlot j) = s.slot (decodedSlot j) :=
      (slot_setSlot s (decodedSlot k) (decodedSlot j) x).trans (if_neg fun h => hj (decodedSlot_inj.1 h).symm)
    refine ⟨rfl, hslot, ?_⟩
    simp only [State.decoded, State.setSlotTimers_store_hold, Fin.getElem_fin]
    exact Vector.getElem_set_ne _ _ (fun h => hj (Fin.ext h.symm))

/-- The value that R28 stores lies within the range of its entry. -/
theorem clamp_range (c : SlotConfig) (v : Int) (h : c.min.toInt ≤ c.max.toInt) :
    c.min.toInt ≤ (c.clamp v).1.toInt ∧ (c.clamp v).1.toInt ≤ c.max.toInt := by
  unfold SlotConfig.clamp
  split
  · exact ⟨le_refl _, h⟩
  · split
    · exact ⟨h, le_refl _⟩
    · have hmin := BitVec.le_toInt c.min
      have hmax := BitVec.toInt_lt (x := c.max)
      have hv : (BitVec.ofInt 32 v).toInt = v := by
        rw [BitVec.toInt_ofInt]
        exact Int.bmod_eq_of_le (by omega) (by omega)
      dsimp only
      omega

section
variable {s : State} (hs : SlotLaws s)
include hs

theorem valueUpdate_slotLaws (k : Fin 120) (v : Int) :
    SlotLaws (valueUpdate k ((s.tables.slotConfig[k]).clamp v).1 ((s.tables.slotConfig[k]).clamp v).2 s) := by
  refine ((slotChanged_set ?_).slotLaws hs).of_decoded (decodedEvent_decoded ..)
  exact ⟨hs.config k, fun _ => clamp_range _ v (hs.config k), fun _ => rfl⟩

theorem codeUpdate_slotLaws (k : Fin 120) {q : Quality} (hq : q = .notAvailable ∨ q = .error) : SlotLaws (codeUpdate k q s) := by
  refine ((slotChanged_set ?_).slotLaws hs).of_decoded (decodedEvent_decoded ..)
  exact slotLawful_unusable (hs.config k) (by obtain rfl | rfl := hq <;> rfl)

theorem setUnknown_slotLaws (k : Fin 120) (age : Nat) : SlotLaws (s.setUnknown k age) :=
  (slotChanged_set (slotLawful_unusable (hs.config k) rfl)).slotLaws hs

theorem goStale_slotLaws (k : Fin 120) : SlotLaws (goStale k s) := by
  have hstale : SlotLaws (decodedEvent .quality k ((s.setQuality k .stale).setSlotTimers k none none)) :=
    ((slotChanged_set (slotLawful_unusable (hs.config k) rfl)).slotLaws hs).of_decoded (decodedEvent_decoded ..)
  unfold goStale
  dsimp only
  split
  · exact hstale.of_decoded (raiseItem_decoded ..)
  · exact hstale

/-- A hold expiry that is due finds a FRESH slot, whose value stays in use as HELD (R32). -/
theorem goHeld_slotLaws (k : Fin 120) (hk : s.store.hold[k] = some 0) : SlotLaws (goHeld k s) := by
  unfold goHeld
  dsimp only
  split
  · exact goStale_slotLaws hs k
  · have hfresh : (s.slot (decodedSlot k)).usable = true := by
      rw [Slot.usable, hs.hold k (by rw [hk]; exact Option.some_ne_none 0)]; rfl
    refine ((slotChanged_set ?_).slotLaws hs).of_decoded (decodedEvent_decoded ..)
    exact ⟨hs.config k, fun _ => hs.range k hfresh, fun h => absurd rfl h⟩

theorem resetSignals_slotLaws : SlotLaws (resetSignals s) := by
  unfold resetSignals
  generalize List.finRange 120 = l
  induction l generalizing s with
  | nil => exact hs
  | cons k l ih => exact ih ((setUnknown_slotLaws hs k _).of_decoded (decodedEvent_decoded ..))

theorem runMapEntry_slotLaws (f : Frame) (m : Fin 192) : SlotLaws (runMapEntry f m s) := by
  unfold runMapEntry
  dsimp only
  split
  · split
    · exact hs.of_decoded (raise_decoded ..)
    · split
      · exact codeUpdate_slotLaws hs _ (.inl rfl)
      · exact codeUpdate_slotLaws hs _ (.inr rfl)
      · exact valueUpdate_slotLaws hs _ _
  · exact hs

theorem runMapRange_slotLaws (f : Frame) (first count : Nat) : SlotLaws (runMapRange f first count s) := by
  rw [runMapRange_eq]
  generalize mapRange first count = l
  induction l generalizing s with
  | nil => exact hs
  | cons m l ih => exact ih (runMapEntry_slotLaws hs f m)

/-! ### The ms counter, warm start and SLEEP entry -/

/-- One ms keeps values and qualities, and starts no timer (R35, R146). -/
theorem advanceMs_slotLaws : SlotLaws s.advanceMs := by
  have hslot : ∀ k : Fin 120, s.advanceMs.slot (decodedSlot k) = (s.slot (decodedSlot k)).age1 := fun k => by
    simp [State.slot, State.advanceMs, Store.tick]
  have hhold : ∀ k : Fin 120, s.advanceMs.store.hold[k] = tickTimer s.store.hold[k] := fun k => by
    simp [State.advanceMs, Store.tick]
  refine ⟨by simpa using hs.config, fun k hk => ?_, fun k hk => ?_⟩
  · rw [hslot] at hk ⊢
    exact hs.range k hk
  · rw [hhold] at hk
    rw [hslot]
    refine hs.hold k fun h => hk ?_
    rw [h]; rfl

omit hs in
/-- Warm start and SLEEP entry leave every decoded slot UNKNOWN and every timer stopped (R39). -/
theorem Quieted.slotLaws {t : State} (h : Quieted s t) (hs : SlotLaws s) : SlotLaws t := by
  refine ⟨by rw [h.tables]; exact hs.config, fun k hk => ?_, fun k hk => absurd (h.hold k) hk⟩
  rw [h.decoded k] at hk
  cases hk

theorem conclude_slotLaws : SlotLaws (conclude s) := by
  have h := conclude_spec s
  unfold Concluded at h
  split at h
  · rw [h]; exact hs.of_decoded (decoded_of_same rfl rfl)
  · split at h
    · exact h.toQuieted.slotLaws hs
    · rw [h]; exact hs

theorem warmStart_slotLaws : SlotLaws s.warmStart := by
  refine (warmStart_spec s).toQuieted.slotLaws ?_
  split
  · exact hs.of_decoded (decoded_of_same rfl rfl)
  · exact hs

theorem takeIgnitionOn_slotLaws : SlotLaws (takeIgnitionOn s) := by
  unfold takeIgnitionOn
  split
  · exact hs
  · split
    · exact hs.of_decoded (wakingEntry_decoded s)
    · exact conclude_slotLaws (hs.of_decoded (by simp))
    all_goals exact hs.of_decoded (writeIgnition_decoded s)

theorem takeIgnitionOff_slotLaws : SlotLaws (takeIgnitionOff s) := by
  unfold takeIgnitionOff
  split
  · exact hs
  · have hwritten : SlotLaws (writeIgnition s) := hs.of_decoded (writeIgnition_decoded s)
    cases s.time.part with
    | homing | run => exact conclude_slotLaws (hs.of_decoded (by simp))
    | unconfigured | waking | standby => exact hwritten
    | sleep => exact hs

theorem resetSection_slotLaws (x : Section) : SlotLaws (resetSection x s) := by
  cases x with
  | intake => exact hs.of_decoded (by simp only [resetSection, State.resetIntake]; split <;> simp)
  | signals => exact resetSignals_slotLaws hs
  | speed => exact hs.of_decoded (by simp [resetSection, State.relearn])
  | gauges => exact hs.of_decoded (by simp [resetSection, State.resetGauges])
  | telltales => exact hs.of_decoded (resetTelltales_decoded s)
  | presentation => exact hs.of_decoded (resetPresentation_decoded s)
  | crew => exact hs.of_decoded (by simp [resetSection, resetCrewSection])
  | faults => exact hs.of_decoded ((publishSevere_decoded _).trans (decoded_of_same rfl rfl))

theorem requestReset_slotLaws (tag : Word16) (x : Section) : SlotLaws (requestReset tag x s) :=
  (resetSection_slotLaws hs x).of_decoded (reply_decoded ..)

end

/-! ### Entry writes -/

/-- Slots 122 to 125 are no decoded slots. -/
@[simp] theorem storeRemaining_decoded (s : State) : s.storeRemaining.decoded = s.decoded := by
  have hslot : ∀ k : Fin 120, s.storeRemaining.slot (decodedSlot k) = s.slot (decodedSlot k) := fun k =>
    storeRemaining_slot s _ (.inl (Nat.lt_trans k.isLt (by decide)))
  unfold State.decoded
  rw [funext hslot, storeRemaining_rest]

/-- A write of a Slot Config entry changes its own slot alone, which goes UNKNOWN (R31). -/
theorem slotChanged_config {i : Fin 120} {e : SlotConfig} (he : e.min.toInt ≤ e.max.toInt) (s : State) :
    SlotChanged i s { s with
      tables := { s.tables with slotConfig := s.tables.slotConfig.set i e }
      store := { slots := s.store.slots.set (decodedSlot i) { s.slot (decodedSlot i) with quality := .unknown, clamped := false }
                 hold := s.store.hold.set i none, stale := s.store.stale.set i none } } where
  own := by
    simp only [State.decoded, State.slot, Fin.getElem_fin, Vector.getElem_set_self]
    exact slotLawful_unusable he rfl
  others j hj := by
    have hne : i.val ≠ j.val := fun h => hj (Fin.ext h.symm)
    simp only [State.decoded, State.slot, Fin.getElem_fin, decodedSlot]
    exact ⟨Vector.getElem_set_ne _ _ hne, Vector.getElem_set_ne _ _ hne, Vector.getElem_set_ne _ _ hne⟩

theorem entryTaken_slotLaws {s u : State} {t : TableId} {k : Nat} {l : List Byte} {w : Written} (h : EntryTaken s t k l w u)
    (hg : entryGood t l = true) (hs : SlotLaws s) : SlotLaws u := by
  cases t with
  | slotConfig =>
    obtain ⟨i, e, -, he, rfl⟩ := h
    have hok : e.ok = true := any_of_some he hg
    simp only [SlotConfig.ok, Bool.and_eq_true, decide_eq_true_eq] at hok
    obtain ⟨⟨⟨hrange, -⟩, -⟩, -⟩ := hok
    exact ((slotChanged_config hrange s).slotLaws hs).of_decoded (decodedEvent_decoded ..)
  | intake => obtain ⟨i, e, -, -, rfl⟩ := h; exact hs.of_decoded rfl
  | map => obtain ⟨i, e, -, -, rfl⟩ := h; exact hs.of_decoded rfl
  | curve => obtain ⟨i, e, -, -, rfl⟩ := h; exact hs.of_decoded rfl
  | gauge => obtain ⟨i, e, -, -, rfl⟩ := h; exact hs.of_decoded rfl
  | telltale => obtain ⟨i, e, -, -, -, hr, -⟩ := h; exact hs.of_decoded (hr.decoded.trans rfl)
  | chime => obtain ⟨i, e, -, -, rfl⟩ := h; exact hs.of_decoded ((presented_choose _).decoded.trans rfl)
  | crewConfig => obtain ⟨e, -, -, -, hr⟩ := h; exact hs.of_decoded (hr.decoded.trans ((storeRemaining_decoded _).trans rfl))
  | systemConfig =>
    obtain ⟨e, v, -, -, rfl, hu⟩ := h
    split at hu
    · exact hs.of_decoded (hu.rest.decoded.trans rfl)
    · rw [hu]; exact hs.of_decoded rfl
  | faultPolicy => obtain ⟨i, e, -, -, -, hr⟩ := h; exact hs.of_decoded (hr.decoded.trans rfl)

theorem writeEntry_slotLaws {s u : State} {t : TableId} {k : Nat} {l : List Byte} {w : Written} (hk : k < t.size)
    (h : writeEntry t k l w s = .ok u) (hs : SlotLaws s) : SlotLaws u := by
  cases hg : entryGood t l with
  | false => rw [writeEntry_bad w s hk hg] at h; cases h
  | true =>
    obtain ⟨v, hv, htaken⟩ := writeEntry_good w s hk hg
    rw [hv] at h
    cases h
    exact entryTaken_slotLaws htaken hg hs

theorem loadEntry_slotLaws {table index : Byte} {entry : List Byte} {s u : State} (h : loadEntry table index entry s = .ok u)
    (hs : SlotLaws s) : SlotLaws u := by
  unfold loadEntry at h
  split at h
  · cases h
  · split at h
    · cases h
    · next hl =>
      split at h
      · cases h
      · exact writeEntry_slotLaws (lt_of_entryBytes hl) h hs

theorem namedField_write_slotLaws {f : NamedField} {value : Word32} {s u : State} (hf : f.index < f.table.size)
    (h : f.write value s = .ok u) (hs : SlotLaws s) : SlotLaws u := by
  unfold NamedField.write at h
  split at h
  · exact writeEntry_slotLaws hf h hs
  · cases h

theorem answerWrite_slotLaws {code : Byte} {tag : Word16} {r : Except ReplyStatus State} {s : State}
    (hr : ∀ u, r = .ok u → SlotLaws u) (hs : SlotLaws s) : SlotLaws (answerWrite code tag r s) := by
  cases r with
  | error e => exact hs.of_decoded (refuse_decoded ..)
  | ok u => exact (hr u rfl).of_decoded (reply_decoded ..)

/-! ### Requests, frames and transfers -/

section
variable {s : State} (hs : SlotLaws s)
include hs

theorem requestLoad_slotLaws (tag : Word16) (table index : Byte) (entry : List Byte) :
    SlotLaws (requestLoad tag table index entry s) := answerWrite_slotLaws (fun _ h => loadEntry_slotLaws h hs) hs

theorem requestSetField_slotLaws (tag : Word16) (table index field : Byte) (value : Word32) :
    SlotLaws (requestSetField tag table index field value s) := by
  refine answerWrite_slotLaws (fun u h => ?_) hs
  split at h
  · cases h
  · next hf => exact namedField_write_slotLaws (nameField_index hf) h hs

theorem serviceWrite_slotLaws {table index field : Byte} {value : Word32} {u : State}
    (h : serviceWrite table index field value s = .ok u) : SlotLaws u := by
  unfold serviceWrite at h
  split at h
  · cases h
  · next hf =>
    split at h
    · split at h
      · exact namedField_write_slotLaws (nameField_index hf) h hs
      · cases h
    · cases h

theorem serviceSetField_slotLaws (a : ReplyAddress) (table index field : Byte) (value : Word32) :
    SlotLaws (serviceSetField a table index field value s) := by
  unfold serviceSetField unlessBusy
  split
  · exact hs.of_decoded (raiseRefused_decoded ..)
  · dsimp only
    split
    · exact hs.of_decoded (refuseService_decoded ..)
    · next hw => exact (serviceWrite_slotLaws hs hw).of_decoded (placeReply_decoded ..)

theorem serviceFrame_slotLaws (a : ReplyAddress) (data : List Byte) : SlotLaws (serviceFrame a data s) := by
  unfold serviceFrame
  split
  case h_1 => exact serviceSetField_slotLaws hs ..
  all_goals exact hs.of_decoded (by simp)

theorem requestStart_slotLaws (tag : Word16) : SlotLaws (requestStart tag s) := hs.of_decoded (by simp [requestStart])

/-- The REPLY goes out before the warm start (R180). -/
theorem requestWarmReset_slotLaws (tag : Word16) : SlotLaws (requestWarmReset tag s) :=
  warmStart_slotLaws (hs.of_decoded (reply_decoded ..))

theorem dispatch_slotLaws (code : Byte) (tag : Word16) (args : List Byte) : SlotLaws (dispatch code tag args s) := by
  unfold dispatch
  split
  case h_1 => exact requestLoad_slotLaws hs ..
  case h_3 => exact requestSetField_slotLaws hs ..
  case h_7 =>
    split
    · exact hs.of_decoded (refuse_decoded ..)
    · exact requestReset_slotLaws hs ..
  case h_8 => exact requestStart_slotLaws hs _
  case h_9 => exact requestWarmReset_slotLaws hs _
  all_goals exact hs.of_decoded (by simp [requestRead, requestReadField, requestState])

theorem handlePayload_slotLaws (payload : List Byte) : SlotLaws (handlePayload payload s) := by
  unfold handlePayload
  split
  case h_1 => exact dispatch_slotLaws hs ..
  all_goals exact hs.of_decoded (refuse_decoded ..)

theorem handleUpstream_slotLaws (u : List Byte) : SlotLaws (handleUpstream u s) := by
  unfold handleUpstream
  split
  · split
    · exact hs
    · exact handlePayload_slotLaws hs _
  · exact hs.of_decoded (raise_decoded ..)

theorem transfer_slotLaws (u : List Byte) : SlotLaws (transfer u s) :=
  handleUpstream_slotLaws (hs.of_decoded (sendDownstream_decoded s)) u

theorem frameArrived_slotLaws (f : Frame) : SlotLaws (frameArrived f s) := by
  have hseen : SlotLaws (s.matchedFrame f.port) := hs.of_decoded (matchedFrame_decoded ..)
  unfold frameArrived actOnFrame
  split
  · exact hs
  · split
    · exact hs
    · dsimp only
      split
      · exact (runMapRange_slotLaws hseen f _ _).of_decoded (forwardFrame_decoded ..)
      · exact serviceFrame_slotLaws hseen _ _

end

/-! ### Every command -/

/-- Every decoded slot of a part at its cold start values is UNKNOWN, and no timer runs (R38). -/
theorem cold_slotLaws (keepAlive held raw : Bool) (n : Nat) (queue : List Instr) :
    SlotLaws (State.cold keepAlive held raw n queue) := by
  have hslot : ∀ k : Fin 120, (State.cold keepAlive held raw n queue).slot (decodedSlot k) = Slot.cold := by
    intro k
    have hk := k.isLt
    simp only [State.slot, State.cold, Store.cold, Fin.getElem_fin, decodedSlot]
    rw [Vector.getElem_set_ne _ _ (by omega), Vector.getElem_set_ne _ _ (by omega), Vector.getElem_set_ne _ _ (by omega),
      Vector.getElem_set_ne _ _ (by omega), Vector.getElem_set_ne _ _ (by omega), Vector.getElem_set_ne _ _ (by omega),
      Vector.getElem_set_ne _ _ (by omega), Vector.getElem_replicate]
  refine ⟨fun k => ?_, fun k hk => ?_, fun k hk => absurd ?_ hk⟩
  · have hconfig : (State.cold keepAlive held raw n queue).tables.slotConfig[k] = SlotConfig.cold := Vector.getElem_replicate _
    rw [hconfig]; decide
  · rw [hslot] at hk; cases hk
  · exact Vector.getElem_replicate _

section
variable {f : State → State} {s t : State}

theorem onAwake_slotLaws (h : onAwake f s = .next t) (hf : SlotLaws (f s)) (hs : SlotLaws s) : SlotLaws t := by
  cases h
  split
  · exact hf
  · exact hs

/-- A command of an awake part that leaves the decoded slots as they stand. -/
theorem onAwake_decoded (h : onAwake f s = .next t) (hf : (f s).decoded = s.decoded) (hs : SlotLaws s) : SlotLaws t :=
  onAwake_slotLaws h (hs.of_decoded hf) hs

/-- The same for one that acts only on a condition. -/
theorem onAwake_decoded_if {p : State → Bool} (h : onAwake (fun s => if p s = true then f s else s) s = .next t)
    (hf : (f s).decoded = s.decoded) (hs : SlotLaws s) : SlotLaws t := onAwake_decoded h (by split; exacts [hf, rfl]) hs

end

/-- Every command keeps the slots' laws: the updates, expiries and resets of slots and the writes of their entries one by one, every
other command because the decoded slots stand. -/
theorem exec_slotLaws {c : Instr} {s t : State} (h : exec c s = .next t) (hs : SlotLaws s) : SlotLaws t := by
  unfold exec at h
  cases c with
  | coldStart => cases h; exact (cold_slotLaws ..).of_decoded (raiseItem_decoded ..)
  | keepAliveRemoval => cases h; exact cold_slotLaws ..
  | resetInputAssert => cases h; exact hs.of_decoded (decoded_of_same rfl rfl)
  | resetInputRelease =>
    have hreleased : SlotLaws { s with resetHeld := false } := hs.of_decoded (decoded_of_same rfl rfl)
    cases h
    split
    · split
      · exact warmStart_slotLaws hreleased
      · exact hreleased
    · exact hs
  | ignitionSenseChange level => cases h; split <;> exact hs.of_decoded (decoded_of_same rfl rfl)
  | ignitionOn => cases h; split; exacts [takeIgnitionOn_slotLaws (hs.of_decoded (setIgnition_decoded s _)), hs]
  | ignitionOff => cases h; split; exacts [takeIgnitionOff_slotLaws (hs.of_decoded (setIgnition_decoded s _)), hs]
  | portBFrameStart => cases h; split; exacts [hs.of_decoded (wakingEntry_decoded s), hs]
  | monotonicAdvance =>
    cases h
    split
    · split
      · exact hs.of_decoded ((accountingTick_decoded _).trans (decoded_of_same rfl rfl))
      · exact hs.of_decoded (decoded_of_same rfl rfl)
    · exact hs
  | linkTransfer u =>
    cases h
    split
    · split
      · exact conclude_slotLaws (transfer_slotLaws hs u)
      · exact hs.of_decoded (setSent_decoded s _)
    · exact hs
  | frameArrival f => exact onAwake_slotLaws h (conclude_slotLaws (frameArrived_slotLaws hs f)) hs
  | load tag table index entry => exact onAwake_slotLaws h (conclude_slotLaws (requestLoad_slotLaws hs ..)) hs
  | setField tag table index field value => exact onAwake_slotLaws h (conclude_slotLaws (requestSetField_slotLaws hs ..)) hs
  | serviceSetField a table index field value => exact onAwake_slotLaws h (serviceSetField_slotLaws hs ..) hs
  | start tag => exact onAwake_slotLaws h (conclude_slotLaws (requestStart_slotLaws hs tag)) hs
  | warmReset tag => exact onAwake_slotLaws h (requestWarmReset_slotLaws hs tag) hs
  | holdExpiry k =>
    refine onAwake_slotLaws h ?_ hs
    split
    · next hdue => exact goHeld_slotLaws hs k (beq_iff_eq.1 hdue)
    · exact hs
  | staleExpiry k => exact onAwake_slotLaws h (by split; exacts [goStale_slotLaws hs k, hs]) hs
  | msCounterAdvance => exact onAwake_slotLaws h (advanceMs_slotLaws hs) hs
  | intakeSectionReset tag => exact onAwake_slotLaws h (requestReset_slotLaws hs ..) hs
  | signalsSectionReset tag => exact onAwake_slotLaws h (requestReset_slotLaws hs ..) hs
  | speedSectionReset tag => exact onAwake_slotLaws h (requestReset_slotLaws hs ..) hs
  | gaugesSectionReset tag => exact onAwake_slotLaws h (conclude_slotLaws (requestReset_slotLaws hs ..)) hs
  | telltalesSectionReset tag => exact onAwake_slotLaws h (requestReset_slotLaws hs ..) hs
  | presentationSectionReset tag => exact onAwake_slotLaws h (requestReset_slotLaws hs ..) hs
  | crewSectionReset tag => exact onAwake_slotLaws h (requestReset_slotLaws hs ..) hs
  | faultsSectionReset tag => exact onAwake_slotLaws h (requestReset_slotLaws hs ..) hs
  | filterTick =>
    refine onAwake_slotLaws h ?_ hs
    split
    · exact conclude_slotLaws (hs.of_decoded (by simp))
    · exact hs
  | stallReport ch => exact onAwake_slotLaws h (conclude_slotLaws (hs.of_decoded (stallReported_decoded ch s))) hs
  | bulbCheckExpiry =>
    refine onAwake_slotLaws h ?_ hs
    split
    · exact conclude_slotLaws (hs.of_decoded (by simp))
    · exact hs
  | settleExpiry =>
    refine onAwake_slotLaws h ?_ hs
    split
    · exact conclude_slotLaws (hs.of_decoded (enterByLevel_decoded s))
    · exact hs
  | quietExpiry =>
    refine onAwake_slotLaws h ?_ hs
    split
    · exact conclude_slotLaws (hs.of_decoded (setQuiet_decoded s _))
    · exact hs
  | read tag table index => exact onAwake_decoded h (answerRead_decoded ..) hs
  | readField tag table index field => exact onAwake_decoded h (answerRead_decoded ..) hs
  | state tag target index => exact onAwake_decoded h (answerRead_decoded ..) hs
  | clearFaults tag classes => exact onAwake_decoded h (requestClearFaults_decoded ..) hs
  | serviceReadField a table index field => exact onAwake_decoded h (serviceReadField_decoded ..) hs
  | serviceClearFaults a classes => exact onAwake_decoded h (serviceClearFaults_decoded ..) hs
  | readFaults a => exact onAwake_decoded h (serviceReadFaults_decoded ..) hs
  | silenceExpiry p => exact onAwake_decoded_if h (silenceExpired_decoded ..) hs
  | plausibilityTick => exact onAwake_decoded_if h (plausibilityTicked_decoded _) hs
  | onDebounceExpiry i => exact onAwake_decoded_if h (whole_decoded (fun s => (moving_presented i).telltaleOn s) s) hs
  | offDebounceExpiry i => exact onAwake_decoded_if h (whole_decoded (fun s => (moving_presented i).telltaleFallen s) s) hs
  | lampNoCurrent ch => exact onAwake_decoded_if h (lampFails_decoded ..) hs
  | lampCurrentPresent ch => exact onAwake_decoded_if h (setLamp_decoded ..) hs
  | lampOverCurrent ch => exact onAwake_decoded_if h (lampFails_decoded ..) hs
  | chimeOnExpiry => exact onAwake_decoded h (chimeOnEnds_decoded _) hs
  | chimeOffExpiry => exact onAwake_decoded h (chimeOffEnds_decoded _) hs
  | chimeNoCurrent => exact onAwake_decoded h (chimeFails_decoded _) hs
  | chimeCurrentPresent => exact onAwake_decoded h (chimeRecovers_decoded _) hs
  | replyFrameSend => exact onAwake_decoded h (sendReply_decoded _) hs
  | replyFrameSent => exact onAwake_decoded h (replySent_decoded _) hs
  | replyFrameNotSent => exact onAwake_decoded h (replyNotSent_decoded _) hs
  | replyExpiry place => exact onAwake_decoded h (replyExpired_decoded ..) hs

/-- Settles O57: an idle step changes nothing, and a command keeps the laws by `exec_slotLaws`. -/
theorem stepsKeepTheSlotLaws : Obligations.StepsKeepTheSlotLaws := by
  intro s t hs h
  unfold step at h
  split at h
  · cases h; exact hs
  · exact exec_slotLaws h (hs.of_decoded (decoded_of_same rfl rfl))

end Sys2Proof.Machine
end

section
/-! PROOFS. The reset input, the ignition events, the wakes and the accounting tick (R125, R134, R149 to R154, R162). -/

namespace Sys2Proof.Machine

/-! ### The reset input (R162) -/

theorem outputs_unawake {s : State} (h : s.awake = false) : s.ready = false ∧ s.chimeOutput = none ∧
    (∀ ch, s.lampOutput ch = false) ∧ ∀ ch, s.motorDriven ch = false := by
  simp [State.ready, State.chimeOutput, State.lampOutput, State.lampDriven, State.motorDriven, h]

theorem awake_held {s : State} (h : s.resetHeld = true) : s.awake = false := by simp [State.awake, h]

theorem exec_resetInputRelease_held {s : State} (hh : s.resetHeld = true) (hk : s.keepAlive = true) :
    exec .resetInputRelease s = .next (State.warmStart { s with resetHeld := false }) := by
  simp [exec, execResetInputRelease, hh, hk]

/-- Settles O6: the outputs of a part that is not awake, and `warmStart_spec`. -/
theorem resetInputHoldsThePartAndWarmStarts : Obligations.ResetInputHoldsThePartAndWarmStarts := by
  refine ⟨fun s => ?_, fun s => ⟨fun hh hk => ?_, fun hh hk => ?_, fun hh => ?_⟩, fun tag s hs => ?_⟩
  · exact ⟨_, rfl, rfl, outputs_unawake (awake_held rfl)⟩
  · exact ⟨_, exec_resetInputRelease_held hh hk, warmStart_spec { s with resetHeld := false }⟩
  · simp [exec, execResetInputRelease, hh, hk]
  · simp [exec, execResetInputRelease, hh]
  · have hpart : (reply 9 tag .ok [] s).time.part ≠ .sleep := by
      have hawake : ¬ s.time.part = .sleep := by simp [State.awake] at hs; exact hs.2
      rw [reply, (reacted_offer _ s).time]
      exact hawake
    have hwarm := warmStart_spec (reply 9 tag .ok [] s)
    rw [if_neg hpart] at hwarm
    exact ⟨_, _, onAwake_of_awake hs, offer_spec _ s, hwarm⟩

/-! ### The ignition (R149 to R151) -/

theorem awake_iff (s : State) : s.awake = true ↔ s.keepAlive = true ∧ s.resetHeld = false ∧ s.time.part ≠ .sleep := by
  simp [State.awake, and_assoc]

theorem filterDue_iff (s : State) (level : Bool) :
    s.filterDue level = true ↔ s.keepAlive = true ∧ s.time.ignitionFilter = true ∧ s.rawIgnition = level := by
  simp [State.filterDue, and_assoc]

theorem exec_ignitionOn (s : State) :
    exec .ignitionOn s = .next (if s.filterDue true = true then takeIgnitionOn (s.ignitionTaken true) else s) := rfl

theorem exec_ignitionOff (s : State) :
    exec .ignitionOff s = .next (if s.filterDue false = true then takeIgnitionOff (s.ignitionTaken false) else s) := rfl

theorem takeIgnitionOn_stays {s : State} (hh : s.resetHeld = false)
    (hp : s.time.part ∈ [PartState.unconfigured, .waking, .homing, .run]) : takeIgnitionOn s = writeIgnition s := by
  unfold takeIgnitionOn
  cases h : s.time.part <;> simp_all

theorem takeIgnitionOff_stays {s : State} (hh : s.resetHeld = false)
    (hp : s.time.part ∈ [PartState.unconfigured, .waking, .standby]) : takeIgnitionOff s = writeIgnition s := by
  unfold takeIgnitionOff
  cases h : s.time.part <;> simp_all

theorem writeIgnition_reacted (s : State) : Reacted s.ignitionWritten (writeIgnition s) :=
  reacted_writeDerived 126 (by decide) s.ignitionContent s

/-- Settles O7: an ignition event acts only when the filter is due, and writes slot 126 alone where no move is due. -/
theorem ignitionFilterAndEventsWithoutAMove : Obligations.IgnitionFilterAndEventsWithoutAMove := by
  refine ⟨⟨fun level s hk => ?_, fun level s hk => ?_, fun s h => ?_, fun s h => ?_⟩,
    fun s hs hfilter => ⟨fun hr hp => ?_, fun hr hp => ?_⟩⟩
  · have hdiffer : (level != s.time.filteredIgnition) = decide (level ≠ s.time.filteredIgnition) := by
      cases level <;> cases s.time.filteredIgnition <;> rfl
    simp only [exec, execIgnitionSenseChange, hk, if_true, hdiffer]
  · simp [exec, execIgnitionSenseChange, hk]
  · rw [exec_ignitionOn, if_neg fun g => h ((filterDue_iff s true).1 g)]
  · rw [exec_ignitionOff, if_neg fun g => h ((filterDue_iff s false).1 g)]
  · obtain ⟨hk, hh, -⟩ := (awake_iff s).1 hs
    refine ⟨writeIgnition (s.ignitionTaken true), ?_, writeIgnition_told _, writeIgnition_reacted _⟩
    rw [exec_ignitionOn, if_pos ((filterDue_iff s true).2 ⟨hk, hfilter, hr⟩),
      takeIgnitionOn_stays (s := s.ignitionTaken true) hh hp]
  · obtain ⟨hk, hh, -⟩ := (awake_iff s).1 hs
    refine ⟨writeIgnition (s.ignitionTaken false), ?_, writeIgnition_told _, writeIgnition_reacted _⟩
    rw [exec_ignitionOff, if_pos ((filterDue_iff s false).2 ⟨hk, hfilter, hr⟩),
      takeIgnitionOff_stays (s := s.ignitionTaken false) hh hp]

/-! ### Wakes (R134, R153, R154) -/

/-- `s` with a settle interval. -/
def State.withSettle (s : State) (x : Timer) : State := { s with time := { s.time with settle := x } }

theorem Reacted.withSettle {s t : State} (h : Reacted s t) (x : Timer) : Reacted (s.withSettle x) (t.withSettle x) :=
  { h with time := by unfold State.withSettle; rw [h.time] }

/-- A sleeping part as its wake credit leaves it, in WAKING (R134, R153). -/
def State.awoken (s : State) : State := State.creditCrew { s with time := { s.time with part := .waking } } s.sleepGap

theorem wakingValues_eq (s : State) :
    s.wakingValues = s.awoken.storeRemaining.ignitionWritten.withSettle (some (max 1 s.tables.system.wakeSettle)) := rfl

theorem wakingEntry_eq (s : State) :
    wakingEntry s = (writeIgnition (writeRemaining s.awoken)).withSettle (some (max 1 s.tables.system.wakeSettle)) := by
  have htables : (writeIgnition (writeRemaining s.awoken)).tables = s.tables := by simp [State.awoken, State.creditCrew]
  have hsettle : ∀ x : State, x.tables = s.tables → x.startSettle = x.withSettle (some (max 1 s.tables.system.wakeSettle)) :=
    fun x hx => by rw [← hx]; rfl
  exact hsettle _ htables

theorem Reacted.ignitionWritten {s t : State} (h : Reacted s t) : Reacted s.ignitionWritten t.ignitionWritten := by
  unfold State.ignitionWritten
  rw [h.time]
  exact h.setSlot 126 _

/-- WAKING entry as the readers of slots 122 to 126 leave it (R134, R139, R150, R154). -/
theorem wakingEntry_entered (s : State) : WakingEntered s (wakingEntry s) := by
  refine ⟨?_, wakingEntry_told s⟩
  rw [wakingValues_eq, wakingEntry_eq]
  exact ((writeRemaining_reacted s.awoken).ignitionWritten.trans (writeIgnition_reacted _)).withSettle _

/-- Settles O9 by `wakingEntry_entered`. -/
theorem wakeEventsEnterWaking : Obligations.WakeEventsEnterWaking := by
  refine ⟨fun s hk hh hp => ⟨⟨_, ?_, wakingEntry_entered s⟩,
    fun hfilter hr => ⟨_, ?_, wakingEntry_entered _⟩⟩, fun s hp => ?_⟩
  · simp [exec, execPortBFrameStart, hk, hh, hp]
  · have hsleep : (s.ignitionTaken true).time.part = .sleep := hp
    have hreleased : (s.ignitionTaken true).resetHeld = false := hh
    rw [exec_ignitionOn, if_pos ((filterDue_iff s true).2 ⟨hk, hfilter, hr⟩)]
    simp [takeIgnitionOn, hreleased, hsleep]
  · simp [exec, execPortBFrameStart, hp]

/-! ### The accounting tick (R125, R139, R142) -/

/-- The accrued crew of an accounting tick, before its slots are written (R125 to R128). -/
def State.accrued (s : State) : State := { s.secondPassed with crew := s.crew.accrue s.tables.crew (s.time.mono + 1) }

theorem accrue_counter (c : Crew) (cfg : CrewConfig) (now : Word32) : (c.accrue cfg now).snapshotCounter = c.snapshotCounter := by
  unfold Crew.accrue Crew.removeExpired
  exact (crew_updateAttached_counter ..).trans (crew_updateAttached_counter ..)

theorem accountingTick_eq (s : State) : accountingTick s.advanceSeconds = advanceSnapshot (writeRemaining s.accrued) := rfl

/-- The end of an accounting tick, with the interval and the counter that it finds (R142). -/
theorem advanceSnapshot_spec {w : State} {interval counter : Nat} (hi : w.tables.crew.snapshotInterval = interval)
    (hc : w.crew.snapshotCounter = counter) : ∃ x,
    (if interval = 0 ∨ counter + 1 < interval then x = w else Offered w w.snapshot x) ∧
    advanceSnapshot w = { x with crew := { x.crew with snapshotCounter :=
      if counter + 1 < interval then counter + 1 else 0 } } := by
  unfold advanceSnapshot
  rw [hi, hc]
  by_cases h₀ : interval = 0
  · refine ⟨w, by rw [if_pos (.inl h₀)], ?_⟩
    rw [if_pos h₀, if_neg (by omega)]; rfl
  by_cases h₁ : interval ≤ counter + 1
  · refine ⟨offerSnapshot w, ?_, ?_⟩
    · rw [if_neg (by omega)]; exact offer_spec _ w
    · rw [if_neg h₀, if_pos h₁, if_neg (by omega)]; rfl
  · refine ⟨w, ?_, ?_⟩
    · rw [if_pos (by omega)]
    · rw [if_neg h₀, if_neg h₁, if_pos (by omega)]; rfl

/-- Settles O13: slots 122 to 125 from the accrued crew, then `advanceSnapshot_spec`. -/
theorem monotonicAdvanceAccounts : Obligations.MonotonicAdvanceAccounts := by
  intro s hs
  obtain ⟨hk, -, hsleep⟩ := (awake_iff s).1 hs
  refine ⟨fun hp => ?_, fun hp => ?_⟩
  · simp only [exec, execMonotonicAdvance, hk, hs, hp, PartState.accounts]
    rfl
  · have haccounts : s.time.part.accounts = true := by
      cases h : s.time.part <;> simp_all [PartState.accounts]
    have hrun : exec .monotonicAdvance s = .next (advanceSnapshot (writeRemaining s.accrued)) := by
      rw [← accountingTick_eq]
      simp [exec, execMonotonicAdvance, hk, hs, haccounts]
    have hreacted : Reacted s.accrued.storeRemaining (writeRemaining s.accrued) := writeRemaining_reacted _
    have hinterval : (writeRemaining s.accrued).tables.crew.snapshotInterval = s.tables.crew.snapshotInterval := by
      rw [writeRemaining_tables]; rfl
    have hcounter : (writeRemaining s.accrued).crew.snapshotCounter = s.crew.snapshotCounter := by
      rw [hreacted.crew, storeRemaining_crew]; exact accrue_counter ..
    obtain ⟨x, hx, ht⟩ := advanceSnapshot_spec hinterval hcounter
    exact ⟨_, x, _, hrun, writeRemaining_told _, hreacted, hx, ht⟩

end Sys2Proof.Machine
end

section
/-! PROOFS. Cold start: the state it gives and the laws that state meets (R38, R161, R172). -/

namespace Sys2Proof.Machine

/-! ### An event that nothing reads -/

/-- With no channel in HOMING or TRACKING and no other reader an event of a derived slot changes nothing (R18, R57). -/
theorem derivedEvent_unread {publish : State → State} {k : Fin 128} {s : State}
    (hg : ∀ ch : Fin 6, (s.gauges.channels[ch]).state.follows = false) (hr : ∀ r, ¬ s.derivedReader k r) :
    derivedEvent publish k s = s := by
  have hgauges : s.gaugesObserve k = s := by
    unfold State.gaugesObserve
    generalize List.finRange 6 = l
    induction l with
    | nil => rfl
    | cons ch l ih => rw [List.foldl_cons, hg ch]; exact ih
  have hreaders : s.derivedReaders k = [] :=
    List.eq_nil_iff_forall_not_mem.2 fun r h => hr r ((mem_derivedReaders s k r).1 h)
  rw [derivedEvent, hgauges, hreaders]
  rfl

/-! ### TIME_LOST at cold start (R172) -/

section
variable (held raw : Bool) (n : Nat) (queue : List Instr)

/-- A part at its cold start values, with its first occurrence recorded and its NOTICE queued (R161, R172). -/
def State.timeLost : State :=
  { State.cold true held raw n queue with
    faults := { status := Faults.statusTimeLost, capture := some ⟨.timeLost, .item 0, .cold⟩, overflow := false },
    link := { egress := [.notice .timeLost (.item 0) .cold Faults.statusTimeLost false], sent := none } }

/-- TIME_LOST is ADVISORY at cold start, so slot 127 counts none (R164, R169). -/
theorem timeLost_severeCount : (State.timeLost held raw n queue).severeCount = 0 :=
  calc (State.timeLost held raw n queue).severeCount
    _ = (State.timeLost false false 0 []).severeCount := severeCount_congr rfl rfl
    _ = 0 := by decide

theorem timeLost_unread (r : Reader) (x : Slot) : ¬ ((State.timeLost held raw n queue).setSlot 127 x).derivedReader 127 r := by
  cases r with
  | telltales =>
    rintro ⟨i, hi, -⟩
    have hcold : (Tables.cold.telltale[i]).valid = false := by
      rw [show Tables.cold.telltale[i] = TelltaleEntry.cold from Vector.getElem_replicate _]; rfl
    exact absurd (hi.symm.trans hcold) (by decide)
  | ack => exact fun h : (none : Option (Fin 128)) = some 127 => by cases h
  | road => exact fun h => absurd h.1 (by decide)
  | speed | activity | token | tally | time => exact id

theorem timeLost_published : publishSevere (State.timeLost held raw n queue) =
    (State.timeLost held raw n queue).setSlot 127 (.writtenZero .fresh) := by
  have hstored : (State.timeLost held raw n queue).storeSevere =
      (State.timeLost held raw n queue).setSlot 127 (.writtenZero .fresh) := by
    rw [State.storeSevere, timeLost_severeCount]; rfl
  have hchannels : ∀ ch : Fin 6,
      (((State.timeLost held raw n queue).setSlot 127 (.writtenZero .fresh)).gauges.channels[ch]).state.follows = false := by
    intro ch
    rw [show ((State.timeLost held raw n queue).setSlot 127 (.writtenZero .fresh)).gauges.channels[ch] = Channel.cold from
      Vector.getElem_replicate _]
    rfl
  rw [publishSevere, Config.publishDepth, publish, hstored]
  exact derivedEvent_unread hchannels (timeLost_unread held raw n queue · _)

theorem raise_timeLost : raiseItem .timeLost 0 (State.cold true held raw n queue) =
    (State.timeLost held raw n queue).setSlot 127 (.writtenZero .fresh) := by
  rw [← timeLost_published]
  exact occur_noticed (n := 2) rfl rfl (by decide : ([] : List EgressRecord).length < 32)

end

/-! ### The laws of the reset state -/

theorem exec_coldStart (s : State) : exec .coldStart s = .next { State.reset with
    resetHeld := s.resetHeld, rawIgnition := s.rawIgnition, choices := s.choices, pending := s.pending
    time := { State.reset.time with ignitionFilter := s.rawIgnition } } :=
  congrArg Host.Outcome.next (raise_timeLost s.resetHeld s.rawIgnition s.choices s.pending)

theorem reset_slot (k : Fin 120) : State.reset.slot (decodedSlot k) = ⟨0, .unknown, false, 65535⟩ := by
  have hk := k.isLt
  simp only [State.slot, State.reset, Store.cold, Fin.getElem_fin, decodedSlot]
  rw [Vector.getElem_set_ne _ _ (by omega), Vector.getElem_set_ne _ _ (by omega), Vector.getElem_set_ne _ _ (by omega),
    Vector.getElem_set_ne _ _ (by omega), Vector.getElem_set_ne _ _ (by omega), Vector.getElem_set_ne _ _ (by omega),
    Vector.getElem_set_ne _ _ (by omega), Vector.getElem_set_ne _ _ (by omega), Vector.getElem_replicate]
  rfl

theorem reset_queueLaws : QueueLaws State.reset where
  egress := by decide
  forward := by decide
  replies := by decide
  lifetime _ h := by cases h

theorem reset_faultLaws : FaultLaws State.reset where
  captured k h := by cases h; decide
  overflow h := by cases h
  severe := by decide

theorem reset_placeLaws : PlaceLaws State.reset.messages where
  once := by decide
  rising := by decide
  below _ h := by cases h
  emptyStack _ := rfl
  emptyRing _ := rfl
  stackBound := by decide
  ringBound := by decide

theorem reset_record (i : Fin 64) : State.reset.telltales.records[i] = Telltale.cold := Vector.getElem_replicate _

theorem reset_messageLaws : MessageLaws State.reset where
  places := reset_placeLaws
  held i := ⟨fun ⟨_, h, _⟩ => (by cases h), fun h => absurd (by rw [reset_record]; rfl) h⟩
  shown i h := absurd (by rw [reset_record]; rfl) h

theorem reset_place (p : Fin 4) : State.reset.crew.places[p] = none := Vector.getElem_replicate _

theorem reset_crewLaws : CrewLaws State.reset where
  token p r h := by rw [reset_place] at h; cases h
  distinct p q r x h := by rw [reset_place] at h; cases h
  attached p q r x y h := by rw [reset_place] at h; cases h
  counters p r h := by rw [reset_place] at h; cases h

theorem reset_channel (ch : Fin 6) : State.reset.gauges.channels[ch] = Channel.cold := Vector.getElem_replicate _

theorem reset_gaugeLaws : GaugeLaws State.reset where
  position ch := by rw [reset_channel]; exact Nat.zero_le _
  target ch _ := by rw [reset_channel]; exact Nat.zero_le _
  filter ch _ := by rw [reset_channel]; exact Nat.zero_le _

theorem reset_speedLaws : SpeedLaws State.reset where
  count := by decide
  learning _ := by decide
  agree h := by cases h

theorem reset_settled : Settled State.reset where
  homing h := by cases h
  standby h := by cases h

/-- The reset state comes by a cold start, which keeps the slots' laws (`exec_slotLaws`). -/
theorem reset_slotLaws : SlotLaws State.reset :=
  exec_slotLaws (exec_coldStart (State.cold true false false 0 [])) (cold_slotLaws ..)

/-- Settles O3: the one occurrence of a cold start finds no reader, and each law is read off the values. -/
theorem coldStartGivesTheResetStateWhichIsLawful : Obligations.ColdStartGivesTheResetStateWhichIsLawful :=
  ⟨⟨exec_coldStart, rfl, reset_slot, by decide, rfl, by decide, rfl⟩,
    cold_ok, reset_queueLaws, reset_faultLaws, reset_messageLaws, reset_crewLaws, reset_slotLaws, reset_gaugeLaws,
    reset_speedLaws, reset_settled⟩

end Sys2Proof.Machine
end

section
/-! PROOFS. Hold and stale expiries (R32, R33) and tally updates (R137). -/

namespace Sys2Proof.Machine

/-! ### Hold and stale expiries (R32, R33) -/

/-- A slot as an expiry ages it: its quality and its stale timer, the hold timer stopped (R32, R33). -/
def State.aged (s : State) (k : Fin 120) (q : Quality) (stale : Timer) : State :=
  { s with store :=
    { slots := s.store.slots.set (decodedSlot k) { s.slot (decodedSlot k) with quality := q }
      hold := s.store.hold.set k none, stale := s.store.stale.set k stale } }

/-- A slot that goes STALE: its event first, then SIGNAL_STALE when it is watched (R33; log entry 35). -/
theorem goStale_spec (k : Fin 120) (s : State) : ∃ u, u = decodedEvent .quality k (s.aged k .stale none) ∧
    Observed (s.aged k .stale none) u ∧
    if (s.tables.slotConfig[k]).watch = true then Raised u .signalStale (.item (BitVec.ofNat 8 k.val)) (goStale k s)
    else goStale k s = u := by
  refine ⟨_, rfl, observed_decodedEvent .., ?_⟩
  unfold goStale
  dsimp only
  split
  · exact raise_spec ..
  · rfl

theorem goHeld_both {k : Fin 120} {s : State}
    (h : (s.tables.slotConfig[k]).staleTime ≠ 0 ∧ (s.tables.slotConfig[k]).staleTime = (s.tables.slotConfig[k]).holdTime) :
    goHeld k s = goStale k s := if_pos h

theorem goHeld_alone {k : Fin 120} {s : State}
    (h : ¬ ((s.tables.slotConfig[k]).staleTime ≠ 0 ∧ (s.tables.slotConfig[k]).staleTime = (s.tables.slotConfig[k]).holdTime)) :
    goHeld k s = decodedEvent .quality k (s.aged k .held s.store.stale[k]) := if_neg h

theorem exec_holdExpiry {k : Fin 120} {s : State} (hs : s.awake = true) :
    exec (.holdExpiry k) s = .next (if s.store.hold[k] = some 0 then goHeld k s else s) := by
  simp [exec, execHoldExpiry, onAwake_of_awake hs]

theorem exec_staleExpiry {k : Fin 120} {s : State} (hs : s.awake = true) :
    exec (.staleExpiry k) s = .next (if s.store.stale[k] = some 0 then goStale k s else s) := by
  simp [exec, execStaleExpiry, onAwake_of_awake hs]

/-- Settles O20: an expiry that is due ages its slot by `goStale_spec`, or to HELD. -/
theorem holdAndStaleExpiriesAgeASlot : Obligations.HoldAndStaleExpiriesAgeASlot := by
  intro k s hs
  refine ⟨fun hdue => ⟨goHeld k s, by rw [exec_holdExpiry hs, if_pos hdue], ?_⟩,
    fun hdue => ⟨goStale k s, by rw [exec_staleExpiry hs, if_pos hdue], goStale_spec k s⟩,
    fun hdue => by rw [exec_holdExpiry hs, if_neg hdue], fun hdue => by rw [exec_staleExpiry hs, if_neg hdue]⟩
  split
  · next h => rw [goHeld_both h]; exact goStale_spec k s
  · next h => rw [goHeld_alone h]; exact ⟨rfl, observed_decodedEvent ..⟩

/-! ### Tally updates (R137) -/

/-- R121 leaves one place for a position's record. -/
theorem CrewLaws.attachedPlace {s : State} (h : CrewLaws s) {p : Fin 4} {r : CrewRecord} {x : CrewPosition}
    (hp : s.crew.places[p] = some r) (hr : r.place = .attached x) : s.crew.attachedPlace x = some p :=
  attachedPlace_first hp hr fun q y hq hy hplace => absurd (h.attached q p y r x hy hp hplace hr) (Fin.ne_of_lt hq)

theorem updateAttached_place {c : Crew} {x : CrewPosition} {p : Fin 4} {r : CrewRecord} (h : c.attachedPlace x = some p)
    (hp : c.places[p] = some r) (f : CrewRecord → CrewRecord) :
    c.updateAttached x f = { c with places := c.places.set p (some (f r)) } := by
  unfold Crew.updateAttached
  rw [h]
  dsimp only [Crew.setPlace]
  rw [hp]
  rfl

theorem attached_place {c : Crew} {x : CrewPosition} {p : Fin 4} {r : CrewRecord} (h : c.attachedPlace x = some p)
    (hp : c.places[p] = some r) : c.attached x = some r := by
  unfold Crew.attached; rw [h]; exact hp

theorem adopts_iff (cfg : CrewConfig) (k : TallyCounter) (t : Nat) (r : CrewRecord) : r.adopts cfg k t = true ↔
    r.counter k + cfg.tallyTolerance < t ∨ t + cfg.tallyTolerance < r.counter k := by
  simp only [CrewRecord.adopts, decide_eq_true_eq]
  omega

/-- The record that a tally update leaves, field by field (R137, steps 2 to 4). -/
theorem tally_eq (cfg : CrewConfig) (k : TallyCounter) (t : Nat) (r : CrewRecord) :
    let adopts := r.counter k + cfg.tallyTolerance < t ∨ t + cfg.tallyTolerance < r.counter k
    let daily := if adopts ∧ k = .daily then t else r.daily
    let continuous := if adopts ∧ k = .continuous then t else r.continuous
    let contSeen := decide (k = .continuous) || r.contSeen
    let daySeen := decide (k = .daily) || r.daySeen
    r.tally cfg k t = { r with
      daily := daily, continuous := if adopts then min continuous daily else continuous
      contSeen := contSeen, daySeen := daySeen, provisional := r.provisional && !(contSeen && daySeen) } := by
  have hseen : ∀ x : CrewRecord, x.markSeen k = { x with
      contSeen := decide (k = .continuous) || x.contSeen, daySeen := decide (k = .daily) || x.daySeen
      provisional := x.provisional && !((decide (k = .continuous) || x.contSeen) && (decide (k = .daily) || x.daySeen)) } := by
    intro x
    cases k <;> cases hc : x.contSeen <;> cases hd : x.daySeen <;> simp [CrewRecord.markSeen, hc, hd]
  dsimp only
  unfold CrewRecord.tally
  rw [hseen]
  by_cases h : r.counter k + cfg.tallyTolerance < t ∨ t + cfg.tallyTolerance < r.counter k
  · rw [if_pos ((adopts_iff cfg k t r).2 h)]
    cases k <;> simp [CrewRecord.adopt, h]
  · rw [if_neg fun g => h ((adopts_iff cfg k t r).1 g)]
    simp [h]

/-- A tally update of an attached record, its place known (R136, R137). -/
theorem tallyEvent_attached {s : State} {x : CrewPosition} {p : Fin 4} {r : CrewRecord} (h : s.crew.attachedPlace x = some p)
    (hp : s.crew.places[p] = some r) (k : TallyCounter) (m : Word32) :
    let t := tallySeconds m
    let u := { s with crew := { s.crew with places := s.crew.places.set p (some (r.tally s.tables.crew k t)) } }
    tallyEvent x k m s =
      if r.adopts s.tables.crew k t = true then
        writeRemaining (if r.provisional = true then u else raise .tallyMismatch (.tally x k (r.counter k) t) u)
      else u := by
  dsimp only
  unfold tallyEvent
  rw [attached_place h hp]
  dsimp only
  rw [updateAttached_place h hp]
  rfl

/-- Settles O35 by `tally_eq`; an adoption writes slots 122 to 125, after TALLY_MISMATCH for a record that was confirmed. -/
theorem tallyUpdatesConfirmOrReplaceACounter : Obligations.TallyUpdatesConfirmOrReplaceACounter := by
  intro s x k m p r hlaws hp hr
  have hevent := tallyEvent_attached (hlaws.attachedPlace hp hr) hp k m
  have hadopts := adopts_iff s.tables.crew k (tallySeconds m) r
  dsimp only at hevent
  rw [tally_eq] at hevent
  refine ⟨fun h => ?_, fun h hprovisional => ?_, fun h hprovisional => ?_⟩
  · rw [if_neg fun g => h (hadopts.1 g)] at hevent
    exact hevent
  · rw [if_pos (hadopts.2 h), if_pos hprovisional] at hevent
    rw [hevent]
    exact ⟨writeRemaining_told _, writeRemaining_reacted _⟩
  · rw [if_pos (hadopts.2 h), if_neg (by simp [hprovisional])] at hevent
    rw [hevent]
    exact ⟨_, raise_spec .., writeRemaining_told _, writeRemaining_reacted _⟩

end Sys2Proof.Machine
end

section
/-! PROOFS. How a map entry reads a frame and forms a value (R21 to R28). -/

namespace Sys2Proof.Machine

/-! ### Short frames (R21) -/

/-- The selectors in use are the first ones of the four places (R19). -/
theorem mem_gather_iff (e : MapEntry) (x : Fin 8) :
    x ∈ e.gather ↔ ∃ j : Fin 4, j.val < e.gatherCount ∧ e.selectors[j] = x := by
  unfold MapEntry.gather
  rw [List.mem_take_iff_getElem]
  constructor
  · rintro ⟨j, hj, rfl⟩
    have hlen : e.selectors.toList.length = 4 := by simp
    exact ⟨⟨j, by omega⟩, by simp; omega, by simp⟩
  · rintro ⟨j, hj, rfl⟩
    exact ⟨j.val, by simp; omega, by simp⟩

theorem short_iff (e : MapEntry) (data : List Byte) :
    e.short data = true ↔ ∃ j : Fin 4, j.val < e.gatherCount ∧ data.length ≤ (e.selectors[j]).val := by
  simp only [MapEntry.short, List.any_eq_true, decide_eq_true_eq, mem_gather_iff]
  constructor
  · rintro ⟨x, ⟨j, hj, rfl⟩, hx⟩; exact ⟨j, hj, hx⟩
  · rintro ⟨j, hj, hx⟩; exact ⟨_, ⟨j, hj, rfl⟩, hx⟩

/-! ### The gathered word and the pattern (R22, R23) -/

/-- Byte `j` of the gathered word is the byte that the selector in place `j` names. -/
theorem gatherWord_testBit (data : List Byte) (l : List (Fin 8)) (i : Nat) :
    (gatherWord data l).testBit i = (l[i / 8]?.elim false fun j => (data.getD j.val 0).getLsbD (i % 8)) := by
  induction l generalizing i with
  | nil => simp [gatherWord]
  | cons j l ih =>
    have hbyte : (data.getD j.val 0).toNat < 2 ^ 8 := (data.getD j.val 0).isLt
    have hword : (data.getD j.val 0).toNat + 256 * gatherWord data l =
        2 ^ 8 * gatherWord data l + (data.getD j.val 0).toNat := by omega
    rw [gatherWord, hword, Nat.testBit_two_pow_mul_add _ hbyte]
    split
    · next h =>
      rw [Nat.div_eq_of_lt h, Nat.mod_eq_of_lt h]
      rfl
    · next h =>
      rw [ih]
      have hdiv : i / 8 = (i - 8) / 8 + 1 := by omega
      rw [hdiv, List.getElem?_cons_succ]
      have hmod : i % 8 = (i - 8) % 8 := by omega
      rw [hmod]

theorem pattern_testBit (e : MapEntry) (data : List Byte) (b : Nat) : (e.pattern data).testBit b =
    (decide (b < e.bitLength) && (gatherWord data e.gather).testBit (e.bitOffset + b)) := by
  rw [MapEntry.pattern, Nat.testBit_mod_two_pow, Nat.testBit_div_two_pow, Nat.add_comm b]

/-- The constraints of an entry that its arithmetic uses (R19). -/
theorem MapEntry.ok_bounds {e : MapEntry} (h : e.ok = true) :
    1 ≤ e.gatherCount ∧ e.gatherCount ≤ 4 ∧ 1 ≤ e.bitLength ∧ e.bitLength ≤ 32 ∧
      e.bitOffset + e.bitLength ≤ 8 * e.gatherCount ∧ (e.naCodes = true → 2 ≤ e.bitLength) := by
  simp only [MapEntry.ok, Bool.and_eq_true, Bool.or_eq_true, Bool.not_eq_true', decide_eq_true_eq] at h
  obtain ⟨⟨⟨⟨⟨⟨⟨hone, hfour⟩, -⟩, hlen⟩, hlen32⟩, hfits⟩, hcodes⟩, -⟩ := h
  exact ⟨hone, hfour, hlen, hlen32, hfits, fun hna => hcodes.resolve_left (by simp [hna])⟩

/-- No selector reaches into an empty frame (R21). -/
theorem short_nil {e : MapEntry} (h : e.ok = true) : e.short [] = true :=
  (short_iff e []).mpr ⟨0, (MapEntry.ok_bounds h).1, Nat.zero_le _⟩

/-- The bits of a pattern are those of the selected bytes, in selector order (R22, R23). -/
theorem pattern_testBit_selected {e : MapEntry} (h : e.ok = true) (data : List Byte) (b : Nat) (j : Fin 4)
    (hb : b < e.bitLength) (hj : j.val = (e.bitOffset + b) / 8) :
    (e.pattern data).testBit b = (byteAt data (e.selectors[j]).val).getLsbD ((e.bitOffset + b) % 8) := by
  obtain ⟨-, -, -, -, hfits, -⟩ := MapEntry.ok_bounds h
  have hsel : e.gather[(e.bitOffset + b) / 8]? = some e.selectors[j] := by
    rw [← hj, MapEntry.gather, List.getElem?_take_of_lt (by omega)]
    simp
  rw [pattern_testBit, gatherWord_testBit, hsel, decide_eq_true hb]
  rfl

/-! ### The codes (R24) -/

theorem read_codes {e : MapEntry} (p : Nat) (h : e.ok = true) :
    (e.naCodes = true → p = 2 ^ e.bitLength - 1 → e.read p = .notAvailable) ∧
      (e.naCodes = true → p = 2 ^ e.bitLength - 2 → e.read p = .error) ∧
      (e.naCodes = false ∨ p + 2 < 2 ^ e.bitLength → e.read p = .value p) := by
  refine ⟨fun hna hlast => if_pos ⟨hna, hlast⟩, fun hna hnext => ?_, fun hvalue => ?_⟩
  · obtain ⟨-, -, -, -, -, hcodes⟩ := MapEntry.ok_bounds h
    have hfour : 2 ^ 2 ≤ 2 ^ e.bitLength := Nat.pow_le_pow_right (by decide) (hcodes hna)
    rw [MapEntry.read, if_neg (by rintro ⟨-, hlast⟩; omega), if_pos ⟨hna, hnext⟩]
  · have hneither : ∀ n, n ≤ 2 → 1 ≤ n → ¬ (e.naCodes = true ∧ p = 2 ^ e.bitLength - n) := by
      rintro n hle hge ⟨hna, hcode⟩
      rcases hvalue with hoff | hlow
      · rw [hna] at hoff
        cases hoff
      · omega
    rw [MapEntry.read, if_neg (hneither 1 (by decide) (by decide)), if_neg (hneither 2 (by decide) (by decide))]

/-! ### The raw value and the product (R25, R26) -/

theorem raw_eq {e : MapEntry} {p : Nat} (h : e.ok = true) (hp : p < 2 ^ e.bitLength) :
    e.raw p = if e.signed = true then (BitVec.ofNat e.bitLength p).toInt else (p : Int) := by
  obtain ⟨-, -, hlen, -, -, -⟩ := MapEntry.ok_bounds h
  have hhalf : 2 ^ e.bitLength = 2 * 2 ^ (e.bitLength - 1) := by
    rw [← pow_succ', Nat.sub_add_cancel hlen]
  unfold MapEntry.raw
  cases e.signed with
  | false => simp
  | true =>
    rw [if_pos rfl, BitVec.toInt_eq_toNat_cond, BitVec.toNat_ofNat, Nat.mod_eq_of_lt hp]
    by_cases hneg : 2 ^ (e.bitLength - 1) ≤ p
    · rw [if_pos ⟨rfl, hneg⟩, if_neg (by omega)]
      push_cast
      rfl
    · rw [if_neg (fun hand => hneg hand.2), if_pos (by omega)]

theorem raw_bounds {e : MapEntry} {p : Nat} (h : e.ok = true) (hp : p < 2 ^ e.bitLength) :
    -(2 ^ 31) ≤ e.raw p ∧ e.raw p ≤ 2 ^ 32 - 1 := by
  obtain ⟨-, -, hlen, hlen32, -, -⟩ := MapEntry.ok_bounds h
  have hhalf : 2 ^ e.bitLength = 2 * 2 ^ (e.bitLength - 1) := by
    rw [← pow_succ', Nat.sub_add_cancel hlen]
  have hwide : 2 ^ e.bitLength ≤ 2 ^ 32 := Nat.pow_le_pow_right (by decide) hlen32
  have hcast : ((2 : Int) ^ e.bitLength) = ((2 ^ e.bitLength : Nat) : Int) := by push_cast; rfl
  unfold MapEntry.raw
  split
  · next hneg =>
    rw [hcast]
    have := hneg.2
    constructor <;> omega
  · constructor <;> omega

/-- The product of 32 bits and 16 bits fits in 48 (R26). -/
theorem product_bounds {e : MapEntry} {p : Nat} (h : e.ok = true) (hp : p < 2 ^ e.bitLength) :
    -(2 ^ 47) < e.product p ∧ e.product p < 2 ^ 47 := by
  obtain ⟨hlow, hhigh⟩ := raw_bounds h hp
  have hfactor : |e.factor.toInt| ≤ 2 ^ 15 :=
    abs_le.mpr ⟨BitVec.le_toInt e.factor, by have := BitVec.toInt_lt (x := e.factor); omega⟩
  have hraw : |e.raw p| ≤ 2 ^ 32 - 1 := abs_le.mpr ⟨by omega, hhigh⟩
  refine abs_lt.mp ?_
  calc |e.product p| = |e.raw p| * |e.factor.toInt| := abs_mul ..
    _ ≤ (2 ^ 32 - 1) * 2 ^ 15 := mul_le_mul hraw hfactor (abs_nonneg _) (by decide)
    _ < 2 ^ 47 := by decide

/-! ### The rounded quotient (R27) -/

/-- The rounded quotient is the floor, or the floor and one, by where twice the remainder lies. -/
theorem roundShift_cases (mode : Rounding) (q : Int) (n : Nat) :
    (roundShift mode q n = q / 2 ^ n ∧
        (2 * (q % 2 ^ n) < 2 ^ n ∨ 2 * (q % 2 ^ n) = 2 ^ n ∧ mode = .convergent ∧ q / 2 ^ n % 2 = 0)) ∨
      (roundShift mode q n = q / 2 ^ n + 1 ∧
        (2 ^ n < 2 * (q % 2 ^ n) ∨
          2 * (q % 2 ^ n) = 2 ^ n ∧ (mode = .convergent → (q / 2 ^ n + 1) % 2 = 0))) := by
  unfold roundShift
  dsimp only
  split
  · next hlow => exact .inl ⟨rfl, .inl hlow⟩
  · split
    · next hhigh => exact .inr ⟨rfl, .inl hhigh⟩
    · next hlow hhigh =>
      have htie : 2 * (q % 2 ^ n) = 2 ^ n := by omega
      cases mode with
      | halfUp => exact .inr ⟨rfl, .inr ⟨htie, nofun⟩⟩
      | convergent =>
        dsimp only
        split
        · next heven => exact .inl ⟨rfl, .inr ⟨htie, rfl, heven⟩⟩
        · exact .inr ⟨rfl, .inr ⟨htie, fun _ => by omega⟩⟩

theorem roundShift_zero (mode : Rounding) (q : Int) : roundShift mode q 0 = q := by
  unfold roundShift
  simp

theorem roundShift_nearest (mode : Rounding) (q : Int) (n : Nat) :
    2 * |q - roundShift mode q n * 2 ^ n| ≤ 2 ^ n ∧
      (2 * |q - roundShift mode q n * 2 ^ n| = 2 ^ n →
        (mode = .convergent → roundShift mode q n % 2 = 0) ∧
        (mode = .halfUp → q < roundShift mode q n * 2 ^ n)) := by
  have hpos : (0 : Int) < 2 ^ n := by positivity
  have hdiv : q / 2 ^ n * 2 ^ n + q % 2 ^ n = q := Int.ediv_mul_add_emod q (2 ^ n)
  have hnonneg : 0 ≤ q % 2 ^ n := Int.emod_nonneg q hpos.ne'
  have hlt : q % 2 ^ n < 2 ^ n := Int.emod_lt_of_pos q hpos
  rcases roundShift_cases mode q n with ⟨hv, hrest⟩ | ⟨hv, hrest⟩
  · have herr : q - roundShift mode q n * 2 ^ n = q % 2 ^ n := by rw [hv]; omega
    rw [herr, abs_of_nonneg hnonneg, hv]
    refine ⟨by omega, fun htie => ?_⟩
    obtain hlow | ⟨-, hmode, heven⟩ := hrest
    · omega
    · exact ⟨fun _ => heven, fun hup => by rw [hmode] at hup; cases hup⟩
  · have hexpand : (q / 2 ^ n + 1) * 2 ^ n = q / 2 ^ n * 2 ^ n + 2 ^ n := by ring
    have herr : q - roundShift mode q n * 2 ^ n = -(2 ^ n - q % 2 ^ n) := by rw [hv, hexpand]; omega
    rw [herr, abs_neg, abs_of_nonneg (by omega), hv, hexpand]
    refine ⟨by omega, fun htie => ⟨fun hmode => ?_, fun _ => by omega⟩⟩
    obtain hhigh | ⟨-, heven⟩ := hrest
    · omega
    · exact heven hmode

/-! ### The clamp (R28) -/

theorem clamp_below {c : SlotConfig} {v : Int} (h : v < c.min.toInt) : c.clamp v = (c.min, true) := if_pos h

theorem clamp_above {c : SlotConfig} {v : Int} (hmin : c.min.toInt ≤ v) (hmax : c.max.toInt < v) :
    c.clamp v = (c.max, true) := by
  rw [SlotConfig.clamp, if_neg (by omega), if_pos hmax]

theorem clamp_within {c : SlotConfig} {v : Int} (hmin : c.min.toInt ≤ v) (hmax : v ≤ c.max.toInt) :
    (c.clamp v).1.toInt = v ∧ (c.clamp v).2 = false := by
  rw [SlotConfig.clamp, if_neg (by omega), if_neg (by omega)]
  refine ⟨?_, rfl⟩
  have hlow := BitVec.le_toInt c.min
  have hhigh := BitVec.toInt_lt (x := c.max)
  rw [BitVec.toInt_ofInt]
  exact Int.bmod_eq_of_le (by omega) (by omega)

/-- Settles O19: the pattern bit by bit through the gathered word, the raw value as the two's complement of its bits, and the
rounded quotient by where twice the remainder lies against the divisor. -/
theorem mapEntryArithmeticIsExactRoundedAndClamped : Obligations.MapEntryArithmeticIsExactRoundedAndClamped := by
  refine ⟨fun e data => ⟨short_iff e data, ?_, ?_⟩, fun e p hok _ => read_codes p hok, fun e p hok hp => ?_,
    fun mode q n => ?_, fun e c p => ⟨rfl, clamp_below, clamp_above, clamp_within⟩⟩
  · rintro hok rfl
    exact short_nil hok
  · exact fun hok _ => ⟨pattern_testBit_selected hok data, fun b hb => by simp [pattern_testBit, Nat.not_lt.mpr hb]⟩
  · obtain ⟨hlow, hhigh⟩ := raw_bounds hok hp
    exact ⟨raw_eq hok hp, hlow, hhigh, rfl, product_bounds hok hp⟩
  · obtain ⟨hnearest, htie⟩ := roundShift_nearest mode q n
    refine ⟨hnearest, ?_, fun _ => htie⟩
    rintro rfl
    exact roundShift_zero mode q

end Sys2Proof.Machine
end

section
/-! PROOFS. The SIGNALS, SPEED, GAUGES and TELLTALES section resets (R40, R51, R75, R97). -/

namespace Sys2Proof.Machine

/-! ### A fold that takes each element once -/

/-- A fold takes an element of its list once: what the other elements keep stands before its turn, and again from its turn to the
end. -/
theorem foldl_once {α : Type} {P : State → State → Prop} (refl : ∀ s, P s s) (trans : ∀ {s t u}, P s t → P t u → P s u)
    {f : State → α → State} {a : α} {l : List α} (hnd : l.Nodup) (ha : a ∈ l) (keep : ∀ s, ∀ b ∈ l, b ≠ a → P s (f s b))
    (s : State) : ∃ y, P s y ∧ P (f y a) (l.foldl f s) := by
  have kept : ∀ (m : List α), (∀ b ∈ m, b ∈ l ∧ b ≠ a) → ∀ s, P s (m.foldl f s) := fun m => by
    induction m with
    | nil => exact fun _ s => refl s
    | cons b m ih =>
      intro hm s
      obtain ⟨hb, hba⟩ := hm b (by simp)
      exact trans (keep s b hb hba) (ih (fun c hc => hm c (by simp [hc])) _)
  obtain ⟨before, after, rfl⟩ := List.append_of_mem ha
  obtain ⟨-, hnd', hdisj⟩ := List.nodup_append.mp hnd
  have hafter : a ∉ after := (List.nodup_cons.mp hnd').1
  refine ⟨before.foldl f s, kept before (fun b hb => ⟨by simp [hb], fun h => hdisj b hb a (by simp) h⟩) s, ?_⟩
  rw [List.foldl_append, List.foldl_cons]
  exact kept after (fun b hb => ⟨by simp [hb], fun h => hafter (h ▸ hb)⟩) _

/-! ### SIGNALS (R40) -/

/-- One slot of a SIGNALS section reset, with its event. -/
def unknownEvent (s : State) (k : Fin 120) : State := decodedEvent .quality k (s.setUnknown k 65535)

/-- What a SIGNALS section reset leaves after the slots of a list, whatever their events did. -/
structure SlotsReset (l : List (Fin 120)) (s t : State) : Prop where
  slots : ∀ k : Fin 120, t.slot (decodedSlot k) =
    if k ∈ l then ⟨(s.slot (decodedSlot k)).value, .unknown, false, 65535⟩ else s.slot (decodedSlot k)
  hold : ∀ k : Fin 120, t.store.hold[k] = if k ∈ l then none else s.store.hold[k]
  stale : ∀ k : Fin 120, t.store.stale[k] = if k ∈ l then none else s.store.stale[k]
  rest : Observed (s.withDecoded t) t

theorem setUnknown_slot (s : State) (j k : Fin 120) (age : Nat) : (s.setUnknown k age).slot (decodedSlot j) =
    if j = k then ⟨(s.slot (decodedSlot j)).value, .unknown, false, age⟩ else s.slot (decodedSlot j) := by
  refine (slot_setSlot s (decodedSlot k) (decodedSlot j) _).trans ?_
  by_cases h : j = k
  · subst h
    rw [if_pos rfl, if_pos rfl]
  · rw [if_neg h, if_neg fun heq => h (decodedSlot_inj.mp heq).symm]

theorem setUnknown_hold (s : State) (j k : Fin 120) (age : Nat) :
    (s.setUnknown k age).store.hold[j] = if j = k then none else s.store.hold[j] := by
  refine (Vector.getElem_set (xs := s.store.hold) k.isLt j.isLt).trans ?_
  simp only [Fin.ext_iff, eq_comm]
  rfl

theorem setUnknown_stale (s : State) (j k : Fin 120) (age : Nat) :
    (s.setUnknown k age).store.stale[j] = if j = k then none else s.store.stale[j] := by
  refine (Vector.getElem_set (xs := s.store.stale) k.isLt j.isLt).trans ?_
  simp only [Fin.ext_iff, eq_comm]
  rfl

theorem setUnknown_withDecoded (s t : State) (k : Fin 120) (age : Nat) :
    (s.setUnknown k age).withDecoded t = s.withDecoded t := by
  refine withDecoded_congr (s := s) (a := (s.setUnknown k age).store) fun j hge => ?_
  refine (slot_setSlot s (decodedSlot k) j _).trans (if_neg fun heq => hge ?_)
  rw [← heq]
  exact k.isLt

theorem unknownEvent_reset (s : State) (k : Fin 120) : SlotsReset [k] s (unknownEvent s k) := by
  have h : Observed (s.setUnknown k 65535) (unknownEvent s k) := observed_decodedEvent ..
  refine ⟨fun j => ?_, fun j => ?_, fun j => ?_, setUnknown_withDecoded s _ k 65535 ▸ h.withDecoded⟩ <;>
    simp only [List.mem_singleton]
  · exact (h.slots (decodedSlot j) (.inl j.isLt)).trans (setUnknown_slot s j k 65535)
  · rw [h.hold]
    exact setUnknown_hold ..
  · rw [h.stale]
    exact setUnknown_stale ..

theorem SlotsReset.cons {k : Fin 120} {l : List (Fin 120)} {s t u : State} (h : SlotsReset [k] s t) (g : SlotsReset l t u) :
    SlotsReset (k :: l) s u := by
  refine ⟨fun j => ?_, fun j => ?_, fun j => ?_, (h.rest.withDecoded_left u).trans g.rest⟩
  · rw [g.slots j, h.slots j]
    by_cases hj : j = k <;> by_cases hl : j ∈ l <;> simp [hj, hl]
  · rw [g.hold j, h.hold j]
    by_cases hj : j = k <;> by_cases hl : j ∈ l <;> simp [hj, hl]
  · rw [g.stale j, h.stale j]
    by_cases hj : j = k <;> by_cases hl : j ∈ l <;> simp [hj, hl]

theorem foldl_unknownEvent (l : List (Fin 120)) (s : State) : SlotsReset l s (l.foldl unknownEvent s) := by
  induction l generalizing s with
  | nil => exact ⟨by simp, by simp, by simp, (Observed.refl s).withDecoded⟩
  | cons k l ih => exact (unknownEvent_reset s k).cons (ih _)

theorem resetSignals_path (s : State) : ∃ path : Nat → State, path 0 = s ∧ path 120 = resetSignals s ∧
    ∀ k : Fin 120, path (k.val + 1) = unknownEvent (path k.val) k := by
  refine ⟨fun n => ((List.finRange 120).take n).foldl unknownEvent s, rfl, ?_, fun k => ?_⟩
  · dsimp only
    rw [List.take_of_length_le (by simp)]
    rfl
  · have hk : (List.finRange 120)[k.val]? = some k := by simp
    dsimp only
    rw [List.take_add_one, List.foldl_append, hk]
    rfl

theorem resetSignals_reset (s : State) : SlotsReset (List.finRange 120) s (resetSignals s) := foldl_unknownEvent _ s

/-! ### GAUGES (R75) -/

theorem reportChanges_eq (u s : State) : u.reportChanges s = u.reportedSince s := by
  unfold State.reportChanges State.reportedSince
  simp only [List.all_eq_true, List.mem_finRange, true_implies, beq_iff_eq]
  rfl

theorem sectionReset_eq (c : Channel) (e : GaugeEntry) (p : PartState) : c.sectionReset e p =
    if (p = .homing ∨ p = .run) ∧ e.valid = true then
      { c with stallCount := 0, target := e.park, state := .homing, homingDistance := 0, position := min c.position e.maxPos }
    else { c with stallCount := 0 } := by
  unfold Channel.sectionReset
  simp only [Bool.and_eq_true, driving_iff]
  rfl

theorem resetGauges_eq (s : State) : s.resetGauges = State.reportedSince { s with gauges := { s.gauges with
    channels := Vector.ofFn fun ch : Fin 6 =>
      if (s.time.part = .homing ∨ s.time.part = .run) ∧ (s.tables.gauge[ch]).valid = true then
        { s.gauges.channels[ch] with
          stallCount := 0, target := (s.tables.gauge[ch]).park, state := .homing, homingDistance := 0
          position := min (s.gauges.channels[ch]).position (s.tables.gauge[ch]).maxPos }
      else { s.gauges.channels[ch] with stallCount := 0 } } } s := by
  unfold State.resetGauges
  rw [reportChanges_eq]
  unfold State.mapChannels
  simp only [sectionReset_eq]

/-! ### The lamps' recomputation (R88) -/

theorem recomputeLamp_rest (s : State) (c : Fin 32) : s.recomputeLamp c =
    { s with telltales := { s.telltales with lamps := (s.recomputeLamp c).telltales.lamps } } :=
  recomputeNamed_rest s (some c)

theorem foldl_recomputeLamp_rest (l : List (Fin 32)) (s : State) : l.foldl State.recomputeLamp s =
    { s with telltales := { s.telltales with lamps := (l.foldl State.recomputeLamp s).telltales.lamps } } := by
  induction l generalizing s with
  | nil => rfl
  | cons c l ih =>
    rw [List.foldl_cons, ih, recomputeLamp_rest s c]

/-- Each channel that is recomputed is relit by its demand, once or more often. -/
theorem foldl_recomputeLamp_lamps (l : List (Fin 32)) (s : State) (ch : Fin 32) :
    (l.foldl State.recomputeLamp s).telltales.lamps[ch] =
      if ch ∈ l then relit s.telltales.lamps[ch] (s.lampDemanded ch) else s.telltales.lamps[ch] := by
  induction l generalizing s with
  | nil => simp
  | cons c l ih =>
    have hlamp := recomputeNamed_relit s (some c) ch
    have hdemand : (s.recomputeLamp c).lampDemanded ch = s.lampDemanded ch := recomputeNamed_demanded s (some c) ch
    rw [State.recomputeNamed] at hlamp
    rw [List.foldl_cons, ih, hdemand, hlamp]
    by_cases hc : c = ch
    · subst hc
      simp [relit_relit]
    · simp [hc, Ne.symm hc]

theorem recomputeLamps_rest (s : State) : s.recomputeLamps =
    { s with telltales := { s.telltales with lamps := s.recomputeLamps.telltales.lamps } } := by
  unfold State.recomputeLamps
  exact foldl_recomputeLamp_rest (List.finRange 32) s

theorem recomputeLamps_lamps (s : State) (ch : Fin 32) :
    s.recomputeLamps.telltales.lamps[ch] = relit s.telltales.lamps[ch] (s.lampDemanded ch) := by
  unfold State.recomputeLamps
  rw [foldl_recomputeLamp_lamps (List.finRange 32) s ch, if_pos (List.mem_finRange _)]

theorem recomputeLamps_relit (s : State) : s.recomputeLamps = s.relit s.telltales.lamps := by
  have hlamps : s.recomputeLamps.telltales.lamps = (s.relit s.telltales.lamps).telltales.lamps := by
    ext1 n hn
    refine (recomputeLamps_lamps s ⟨n, hn⟩).trans ?_
    unfold State.relit
    rw [Vector.getElem_ofFn]
  rw [recomputeLamps_rest, hlamps]
  rfl

theorem recomputeLamps_records (s : State) : s.recomputeLamps.telltales.records = s.telltales.records := by
  rw [recomputeLamps_rest]

theorem recomputeLamps_demanded (s : State) (ch : Fin 32) : s.recomputeLamps.lampDemanded ch = s.lampDemanded ch := by
  rw [recomputeLamps_rest]
  generalize s.recomputeLamps.telltales.lamps = lamps
  rfl

theorem recomputeLamps_lit {s : State} {ch : Fin 32} (h : s.telltales.lamps[ch] ∈ [LampState.idle, .lit]) :
    s.recomputeLamps.telltales.lamps[ch] = if s.recomputeLamps.lampDemanded ch = true then .lit else .idle := by
  rw [recomputeLamps_demanded, recomputeLamps_lamps]
  simp only [List.mem_cons, List.not_mem_nil, or_false] at h
  obtain h | h := h <;> rw [h] <;> cases s.lampDemanded ch <;> rfl

/-! ### TELLTALES: one telltale among the others (R97) -/

/-- No event of slot 127 evaluates the telltale: it is not active, or not on slot 127 (R76, R80). -/
def State.apart (s : State) (i : Fin 64) : Prop := s.telltaleActive i = false ∨ (s.tables.telltale[i]).source ≠ 127

/-- Everything but the telltales reacts, and a telltale that is apart keeps state and condition. -/
def TelltaleStands (i : Fin 64) (s t : State) : Prop :=
  Reacted s t ∧ (s.apart i → (t.telltales.records[i]).state = (s.telltales.records[i]).state ∧
    (t.telltales.records[i]).condition = (s.telltales.records[i]).condition)

theorem Reacted.apart {s t : State} (h : Reacted s t) (i : Fin 64) : t.apart i ↔ s.apart i := by
  unfold State.apart State.telltaleActive
  rw [h.time, h.tables]

theorem telltaleStands_refl (i : Fin 64) (s : State) : TelltaleStands i s s := ⟨.refl s, fun _ => ⟨rfl, rfl⟩⟩

theorem telltaleStands_trans {i : Fin 64} {s t u : State} (h : TelltaleStands i s t) (g : TelltaleStands i t u) :
    TelltaleStands i s u := by
  obtain ⟨hreact, hrec⟩ := h
  obtain ⟨greact, grec⟩ := g
  refine ⟨hreact.trans greact, fun hi => ?_⟩
  obtain ⟨hstate, hcond⟩ := hrec hi
  obtain ⟨gstate, gcond⟩ := grec ((hreact.apart i).mpr hi)
  exact ⟨gstate.trans hstate, gcond.trans hcond⟩

/-- The reports of a change leave a telltale that is apart as the change left it. -/
theorem telltaleStands_reports {f : State → Change} {s : State} (i : Fin 64) :
    TelltaleStands i (f s).state (whole f s) := by
  refine ⟨occurring_reacted.reported reacted_publishSevere (f s), fun hi => ?_⟩
  obtain hinactive | hsource := hi
  · exact (closed_inactiveStand.toOccurring.reported closed_inactiveStand.publishSevere (f s)).2.2 i hinactive
  · exact (slot127Stand_whole f s).2.2 i hsource

/-- A change of another telltale, with its reports. -/
theorem telltaleStands_other {f : State → Change} {s : State} {i j : Fin 64} (hij : i ≠ j) (hf : Presented s (f s).state)
    (hj : OnlyHeld j s (f s).state) : TelltaleStands i s (whole f s) := by
  refine telltaleStands_trans ⟨hf.reacted, fun _ => ?_⟩ (telltaleStands_reports i)
  obtain ⟨-, -, hrec⟩ := hj
  rw [hrec i hij]
  exact ⟨rfl, rfl⟩

theorem onlyHeld_telltaleCleared (s : State) (j : Fin 64) : OnlyHeld j s (s.telltaleCleared j).state := by
  have hm := moving_onlyHeld j
  unfold State.telltaleCleared
  split
  · exact hm.own ..
  · exact hm.trans (hm.own ..) (hm.telltaleOff _)

theorem telltaleCleared_record (s : State) (i : Fin 64) :
    ((s.telltaleCleared i).state.telltales.records[i]).state = .off ∧
      ((s.telltaleCleared i).state.telltales.records[i]).condition = false := by
  have hrec : (s.setCondition i false).telltales.records[i] = { s.telltales.records[i] with condition := false } := by
    unfold State.setCondition
    rw [setTelltale_record, if_pos rfl]
  unfold State.telltaleCleared
  split
  · next hoff =>
    dsimp only [Change.silent]
    rw [hrec]
    exact ⟨hoff, rfl⟩
  · obtain ⟨hstate, hcond⟩ := telltaleOff_record (s.setCondition i false) i
    rw [hrec] at hcond
    exact ⟨hstate, hcond⟩

/-- One turn each: a telltale that is apart stands before its own change, and again from there to the end. -/
theorem eachTelltale_once {f : State → Fin 64 → Change} (hf : ∀ s j, Presented s (f s j).state)
    (hj : ∀ s j, OnlyHeld j s (f s j).state) (s : State) (i : Fin 64) :
    ∃ y, TelltaleStands i s y ∧ TelltaleStands i (f y i).state (eachTelltale f s) := by
  obtain ⟨y, hbefore, hafter⟩ := foldl_once (f := fun s i => whole (fun s => f s i) s) (telltaleStands_refl i)
    telltaleStands_trans (List.nodup_finRange 64) (List.mem_finRange i)
    (fun s j _ hne => telltaleStands_other hne.symm (hf s j) (hj s j)) s
  refine ⟨y, hbefore, ?_⟩
  unfold eachTelltale
  exact telltaleStands_trans (telltaleStands_reports (f := fun s => f s i) i) hafter

/-- Every telltale that is apart goes OFF with condition false (R97). -/
theorem eachCleared_record (s : State) (i : Fin 64) (hi : s.apart i) :
    ((eachTelltale State.telltaleCleared s).telltales.records[i]).state = .off ∧
      ((eachTelltale State.telltaleCleared s).telltales.records[i]).condition = false := by
  obtain ⟨y, ⟨hy, -⟩, -, hafter⟩ := eachTelltale_once presented_telltaleCleared onlyHeld_telltaleCleared s i
  obtain ⟨hstate, hcond⟩ := hafter (((hy.trans (presented_telltaleCleared y i).reacted).apart i).mpr hi)
  obtain ⟨hoff, hfalse⟩ := telltaleCleared_record y i
  exact ⟨hstate.trans hoff, hcond.trans hfalse⟩

/-- One telltale's turn of the fresh evaluations that end a TELLTALES section reset. -/
def State.freshTurn (s : State) (i : Fin 64) : Change := if s.telltaleActive i then s.evaluateFresh i else .silent s

theorem freshTurn_active {s : State} {i : Fin 64} (h : s.telltaleActive i = true) : s.freshTurn i = s.evaluateFresh i :=
  if_pos h

theorem freshTurn_inactive {s : State} {i : Fin 64} (h : s.telltaleActive i = false) : s.freshTurn i = .silent s :=
  if_neg (by rw [h]; decide)

theorem freshTurn_spec (s : State) (i : Fin 64) :
    if s.telltaleActive i = true then FreshlyEvaluated s i (whole (fun s => s.freshTurn i) s)
    else whole (fun s => s.freshTurn i) s = s := by
  unfold whole
  dsimp only
  cases h : s.telltaleActive i with
  | true =>
    rw [if_pos rfl, freshTurn_active h]
    exact freshlyEvaluated_spec s i
  | false =>
    rw [if_neg (by decide), freshTurn_inactive h]
    rfl

theorem presented_freshTurn (s : State) (i : Fin 64) : Presented s (s.freshTurn i).state := by
  unfold State.freshTurn
  split
  · exact presented_evaluateFresh s i
  · exact .refl s

theorem onlyHeld_freshTurn (s : State) (j : Fin 64) : OnlyHeld j s (s.freshTurn j).state := by
  unfold State.freshTurn
  split
  · exact (moving_onlyHeld j).evaluateFresh s
  · exact (moving_onlyHeld j).refl s

/-- An OFF telltale that is apart, after the fresh evaluations: as its own gives it when it is active, and OFF when it is not. -/
theorem eachFresh_record (s : State) (i : Fin 64) (hi : s.apart i) (hoff : (s.telltales.records[i]).state = .off) :
    let e := s.tables.telltale[i]
    let r := (eachTelltale State.freshTurn s).telltales.records[i]
    (s.telltaleActive i = false → r.state = .off ∧ r.condition = (s.telltales.records[i]).condition) ∧
      (s.telltaleActive i = true → r.condition = e.condition (s.slot e.source) false ∧
        r.state = e.freshState (e.condition (s.slot e.source) false)) := by
  obtain ⟨y, ⟨hy, hbefore⟩, -, hafter⟩ := eachTelltale_once presented_freshTurn onlyHeld_freshTurn s i
  obtain ⟨hstate, hcond⟩ := hafter (((hy.trans (presented_freshTurn y i).reacted).apart i).mpr hi)
  obtain ⟨hystate, hycond⟩ := hbefore hi
  have hactive : y.telltaleActive i = s.telltaleActive i := by
    unfold State.telltaleActive
    rw [hy.time, hy.tables]
  dsimp only
  refine ⟨fun h => ?_, fun h => ?_⟩
  · rw [freshTurn_inactive (hactive.trans h)] at hstate hcond
    exact ⟨hstate.trans (hystate.trans hoff), hcond.trans hycond⟩
  · obtain ⟨hnewcond, hnewstate⟩ := evaluateFresh_record y i (hystate.trans hoff)
    have hsource : (s.tables.telltale[i]).source ≠ 127 := hi.resolve_left (by rw [h]; decide)
    have hslot : y.slot (s.tables.telltale[i]).source = s.slot (s.tables.telltale[i]).source := hy.slots _ hsource
    rw [hy.tables, hslot] at hnewcond hnewstate
    rw [freshTurn_active (hactive.trans h)] at hstate hcond
    exact ⟨hcond.trans hnewcond, hstate.trans hnewstate⟩

/-! ### TELLTALES: the reset (R97) -/

/-- The telltales as a section reset leaves them OFF and the lamps' faults cleared. -/
def State.telltalesEmptied (s : State) : State := (eachTelltale State.telltaleCleared s).mapLamps LampState.clear

theorem resetTelltales_eq (s : State) :
    resetTelltales s = (eachTelltale State.freshTurn s.telltalesEmptied).recomputeLamps := rfl

theorem lampState_clear (l : LampState) : l.clear = if l = .lit then .lit else .idle := by cases l <;> rfl

theorem mapLamps_clear (s : State) : s.mapLamps LampState.clear = { s with telltales := { s.telltales with
    lamps := Vector.ofFn fun ch : Fin 32 => if s.telltales.lamps[ch] = .lit then .lit else .idle } } := by
  unfold State.mapLamps
  simp only [lampState_clear]

theorem presented_lamps (s : State) (lamps : Vector LampState 32) :
    Presented s { s with telltales := { s.telltales with lamps } } := ⟨rfl, rfl⟩

theorem presented_mapLamps (s : State) (f : LampState → LampState) : Presented s (s.mapLamps f) := by
  unfold State.mapLamps
  exact presented_lamps s _

theorem mapLamps_records (s : State) (f : LampState → LampState) :
    (s.mapLamps f).telltales.records = s.telltales.records := by
  simp only [State.mapLamps]

theorem mapLamps_lamps (s : State) (f : LampState → LampState) (ch : Fin 32) :
    (s.mapLamps f).telltales.lamps[ch] = f s.telltales.lamps[ch] := by
  simp only [State.mapLamps]
  exact Vector.getElem_ofFn _

theorem reacted_eachTelltale {f : State → Fin 64 → Change} (hf : ∀ s i, Presented s (f s i).state) (s : State) :
    Reacted s (eachTelltale f s) := by
  unfold eachTelltale
  exact closed_reacted.foldl (fun s i => reacted_whole (fun s => hf s i) s) _ s

theorem reacted_telltalesEmptied (s : State) : Reacted s s.telltalesEmptied :=
  (reacted_eachTelltale presented_telltaleCleared s).trans (presented_mapLamps _ _).reacted

theorem reacted_resetTelltales (s : State) : Reacted s (resetTelltales s) := by
  rw [resetTelltales_eq]
  exact (reacted_telltalesEmptied s).trans ((reacted_eachTelltale presented_freshTurn _).trans
    (presented_recomputeLamps _).reacted)

theorem telltalesEmptied_record (s : State) (i : Fin 64) (hi : s.apart i) :
    (s.telltalesEmptied.telltales.records[i]).state = .off ∧
      (s.telltalesEmptied.telltales.records[i]).condition = false := by
  unfold State.telltalesEmptied
  rw [mapLamps_records]
  exact eachCleared_record s i hi

/-- What a TELLTALES section reset leaves of a telltale that is apart (R97). -/
theorem resetTelltales_record (s : State) (i : Fin 64) (hi : s.apart i) :
    let e := s.tables.telltale[i]
    let r := (resetTelltales s).telltales.records[i]
    (s.telltaleActive i = false → r.state = .off ∧ r.condition = false) ∧
      (s.telltaleActive i = true → r.condition = e.condition (s.slot e.source) false ∧
        r.state = e.freshState (e.condition (s.slot e.source) false)) := by
  have hreact := reacted_telltalesEmptied s
  obtain ⟨hoff, hfalse⟩ := telltalesEmptied_record s i hi
  obtain ⟨hinactive, hactive⟩ := eachFresh_record s.telltalesEmptied i ((hreact.apart i).mpr hi) hoff
  have hsame : s.telltalesEmptied.telltaleActive i = s.telltaleActive i := by
    unfold State.telltaleActive
    rw [hreact.time, hreact.tables]
  dsimp only
  rw [resetTelltales_eq, recomputeLamps_records]
  refine ⟨fun h => ?_, fun h => ?_⟩
  · obtain ⟨hstate, hcond⟩ := hinactive (hsame.trans h)
    exact ⟨hstate, hcond.trans hfalse⟩
  · have hsource : (s.tables.telltale[i]).source ≠ 127 := hi.resolve_left (by rw [h]; decide)
    have hslot : s.telltalesEmptied.slot (s.tables.telltale[i]).source = s.slot (s.tables.telltale[i]).source :=
      hreact.slots _ hsource
    have hresult := hactive (hsame.trans h)
    rw [hreact.tables, hslot] at hresult
    exact hresult

/-- The fresh evaluations leave no lamp fault behind. -/
theorem eachFresh_lamps (s : State) (ch : Fin 32) :
    (eachTelltale State.freshTurn s.telltalesEmptied).telltales.lamps[ch] ∈ [LampState.idle, .lit] := by
  have hcleared : s.telltalesEmptied.telltales.lamps[ch] ∈ [LampState.idle, .lit] := by
    unfold State.telltalesEmptied
    rw [mapLamps_lamps, lampState_clear]
    split <;> simp
  have hturn : LampsTurn s.telltalesEmptied (eachTelltale State.freshTurn s.telltalesEmptied) := by
    unfold eachTelltale
    refine closed_lampsTurn.foldl (fun s i => closed_lampsTurn.whole (fun s => ?_) s) _ _
    unfold State.freshTurn
    split
    · exact (moving_lampsTurn i).evaluateFresh s
    · exact lampsTurn_same rfl
  obtain hsame | ⟨-, hlit⟩ := hturn ch
  · rw [hsame]
    exact hcleared
  · exact hlit

/-! ### The four resets -/

theorem signalsReset_replied (tag : Word16) {s : State} (hs : s.awake = true) :
    ∃ u t, exec (.signalsSectionReset tag) s = .next t ∧ (∃ path : Nat → State, path 0 = s ∧ path 120 = u ∧
        ∀ k : Fin 120, path (k.val + 1) = unknownEvent (path k.val) k) ∧
      SlotsReset (List.finRange 120) s u ∧ Offered u (.reply 7 tag .ok []) t := by
  obtain ⟨u, hu⟩ : ∃ u, resetSignals s = u := ⟨_, rfl⟩
  obtain ⟨t, ht, hr⟩ := reset_replied (i := .signalsSectionReset tag) (tag := tag) (x := .signals) rfl hs hu
  exact ⟨u, t, ht, hu ▸ resetSignals_path s, hu ▸ resetSignals_reset s, hr⟩

theorem gaugesReset_replied (tag : Word16) {s : State} (hs : s.awake = true) :
    ∃ u t, exec (.gaugesSectionReset tag) s = .next t ∧ Offered s.resetGauges (.reply 7 tag .ok []) u ∧ Concluded u t :=
  ⟨_, _, onAwake_of_awake (f := fun s => conclude (requestReset tag .gauges s)) hs, requestReset_spec tag .gauges s,
    conclude_spec _⟩

theorem speedReset_replied (tag : Word16) {s : State} (hs : s.awake = true) : ∃ u t,
    exec (.speedSectionReset tag) s = .next t ∧ Selected s.relearn u ∧ Offered u (.reply 7 tag .ok []) t := by
  obtain ⟨u, hu⟩ : ∃ u, writeSelection s.relearn = u := ⟨_, rfl⟩
  obtain ⟨t, ht, hr⟩ := reset_replied (i := .speedSectionReset tag) (tag := tag) (x := .speed) rfl hs hu
  exact ⟨u, t, ht, hu ▸ writeSelection_spec s.relearn, hr⟩

/-- The telltales in turn OFF, the lamps' faults cleared, the active telltales in turn evaluated afresh, and the lamps (R97). -/
theorem resetTelltales_turns (s : State) : ∃ v w, InTurn Cleared s v ∧
    InTurn (fun s i t => if s.telltaleActive i = true then FreshlyEvaluated s i t else t = s)
      { v with telltales := { v.telltales with lamps := Vector.ofFn fun ch : Fin 32 =>
        if v.telltales.lamps[ch] = .lit then .lit else .idle } } w ∧
    resetTelltales s = w.relit w.telltales.lamps := by
  refine ⟨_, _, eachTelltale_spec cleared_spec s, ?_, (resetTelltales_eq s).trans (recomputeLamps_relit _)⟩
  rw [← mapLamps_clear]
  exact eachTelltale_spec freshTurn_spec s.telltalesEmptied

theorem resetTelltales_lamps (s : State) (ch : Fin 32) : (resetTelltales s).telltales.lamps[ch] =
    if (resetTelltales s).lampDemanded ch = true then .lit else .idle := by
  rw [resetTelltales_eq]
  exact recomputeLamps_lit (eachFresh_lamps s ch)

/-- Settles O40: the decoded slots go UNKNOWN in turn; the selection follows an emptied ring; the channels are homed and reported; the
telltales are cleared and evaluated afresh in turn, and the lamps follow. -/
theorem sectionResetsReturnTheirBlocks : Obligations.SectionResetsReturnTheirBlocks := by
  refine ⟨fun tag s hs => ⟨?_, ?_⟩, fun tag s hs => ⟨?_, ?_⟩⟩
  · obtain ⟨u, t, ht, hpath, ⟨hslots, hhold, hstale, hrest⟩, hr⟩ := signalsReset_replied tag hs
    refine ⟨u, t, ht, hpath, fun k => ?_, hrest, hr⟩
    exact ⟨(hslots k).trans (if_pos (List.mem_finRange k)), (hhold k).trans (if_pos (List.mem_finRange k)),
      (hstale k).trans (if_pos (List.mem_finRange k))⟩
  · exact speedReset_replied tag hs
  · rw [← resetGauges_eq]
    exact gaugesReset_replied tag hs
  · have hturns := resetTelltales_turns s
    have hreact := reacted_resetTelltales s
    have hrecord := resetTelltales_record s
    have hlamps := resetTelltales_lamps s
    obtain ⟨u, hu⟩ : ∃ u, resetTelltales s = u := ⟨_, rfl⟩
    rw [hu] at hturns hreact hlamps
    simp only [hu] at hrecord
    obtain ⟨v, w, hcleared, hfresh, hrelit⟩ := hturns
    obtain ⟨t, ht, hr⟩ := reset_replied (i := .telltalesSectionReset tag) (tag := tag) (x := .telltales) rfl hs hu
    exact ⟨v, w, u, t, ht, hreact, hcleared, hfresh, hrelit, fun i hi => (hrecord i (.inl hi)).1 hi,
      fun i hi hsource => (hrecord i (.inr hsource)).2 hi, hlamps, hr⟩

end Sys2Proof.Machine
end

section
/-! PROOFS. An event of a slot and its readers (R18): what events of derived slots keep, and what one reader of a decoded slot leaves
whatever the other readers do. -/

namespace Sys2Proof.Machine

/-! ### The last-seen indication at the Message Unit's events (R105) -/

theorem chooseAfresh_lastSeen (s : State) : s.chooseAfresh.messages.lastSeen = s.messages.lastSeen := by
  unfold State.chooseAfresh
  split <;> rfl

theorem choose_lastSeen (s : State) : s.choose.messages.lastSeen = s.messages.lastSeen := by
  unfold State.choose
  split
  · exact chooseAfresh_lastSeen s
  · split
    · rfl
    · split
      · rfl
      · split
        · rfl
        · split <;> rfl

theorem raiseRequest_lastSeen (s : State) (i : Fin 64) (p : Fin 8) :
    (s.raiseRequest i p).messages.lastSeen = s.messages.lastSeen := choose_lastSeen _

theorem removeRequest_lastSeen (s : State) (i : Fin 64) :
    (s.removeRequest i).messages.lastSeen = s.messages.lastSeen := by
  unfold State.removeRequest
  split
  · rfl
  · dsimp only
    split
    · exact choose_lastSeen _
    · split <;> exact choose_lastSeen _

theorem enterRing_lastSeen (m : Messages) (p : Presentation) : (m.enterRing p).1.lastSeen = m.lastSeen := by
  unfold Messages.enterRing
  split
  · rfl
  · split
    · rfl
    · split <;> rfl

theorem spill_lastSeen (m : Messages) : m.spill.1.lastSeen = m.lastSeen := by
  unfold Messages.spill
  split
  · split
    · exact enterRing_lastSeen ..
    · rfl
  · rfl

theorem place_lastSeen (m : Messages) (p : Presentation) : (m.place p).1.lastSeen = m.lastSeen := by
  unfold Messages.place
  split
  · rfl
  · split
    · exact spill_lastSeen m
    · exact enterRing_lastSeen ..

theorem removeCurrent_lastSeen (m : Messages) : m.removeCurrent.lastSeen = m.lastSeen := by
  unfold Messages.removeCurrent
  split
  · split <;> rfl
  · rfl
  · rfl
  · rfl

theorem withdraw_lastSeen (m : Messages) (i : Fin 64) : (m.withdraw i).1.lastSeen = m.lastSeen := by
  unfold Messages.withdraw
  split
  · exact removeCurrent_lastSeen m
  · rfl

theorem foldl_hear_messages (l : List MessageReport) (s : State) : (l.foldl State.hear s).messages = s.messages := by
  induction l generalizing s with
  | nil => rfl
  | cons r l ih => cases r <;> exact ih _

theorem offerPresentation_lastSeen (s : State) (i : Fin 64) (h : Held) (m : Nat) :
    (s.offerPresentation i h m).state.messages.lastSeen = s.messages.lastSeen := by
  unfold State.offerPresentation State.placeOffer
  dsimp only
  rw [foldl_hear_messages]
  exact place_lastSeen ..

theorem onOffer_lastSeen (s : State) (i : Fin 64) : (s.onOffer i).state.messages.lastSeen = s.messages.lastSeen := by
  unfold State.onOffer
  dsimp only
  split
  · split
    · exact offerPresentation_lastSeen ..
    · split
      · exact offerPresentation_lastSeen ..
      · rfl
  · rfl

theorem onChime_lastSeen (s : State) (i : Fin 64) : (s.onChime i).messages.lastSeen = s.messages.lastSeen := by
  unfold State.onChime
  split
  · rfl
  · exact raiseRequest_lastSeen ..

theorem telltaleOn_lastSeen (s : State) (i : Fin 64) : (s.telltaleOn i).state.messages.lastSeen = s.messages.lastSeen := by
  unfold State.telltaleOn Change.andThen
  dsimp only
  rw [onChime_lastSeen, onOffer_lastSeen, recomputeNamed_messages]
  rfl

theorem telltaleOff_lastSeen (s : State) (i : Fin 64) :
    (s.telltaleOff i).state.messages.lastSeen = s.messages.lastSeen := by
  unfold State.telltaleOff Change.andThen
  dsimp only
  rw [recomputeNamed_messages, removeRequest_lastSeen]
  split
  · rfl
  · exact withdraw_lastSeen ..

theorem telltaleFallen_lastSeen (s : State) (i : Fin 64) :
    (s.telltaleFallen i).state.messages.lastSeen = s.messages.lastSeen := by
  unfold State.telltaleFallen
  split
  · rfl
  · exact telltaleOff_lastSeen s i

theorem moveTelltale_lastSeen (s : State) (i : Fin 64) :
    (s.moveTelltale i).state.messages.lastSeen = s.messages.lastSeen := by
  unfold State.moveTelltale
  dsimp only
  split
  · split
    · exact telltaleOn_lastSeen s i
    · rfl
  · rfl
  · split
    · exact telltaleFallen_lastSeen s i
    · rfl
  all_goals rfl

theorem evaluateTelltale_lastSeen (s : State) (i : Fin 64) :
    (s.evaluateTelltale i).state.messages.lastSeen = s.messages.lastSeen := moveTelltale_lastSeen _ i

theorem press_lastSeen (s : State) : s.press.state.messages.lastSeen = s.messages.lastSeen := by
  unfold State.press
  split
  · rfl
  · split
    · dsimp only
      rw [removeRequest_lastSeen]
      exact removeCurrent_lastSeen _
    · rfl

/-! ### What an evaluation leaves of its telltale (R77, R78, R81, R82) -/

/-- The way of an ON telltale whose condition has gone (R82). -/
theorem moveTelltale_on_record (s : State) (i : Fin 64) (hs : (s.telltales.records[i]).state = .on)
    (hc : (s.telltales.records[i]).condition = false) :
    ((s.moveTelltale i).state.telltales.records[i]).condition = false ∧
      ((s.moveTelltale i).state.telltales.records[i]).state =
        if (s.tables.telltale[i]).offDebounce = 0 then s.fallen i else .falling := by
  unfold State.moveTelltale
  simp only [hs, hc]
  split
  · unfold State.telltaleFallen State.fallen
    simp only [driving_iff]
    split
    · simp only [Change.silent, setTelltale_record, if_true]
      exact ⟨hc, trivial⟩
    · obtain ⟨hoff, hcond⟩ := telltaleOff_record s i
      exact ⟨hcond.trans hc, hoff⟩
  · simp only [Change.silent, setTelltale_record, if_true]
    trivial

/-- A move gives the state of the table and keeps the condition. -/
theorem moveTelltale_record (s : State) (i : Fin 64) :
    ((s.moveTelltale i).state.telltales.records[i]).condition = (s.telltales.records[i]).condition ∧
      ((s.moveTelltale i).state.telltales.records[i]).state =
        s.evaluatedState i (s.telltales.records[i]).condition := by
  unfold State.evaluatedState
  cases hs : (s.telltales.records[i]).state <;> cases hc : (s.telltales.records[i]).condition
  case off.true =>
    have h := moveTelltale_off_record s i hs
    rw [hc] at h
    exact h
  case on.false => exact moveTelltale_on_record s i hs hc
  all_goals
    unfold State.moveTelltale
    simp only [hs, hc, Change.silent, setTelltale_record, if_true, and_self]

/-- An evaluation gives the condition of the source slot as it stands, and the state of the table with it. -/
theorem evaluateTelltale_record (s : State) (i : Fin 64) :
    let e := s.tables.telltale[i]
    let condition := e.condition (s.slot e.source) (s.telltales.records[i]).condition
    ((s.evaluateTelltale i).state.telltales.records[i]).condition = condition ∧
      ((s.evaluateTelltale i).state.telltales.records[i]).state = s.evaluatedState i condition := by
  dsimp only
  unfold State.evaluateTelltale
  dsimp only
  generalize (s.tables.telltale[i]).condition (s.slot (s.tables.telltale[i]).source) (s.telltales.records[i]).condition = c
  have hrec : (s.setCondition i c).telltales.records[i] = { s.telltales.records[i] with condition := c } := by
    unfold State.setCondition
    rw [setTelltale_record, if_pos rfl]
  obtain ⟨hcond, hstate⟩ := moveTelltale_record (s.setCondition i c) i
  rw [hrec] at hcond hstate
  refine ⟨hcond, hstate.trans ?_⟩
  unfold State.evaluatedState
  rw [hrec]
  rfl

end Sys2Proof.Machine
end

section
/-! PROOFS. An event of a slot reaches each of its readers (R18): what events of derived slots keep of the parts that no derived slot
feeds, and what one reader of a decoded slot leaves whatever the order of the others. -/

namespace Sys2Proof.Machine

/-! ### What events of derived slots keep -/

/-- Under the tables `T`, which stand, a part of the state stands. -/
def Keeps {α : Type} (T : Tables) (f : State → α) (s t : State) : Prop := s.tables = T → t.tables = T ∧ f t = f s

/-- A part of the state that, under the tables `T`, no event of a derived slot changes: not the egress queue, the faults, the order of
readers, the store, the crew records or the selection, no channel, telltale or detector on a derived slot, and no press. -/
structure KeptBy {α : Type} (T : Tables) (f : State → α) : Prop where
  egress : ∀ s q, f (s.setEgress q) = f s
  faults : ∀ (s : State) x, f { s with faults := x } = f s
  choices : ∀ (s : State) n, f { s with choices := n } = f s
  slot : ∀ s k x, f (s.setSlot k x) = f s
  crew : ∀ s c, f (s.setCrew c) = f s
  selection : ∀ s x, f (s.setSelection x) = f s
  target : ∀ (s : State) ch, s.tables = T → 120 ≤ (T.gauge[ch]).source.val → f (s.evaluateTarget ch) = f s
  evaluate : ∀ (s : State) i, s.tables = T → 120 ≤ (T.telltale[i]).source.val → f (s.evaluateTelltale i).state = f s
  seen : ∀ s k l, T.system.ackSlot = some k → 120 ≤ k.val → f (s.setSeen l) = f s
  press : ∀ s : State, s.tables = T → f s.press.state = f s

section
variable {α : Type} {T : Tables} {f : State → α}

theorem keeps_refl (s : State) : Keeps T f s s := fun hs => ⟨hs, rfl⟩

theorem keeps_trans {s t u : State} (h : Keeps T f s t) (g : Keeps T f t u) : Keeps T f s u := fun hs => by
  obtain ⟨ht, hf⟩ := h hs
  obtain ⟨hu, gf⟩ := g ht
  exact ⟨hu, gf.trans hf⟩

theorem keeps_of_eq {s t : State} (ht : t.tables = s.tables) (hf : f t = f s) : Keeps T f s t := fun hs => ⟨ht.trans hs, hf⟩

theorem keeps_foldl {β : Type} {g : State → β → State} (hg : ∀ s b, Keeps T f s (g s b)) (l : List β) (s : State) :
    Keeps T f s (l.foldl g s) := by
  induction l generalizing s with
  | nil => exact keeps_refl s
  | cons b l ih => exact keeps_trans (hg s b) (ih _)

/-- The active telltales on a slot, when no evaluation of one of them changes the part. -/
theorem keeps_evaluateReaders (ho : Occurring (Keeps T f)) {publish : State → State} (hp : ∀ s, Keeps T f s (publish s))
    (k : Fin 128) (hk : ∀ (s : State) i, s.tables = T → (T.telltale[i]).source = k → f (s.evaluateTelltale i).state = f s)
    (s : State) : Keeps T f s (evaluateReaders publish k s) := by
  refine keeps_foldl (fun s i => ?_) _ s
  split
  · next h =>
    obtain ⟨-, hsource⟩ := Bool.and_eq_true_iff.mp h
    refine keeps_trans (fun hs => ?_) (ho.reported hp _)
    refine ⟨((moving_presented i).evaluateTelltale s).reacted.tables.trans hs, hk s i hs ?_⟩
    rw [hs] at hsource
    exact beq_iff_eq.mp hsource
  · exact keeps_refl s

/-- The acknowledge detector, when neither its indication nor a press changes the part. -/
theorem keeps_observeAck (ho : Occurring (Keeps T f)) {publish : State → State} (hp : ∀ s, Keeps T f s (publish s))
    (k : Fin 128) (hseen : ∀ (s : State) l, f (s.setSeen l) = f s)
    (hpress : ∀ s : State, s.tables = T → f s.press.state = f s) (s : State) : Keeps T f s (observeAck publish k s) := by
  have hset : Keeps T f s (s.setSeen (s.slot k).seen) := keeps_of_eq rfl (hseen ..)
  unfold observeAck
  dsimp only
  split
  · exact keeps_trans hset (keeps_trans (fun hs => ⟨(presented_press _).reacted.tables.trans hs, hpress _ hs⟩)
      (ho.reported hp _))
  · exact hset

variable (h : KeptBy T f)
include h

theorem KeptBy.occurring : Occurring (Keeps T f) where
  refl := keeps_refl
  trans := keeps_trans
  egress s _ q _ := keeps_of_eq rfl (h.egress s q)
  record s _ _ _ _ := keeps_of_eq rfl (h.faults s _)

theorem KeptBy.keeps_setSlot (s : State) (k : Fin 128) (x : Slot) : Keeps T f s (s.setSlot k x) :=
  keeps_of_eq rfl (h.slot s k x)

theorem KeptBy.keeps_setCrew (s : State) (c : Crew) : Keeps T f s (s.setCrew c) := keeps_of_eq rfl (h.crew s c)

theorem KeptBy.gaugesObserve {k : Fin 128} (hk : 120 ≤ k.val) (s : State) : Keeps T f s (s.gaugesObserve k) := by
  refine keeps_foldl (fun s ch => ?_) _ s
  split
  · next hread =>
    obtain ⟨-, hsource⟩ := Bool.and_eq_true_iff.mp hread
    intro hs
    rw [hs] at hsource
    exact ⟨hs, h.target s ch hs (by rw [beq_iff_eq.mp hsource]; exact hk)⟩
  · exact keeps_refl s

theorem KeptBy.deriveFromRoad (s : State) : Keeps T f s s.deriveFromRoad := by
  refine keeps_foldl (fun s x => ?_) _ s
  split
  · exact keeps_refl s
  · exact h.keeps_setCrew s _

theorem KeptBy.runDerived {publish : State → State} (hp : ∀ s, Keeps T f s (publish s)) {k : Fin 128} (hk : 120 ≤ k.val)
    {r : Reader} (hr : r = .ack → T.system.ackSlot = some k) (s : State) : Keeps T f s (runDerived publish k r s) := by
  cases r with
  | telltales =>
    exact keeps_evaluateReaders h.occurring hp k
      (fun s i hs hsource => h.evaluate s i hs (by rw [hsource]; exact hk)) s
  | ack => exact keeps_observeAck h.occurring hp k (fun s l => h.seen s k l (hr rfl) hk) h.press s
  | road => exact h.deriveFromRoad s
  | speed | activity | token | tally | time => exact keeps_refl s

theorem KeptBy.derivedEvent {publish : State → State} (hp : ∀ s, Keeps T f s (publish s)) {k : Fin 128} (hk : 120 ≤ k.val)
    (s : State) : Keeps T f s (derivedEvent publish k s) := by
  intro hs
  obtain ⟨htaken, hf⟩ := h.gaugesObserve hk s hs
  have hreaders : Keeps T f (s.gaugesObserve k) (Machine.derivedEvent publish k s) := by
    refine observe_induction keeps_refl (fun _ _ _ => keeps_trans) (fun s n => keeps_of_eq rfl (h.choices s n)) _ _
      fun r hr x => h.runDerived hp hk (fun hack => ?_) x
    have hread : s.derivedReader k r := (mem_derivedReaders s k r).mp hr
    rw [hack, State.derivedReader, hs] at hread
    exact hread
  obtain ⟨ht, gf⟩ := hreaders htaken
  exact ⟨ht, gf.trans hf⟩

theorem KeptBy.publish (n : Nat) (s : State) : Keeps T f s (publish n s) := by
  induction n generalizing s with
  | zero => exact h.keeps_setSlot s 127 _
  | succ n ih => exact keeps_trans (h.keeps_setSlot s 127 _) (h.derivedEvent ih (by decide) _)

theorem KeptBy.publishSevere (s : State) : Keeps T f s (publishSevere s) := h.publish _ s

theorem KeptBy.raise (c : FaultClass) (d : FaultDetail) (s : State) : Keeps T f s (raise c d s) :=
  h.occurring.occur h.publishSevere _ c d s

theorem KeptBy.offer (r : EgressRecord) (s : State) : Keeps T f s (offer r s) := h.occurring.offerWith h.publishSevere r s

theorem KeptBy.reported (c : Change) : Keeps T f c.state (c.reported Machine.publishSevere) :=
  h.occurring.reported h.publishSevere c

theorem KeptBy.writeDerived {k : Fin 128} (hk : 120 ≤ k.val) (x : Slot) (s : State) : Keeps T f s (writeDerived k x s) :=
  keeps_trans (h.keeps_setSlot s k x) (h.derivedEvent h.publishSevere hk _)

/-! ### The readers of a decoded slot that write derived slots -/

theorem KeptBy.writeSelection (s : State) : Keeps T f s (writeSelection s) :=
  keeps_trans (keeps_of_eq (t := s.setSelection s.selectSpeed) rfl (h.selection s _))
    (keeps_trans (h.writeDerived (by decide) _ _) (h.writeDerived (by decide) _ _))

theorem KeptBy.writeRemaining (s : State) : Keeps T f s (writeRemaining s) := by
  unfold Machine.writeRemaining remainingSlots
  simp only [List.foldl_cons, List.foldl_nil]
  exact keeps_trans (h.writeDerived (by decide) _ _) (keeps_trans (h.writeDerived (by decide) _ _)
    (keeps_trans (h.writeDerived (by decide) _ _) (h.writeDerived (by decide) _ _)))

theorem KeptBy.activityEvent (x : CrewPosition) (s : State) : Keeps T f s (activityEvent x s) := by
  have hderive : Keeps T f s (s.deriveActivity x) := h.keeps_setCrew s _
  unfold Machine.activityEvent
  split
  · split
    · exact hderive
    · exact keeps_trans hderive (h.raise _ _ _)
  · exact keeps_refl s

theorem KeptBy.tokenEvent (x : CrewPosition) (v : Word32) (s : State) : Keeps T f s (tokenEvent x v s) := by
  unfold Machine.tokenEvent
  split
  · exact keeps_refl s
  · exact keeps_trans (h.keeps_setCrew _ _) (keeps_trans (h.writeRemaining _) (h.offer _ _))

theorem KeptBy.tallyEvent (x : CrewPosition) (c : TallyCounter) (v : Word32) (s : State) :
    Keeps T f s (tallyEvent x c v s) := by
  unfold Machine.tallyEvent
  split
  · exact keeps_refl s
  · have htally := h.keeps_setCrew s (s.crew.updateAttached x (CrewRecord.tally s.tables.crew c (tallySeconds v)))
    dsimp only
    split
    · refine keeps_trans (keeps_trans htally ?_) (h.writeRemaining _)
      split
      · exact keeps_refl _
      · exact h.raise _ _ _
    · exact htally

/-- A reader of a decoded slot keeps the part, the telltales, the detector and UTC by themselves apart. -/
theorem KeptBy.runDecoded (k : Fin 120) (r : Reader)
    (htelltales : r = .telltales → ∀ (s : State) i, f (s.evaluateTelltale i).state = f s)
    (hack : r = .ack → ∀ (s : State) l, f (s.setSeen l) = f s) (htime : r = .time → ∀ (s : State) u, f (s.setUtc u) = f s)
    (s : State) : Keeps T f s (runDecoded k r s) := by
  cases r with
  | telltales =>
    exact keeps_evaluateReaders h.occurring h.publishSevere _ (fun s i _ _ => htelltales rfl s i) s
  | ack => exact keeps_observeAck h.occurring h.publishSevere _ (hack rfl) h.press s
  | road => exact keeps_refl s
  | speed => exact h.writeSelection s
  | activity x => exact h.activityEvent x s
  | token x => exact h.tokenEvent x _ s
  | tally x c => exact h.tallyEvent x c _ s
  | time => exact keeps_of_eq rfl (htime rfl s _)

end

/-! ### The readers of a decoded slot, each once -/

/-- Every reader but one keeps what stands before that one's turn and after it. -/
theorem observe_once {P : State → State → Prop} (refl : ∀ s, P s s) (trans : ∀ {s t u}, P s t → P t u → P s u)
    (choices : ∀ (s : State) n, P s { s with choices := n }) {run : Reader → State → State} {l : List Reader}
    (hnd : l.Nodup) {r : Reader} (hr : r ∈ l) (keep : ∀ s, ∀ q ∈ l, q ≠ r → P s (run q s)) (s : State) :
    ∃ y, P s y ∧ P (run r y) (observe run l s) := by
  unfold observe
  split
  · exact foldl_once refl trans hnd hr keep s
  · have hperm := arrange_perm s.choices l
    obtain ⟨y, hbefore, hafter⟩ := foldl_once refl trans (hperm.nodup_iff.mpr hnd) (hperm.mem_iff.mpr hr)
      (fun s q hq => keep s q (hperm.mem_iff.mp hq)) { s with choices := s.choices + 1 }
    exact ⟨y, trans (choices s _) hbefore, hafter⟩

theorem mem_when_iff {r q : Reader} {b : Bool} : r ∈ q.when b ↔ r = q ∧ b = true := by
  cases b <;> simp [Reader.when]

/-- The readers of a decoded slot are those the manual names (R18, R41, R76, R105, R122, R129, R136, R140). -/
theorem mem_decodedReaders (s : State) (change : SlotChange) (k : Fin 120) (r : Reader) :
    r ∈ s.decodedReaders change k ↔ s.decodedReader change k r := by
  unfold State.decodedReaders State.decodedReader crewReaders
  simp only [List.mem_append, mem_when_iff, telltalesRead_iff, beq_iff_eq, Bool.and_eq_true, Bool.or_eq_true]
  cases r with
  | telltales | ack | speed | time | road => simp
  | activity x | token x => cases x <;> simp [CrewConfig.inputs]
  | tally x c => cases x <;> cases c <;> simp [CrewConfig.inputs]

end Sys2Proof.Machine
end

section
/-! PROOFS. An event of a slot reaches each of its readers (R18): the readers, each once, and what a telltale, a channel, the detector and
UTC take from an event of a decoded slot whatever the order of the readers. -/

namespace Sys2Proof.Machine

/-! ### Each reader once -/

theorem when_sublist (r : Reader) (b : Bool) : (r.when b).Sublist [r] := by
  cases b
  · exact List.nil_sublist _
  · exact List.Sublist.refl _

theorem crewReaders_sublist (i : CrewInputs) (x : CrewPosition) (change : SlotChange) (k : Fin 120) :
    (crewReaders i x change k).Sublist [.activity x, .token x, .tally x .continuous, .tally x .daily] :=
  (((when_sublist _ _).append (when_sublist _ _)).append (when_sublist _ _)).append (when_sublist _ _)

theorem decodedReaders_nodup (s : State) (change : SlotChange) (k : Fin 120) : (s.decodedReaders change k).Nodup := by
  have hdriver := crewReaders_sublist s.tables.crew.driver .driver change k
  have hcoDriver := crewReaders_sublist s.tables.crew.coDriver .coDriver change k
  have hblocks := fun a b c =>
    ((when_sublist .telltales a).append (when_sublist .ack b)).append (when_sublist .speed c)
  unfold State.decodedReaders
  exact ((((hblocks _ _ _).append hdriver).append hcoDriver).append (when_sublist .time _)).nodup (by decide)

/-- Which readers a decoded slot has depends on the tables alone. -/
theorem decodedReader_congr {s t : State} (h : t.tables = s.tables) (change : SlotChange) (k : Fin 120) (r : Reader) :
    t.decodedReader change k r ↔ s.decodedReader change k r := by
  unfold State.decodedReader
  rw [h]

/-- An event of a decoded slot takes each of its readers once (R18). -/
theorem decodedEvent_taken (change : SlotChange) (k : Fin 120) (s : State) :
    EventTaken (decodedSlot k) (s.decodedReader change k) s (decodedEvent change k s) := by
  obtain ⟨order, n, path, hperm, h₀, h₁, hstep⟩ := observe_path (runDecoded k) (s.decodedReaders change k)
    (s.gaugesObserve (decodedSlot k))
  have hreader : ∀ {j : Nat} {r : Reader}, order[j]? = some r → s.decodedReader change k r := fun hj =>
    (mem_decodedReaders s change k _).mp (hperm.mem_iff.mp (List.mem_of_getElem? hj))
  have hstart : (path 0).tables = s.tables := by
    rw [h₀]
    exact ((reacted_gaugesObserve s _).trans (reacted_choices _ n)).tables
  have htables : ∀ j ≤ order.length, (path j).tables = s.tables := fun j => by
    induction j with
    | zero => exact fun _ => hstart
    | succ j ih =>
      intro hj
      rw [hstep j _ (List.getElem?_eq_getElem hj), (observed_runDecoded k _ _).tables]
      exact ih (Nat.le_of_succ_le hj)
  refine ⟨order, n, path, hperm.nodup_iff.mpr (decodedReaders_nodup s change k), fun r => ?_, ?_, h₁, fun j r hj => ?_⟩
  · rw [hperm.mem_iff, mem_decodedReaders]
  · rw [h₀, gaugesObserve_eq]
  · obtain ⟨hlt, -⟩ := List.getElem?_eq_some_iff.mp hj
    rw [hstep j r hj]
    exact runDecoded_spec ((decodedReader_congr (htables j hlt.le) change k r).mpr (hreader hj))

/-- What the readers of a derived slot do stands for every state on the way, the crew's road reading among them. -/
theorem derivedReader_acted {s : State} {k : Fin 128} {r : Reader} (hr : s.derivedReader k r) (x : State) :
    ReaderActed k r x (runDerived publishSevere k r x) := by
  cases r with
  | telltales => exact evaluateReaders_spec ..
  | ack => exact observeAck_spec ..
  | road => exact deriveFromRoad_spec ..
  | speed | activity | token | tally | time => exact hr.elim

/-! ### The derived activity (R122) -/

theorem slotActivity_eq (v : Word32) : slotActivity v = match v.toNat with
    | 0 => .rest
    | 1 => .available
    | 2 => .work
    | 3 => .drive
    | _ => .unknown := by
  unfold slotActivity
  simp only [← BitVec.toNat_inj]
  generalize v.toNat = n
  match n with
  | 0 | 1 | 2 | 3 => rfl
  | n + 4 => simp

theorem derivedActivity_usable {s : State} {x : CrewPosition} {k : Fin 120}
    (hk : (s.tables.crew.inputs x).activity = some k) (hu : (s.slot (decodedSlot k)).usable = true) :
    s.derivedActivity x = slotActivity (s.slot (decodedSlot k)).value := by
  unfold State.derivedActivity
  simp only [hk, hu, if_true]

theorem derivedActivity_unusable {s : State} {x : CrewPosition}
    (h : s.namedUsable (s.tables.crew.inputs x).activity = false) : s.derivedActivity x =
      if (s.slot 120).usable = true ∧ (s.slot 120).value ≠ 0 then .unknown else s.tables.crew.silentActivity := by
  unfold State.derivedActivity
  cases hk : (s.tables.crew.inputs x).activity with
  | none => rfl
  | some k =>
    rw [hk] at h
    have hu : (s.slot (decodedSlot k)).usable = false := h
    simp only [hu]
    rfl

/-! ### The parts that one reader feeds -/

theorem keptBy_telltale {T : Tables} {i : Fin 64} (hi : (T.telltale[i]).source.val < 120) :
    KeptBy T fun s => ((s.telltales.records[i]).state, (s.telltales.records[i]).condition) where
  egress _ _ := rfl
  faults _ _ := rfl
  choices _ _ := rfl
  slot _ _ _ := rfl
  crew _ _ := rfl
  selection _ _ := rfl
  target _ _ _ _ := rfl
  evaluate s j _ hj := by
    obtain ⟨-, -, hrec⟩ := (moving_onlyHeld j).evaluateTelltale s
    rw [hrec i (by rintro rfl; omega)]
  seen _ _ _ _ _ := rfl
  press s hs := by
    have hsource : (s.tables.telltale[i]).source ≠ 127 := by
      rw [hs]
      intro heq
      rw [heq] at hi
      exact absurd hi (by decide)
    obtain ⟨hstate, hcond⟩ := (slot127Stand_press s).2.2 i hsource
    exact Prod.ext hstate hcond

theorem Presented.gauges {s t : State} (h : Presented s t) : t.gauges = s.gauges := by rw [h.rest]

theorem keptBy_target {T : Tables} {ch : Fin 6} (hch : (T.gauge[ch]).source.val < 120) :
    KeptBy T fun s => (s.gauges.channels[ch]).target where
  egress _ _ := rfl
  faults _ _ := rfl
  choices _ _ := rfl
  slot _ _ _ := rfl
  crew _ _ := rfl
  selection _ _ := rfl
  target s j _ hj := by
    have hne : j.val ≠ ch.val := fun heq => by
      rw [Fin.ext heq] at hj
      omega
    exact congrArg Channel.target (Vector.getElem_set_ne j.isLt ch.isLt hne)
  evaluate s i _ _ := by
    rw [((moving_presented i).evaluateTelltale s).gauges]
  seen _ _ _ _ _ := rfl
  press s _ := by
    rw [(presented_press s).gauges]

theorem keptBy_lastSeen {T : Tables} (hack : ∀ k, T.system.ackSlot = some k → k.val < 120) :
    KeptBy T fun s => s.messages.lastSeen where
  egress _ _ := rfl
  faults _ _ := rfl
  choices _ _ := rfl
  slot _ _ _ := rfl
  crew _ _ := rfl
  selection _ _ := rfl
  target _ _ _ _ := rfl
  evaluate s i _ _ := evaluateTelltale_lastSeen s i
  seen _ k _ hk hge := absurd (hack k hk) (by omega)
  press s _ := press_lastSeen s

theorem keptBy_time (T : Tables) : KeptBy T fun s => s.time where
  egress _ _ := rfl
  faults _ _ := rfl
  choices _ _ := rfl
  slot _ _ _ := rfl
  crew _ _ := rfl
  selection _ _ := rfl
  target _ _ _ _ := rfl
  evaluate s i _ _ := ((moving_presented i).evaluateTelltale s).reacted.time
  seen _ _ _ _ _ := rfl
  press s _ := (presented_press s).reacted.time

/-! ### The reader that feeds a part, among the others -/

section
variable {α : Type} {s : State} {f : State → α} (h : KeptBy s.tables f)
include h

/-- When no reader of the slot feeds the part, the event leaves it as the targets' turn did. -/
theorem KeptBy.decodedEvent {change : SlotChange} {k : Fin 120}
    (htelltales : ∀ (s : State) i, f (s.evaluateTelltale i).state = f s) (hack : ∀ (s : State) l, f (s.setSeen l) = f s)
    (htime : s.decodedReader change k .time → ∀ (s : State) u, f (s.setUtc u) = f s) :
    f (decodedEvent change k s) = f (s.targetsTaken (decodedSlot k)) := by
  have hstart : (s.gaugesObserve (decodedSlot k)).tables = s.tables := (reacted_gaugesObserve s _).tables
  rw [← gaugesObserve_eq]
  refine (observe_induction (P := Keeps s.tables f) keeps_refl (fun _ _ _ => keeps_trans)
    (fun s n => keeps_of_eq rfl (h.choices s n)) _ _ (fun r hr x => ?_) hstart).2
  refine h.runDecoded k r (fun _ => htelltales) (fun _ => hack) (fun heq => ?_) x
  rw [heq] at hr
  exact htime ((mem_decodedReaders s change k .time).mp hr)

/-- When one reader of the slot feeds the part, the event leaves it as that reader does, from a state that has it as the targets' turn
left it. -/
theorem KeptBy.decodedEvent_once {change : SlotChange} {k : Fin 120} {r : Reader} (hr : s.decodedReader change k r)
    (htelltales : r ≠ .telltales → ∀ (s : State) i, f (s.evaluateTelltale i).state = f s)
    (hack : r ≠ .ack → ∀ (s : State) l, f (s.setSeen l) = f s)
    (htime : r ≠ .time → ∀ (s : State) u, f (s.setUtc u) = f s) :
    ∃ y, Observed s y ∧ f y = f (s.targetsTaken (decodedSlot k)) ∧
      f (Machine.decodedEvent change k s) = f (Machine.runDecoded k r y) := by
  have hstart : Observed s (s.gaugesObserve (decodedSlot k)) := (reacted_gaugesObserve s _).observed
  obtain ⟨y, ⟨hy, hbefore⟩, -, hafter⟩ := observe_once (P := fun a b => Observed a b ∧ Keeps s.tables f a b)
    (fun a => ⟨.refl a, keeps_refl a⟩) (fun p q => ⟨p.1.trans q.1, keeps_trans p.2 q.2⟩)
    (fun a n => ⟨observed_choices a n, keeps_of_eq rfl (h.choices a n)⟩) (run := Machine.runDecoded k)
    (decodedReaders_nodup s change k) ((mem_decodedReaders s change k r).mpr hr)
    (fun a q _ hq => ⟨observed_runDecoded k q a, h.runDecoded k q (fun heq => htelltales (heq ▸ hq.symm))
      (fun heq => hack (heq ▸ hq.symm)) (fun heq => htime (heq ▸ hq.symm)) a⟩) (s.gaugesObserve (decodedSlot k))
  have hfirst := (hbefore hstart.tables).2
  rw [gaugesObserve_eq] at hfirst
  have htables : (Machine.runDecoded k r y).tables = s.tables :=
    (observed_runDecoded k r y).tables.trans (hy.tables.trans hstart.tables)
  exact ⟨y, hstart.trans hy, hfirst, (hafter htables).2⟩

end

/-! ### Telltales (R77, R78, R80 to R82) -/

theorem evaluatedState_congr {s t : State} {i : Fin 64} (hpart : t.time.part = s.time.part) (htables : t.tables = s.tables)
    (hstate : (t.telltales.records[i]).state = (s.telltales.records[i]).state) (c : Bool) :
    t.evaluatedState i c = s.evaluatedState i c := by
  unfold State.evaluatedState State.fallen
  rw [hpart, htables, hstate]

theorem telltaleActive_congr {s t : State} (hpart : t.time.part = s.time.part) (htables : t.tables = s.tables)
    (i : Fin 64) : t.telltaleActive i = s.telltaleActive i := by
  unfold State.telltaleActive
  rw [hpart, htables]

/-- One telltale's turn of an event of slot `k`. -/
def State.readTurn (k : Fin 128) (s : State) (i : Fin 64) : State :=
  if s.telltaleActive i && (s.tables.telltale[i]).source == k then whole (fun s => s.evaluateTelltale i) s else s

theorem evaluateReaders_eq (k : Fin 128) (s : State) :
    evaluateReaders publishSevere k s = (List.finRange 64).foldl (State.readTurn k) s := rfl

theorem telltaleStands_readTurn {i j : Fin 64} (hij : i ≠ j) (k : Fin 128) (s : State) :
    TelltaleStands i s (s.readTurn k j) := by
  unfold State.readTurn
  split
  · exact telltaleStands_other hij ((moving_presented j).evaluateTelltale s) ((moving_onlyHeld j).evaluateTelltale s)
  · exact telltaleStands_refl i s

theorem evaluateReaders_once (k : Fin 128) (s : State) (i : Fin 64) :
    ∃ y, TelltaleStands i s y ∧ TelltaleStands i (y.readTurn k i) (evaluateReaders publishSevere k s) := by
  rw [evaluateReaders_eq]
  exact foldl_once (telltaleStands_refl i) telltaleStands_trans (List.nodup_finRange 64) (List.mem_finRange i)
    (fun x j _ hj => telltaleStands_readTurn hj.symm k x) s

/-- A telltale's own turn leaves it as its evaluation gives it. -/
theorem readTurn_record {s : State} {i : Fin 64} {k : Fin 128} (hk : k ≠ 127) (hactive : s.telltaleActive i = true)
    (hsource : (s.tables.telltale[i]).source = k) :
    let condition := (s.tables.telltale[i]).condition (s.slot k) (s.telltales.records[i]).condition
    ((s.readTurn k i).telltales.records[i]).condition = condition ∧
      ((s.readTurn k i).telltales.records[i]).state = s.evaluatedState i condition := by
  have hturn : s.readTurn k i = whole (fun s => s.evaluateTelltale i) s := if_pos (by rw [hactive, hsource]; simp)
  have hreact := ((moving_presented i).evaluateTelltale s).reacted
  have hapart : s.apart i := .inr (by rw [hsource]; exact hk)
  obtain ⟨-, hrec⟩ := telltaleStands_reports (f := fun s => s.evaluateTelltale i) (s := s) i
  obtain ⟨hstate, hcond⟩ := hrec ((hreact.apart i).mpr hapart)
  obtain ⟨hnewcond, hnewstate⟩ := evaluateTelltale_record s i
  rw [hsource] at hnewcond hnewstate
  rw [hturn]
  exact ⟨hcond.trans hnewcond, hstate.trans hnewstate⟩

theorem reacted_readTurn (k : Fin 128) (s : State) (i : Fin 64) : Reacted s (s.readTurn k i) := by
  unfold State.readTurn
  split
  · exact reacted_whole (fun s => (moving_presented i).evaluateTelltale s) s
  · exact .refl s

/-- The active telltales on a slot in turn: each is left as its own evaluation gives it. -/
theorem evaluateReaders_record {s : State} {i : Fin 64} {k : Fin 128} (hk : k ≠ 127) (hactive : s.telltaleActive i = true)
    (hsource : (s.tables.telltale[i]).source = k) :
    let condition := (s.tables.telltale[i]).condition (s.slot k) (s.telltales.records[i]).condition
    let t := evaluateReaders publishSevere k s
    (t.telltales.records[i]).condition = condition ∧ (t.telltales.records[i]).state = s.evaluatedState i condition := by
  have hapart : s.apart i := .inr (by rw [hsource]; exact hk)
  obtain ⟨y, ⟨hy, hbefore⟩, -, hafter⟩ := evaluateReaders_once k s i
  have hpart : y.time.part = s.time.part := congrArg TimeBase.part hy.time
  obtain ⟨hstate, hcond⟩ := hbefore hapart
  obtain ⟨hstate', hcond'⟩ := hafter (((hy.trans (reacted_readTurn k y i)).apart i).mpr hapart)
  obtain ⟨hnewcond, hnewstate⟩ := readTurn_record (s := y) (i := i) hk
    ((telltaleActive_congr hpart hy.tables i).trans hactive) (by rw [hy.tables]; exact hsource)
  have hslot : y.slot k = s.slot k := hy.slots k hk
  rw [hy.tables, hslot, hcond] at hnewcond hnewstate
  rw [evaluatedState_congr hpart hy.tables hstate] at hnewstate
  exact ⟨hcond'.trans hnewcond, hstate'.trans hnewstate⟩

/-! ### What each part takes from an event of a decoded slot -/

theorem targetsTaken_rest (s : State) (k : Fin 128) : (s.targetsTaken k).telltales = s.telltales ∧
    (s.targetsTaken k).messages = s.messages ∧ (s.targetsTaken k).time = s.time := by
  unfold State.targetsTaken
  exact ⟨rfl, rfl, rfl⟩

theorem runDecoded_telltales (k : Fin 120) (s : State) :
    runDecoded k .telltales s = evaluateReaders publishSevere (decodedSlot k) s := rfl

theorem decodedSlot_ne (k : Fin 120) : decodedSlot k ≠ 127 := fun h => by
  have hval : k.val = 127 := congrArg Fin.val h
  omega

section
variable {s : State} (change : SlotChange) (k : Fin 120)

theorem decodedEvent_telltale {i : Fin 64} (hactive : s.telltaleActive i = true)
    (hsource : (s.tables.telltale[i]).source = decodedSlot k) :
    let condition := (s.tables.telltale[i]).condition (s.slot (decodedSlot k)) (s.telltales.records[i]).condition
    let t := decodedEvent change k s
    (t.telltales.records[i]).condition = condition ∧ (t.telltales.records[i]).state = s.evaluatedState i condition := by
  have hvalid : (s.tables.telltale[i]).valid = true := (Bool.and_eq_true_iff.mp hactive).1
  obtain ⟨y, hy, hfirst, hlast⟩ := (keptBy_telltale (T := s.tables) (i := i) (by rw [hsource]; exact k.isLt)).decodedEvent_once
    (change := change) (k := k) (r := .telltales) ⟨i, hvalid, hsource⟩ (absurd rfl) (fun _ _ _ => rfl) (fun _ _ _ => rfl)
  rw [(targetsTaken_rest s _).1] at hfirst
  obtain ⟨hstate, hcond⟩ := Prod.ext_iff.mp hfirst
  rw [runDecoded_telltales] at hlast
  obtain ⟨hstate', hcond'⟩ := Prod.ext_iff.mp hlast
  have hpart : y.time.part = s.time.part := by rw [hy.time]
  obtain ⟨hnewcond, hnewstate⟩ := evaluateReaders_record (s := y) (i := i) (decodedSlot_ne k)
    ((telltaleActive_congr hpart hy.tables i).trans hactive) (by rw [hy.tables]; exact hsource)
  have hslot : y.slot (decodedSlot k) = s.slot (decodedSlot k) := hy.slots _ (.inl k.isLt)
  dsimp only at hstate hcond hstate' hcond'
  rw [hy.tables, hslot, hcond] at hnewcond hnewstate
  rw [evaluatedState_congr hpart hy.tables hstate] at hnewstate
  exact ⟨hcond'.trans hnewcond, hstate'.trans hnewstate⟩

theorem decodedEvent_target {ch : Fin 6}
    (hfollows : (s.gauges.channels[ch]).state = .homing ∨ (s.gauges.channels[ch]).state = .tracking)
    (hsource : (s.tables.gauge[ch]).source = decodedSlot k) :
    ((decodedEvent change k s).gauges.channels[ch]).target = (s.tables.gauge[ch]).target
      s.tables.curve[(s.tables.gauge[ch]).curve] (s.slot (decodedSlot k)) (s.gauges.channels[ch]).target := by
  have hkept := (keptBy_target (T := s.tables) (ch := ch) (by rw [hsource]; exact k.isLt)).decodedEvent (change := change) (k := k)
    (fun s i => by rw [((moving_presented i).evaluateTelltale s).gauges]) (fun _ _ => rfl) (fun _ _ _ => rfl)
  refine hkept.trans ?_
  unfold State.targetsTaken
  dsimp only
  rw [Fin.getElem_fin, Vector.getElem_ofFn, if_pos ⟨hfollows, hsource⟩]

theorem observeAck_lastSeen {s : State} {k : Fin 128} (h : KeptBy s.tables fun s => s.messages.lastSeen) :
    (observeAck publishSevere k s).messages.lastSeen = (s.slot k).seen := by
  unfold observeAck
  dsimp only
  split
  · have hpress := (presented_press (s.setSeen (s.slot k).seen)).reacted.tables
    exact (h.reported _ hpress).2.trans (press_lastSeen _)
  · rfl

theorem decodedEvent_lastSeen (hack : s.tables.system.ackSlot = some (decodedSlot k)) :
    (decodedEvent change k s).messages.lastSeen = (s.slot (decodedSlot k)).seen := by
  have hkept : KeptBy s.tables fun s => s.messages.lastSeen := keptBy_lastSeen fun j hj => by
    rw [hack] at hj
    rw [← Option.some.inj hj]
    exact k.isLt
  obtain ⟨y, hy, -, hlast⟩ := hkept.decodedEvent_once (change := change) (k := k) (r := .ack) hack
    (fun _ => evaluateTelltale_lastSeen) (absurd rfl) (fun _ _ _ => rfl)
  rw [← hy.tables] at hkept
  have hslot : y.slot (decodedSlot k) = s.slot (decodedSlot k) := hy.slots _ (.inl k.isLt)
  rw [hlast, ← hslot]
  exact observeAck_lastSeen hkept

theorem decodedEvent_utc (hk : s.tables.crew.timeSlot = some k) :
    (decodedEvent .value k s).time.utc = (s.slot (decodedSlot k)).value ∧ (decodedEvent .value k s).time.utcValid = true := by
  obtain ⟨y, hy, -, hlast⟩ := (keptBy_time s.tables).decodedEvent_once (change := .value) (k := k) (r := .time) ⟨rfl, hk⟩
    (fun _ s i => ((moving_presented i).evaluateTelltale s).reacted.time) (fun _ _ _ => rfl) (absurd rfl)
  have hslot : y.slot (decodedSlot k) = s.slot (decodedSlot k) := hy.slots _ (.inl k.isLt)
  rw [hlast, ← hslot]
  exact ⟨rfl, rfl⟩

theorem decodedEvent_time (hk : ¬ (change = .value ∧ s.tables.crew.timeSlot = some k)) :
    (decodedEvent change k s).time = s.time := by
  have hkept := (keptBy_time s.tables).decodedEvent (change := change) (k := k)
    (fun s i => ((moving_presented i).evaluateTelltale s).reacted.time) (fun _ _ => rfl) (fun hread => absurd hread hk)
  rw [hkept]
  exact (targetsTaken_rest s _).2.2

end

/-- Settles O21: the readers' path from the free order; and each part that one reader feeds, since every other reader keeps it. -/
theorem slotEventReachesItsReaders : Obligations.SlotEventReachesItsReaders := by
  refine ⟨decodedEvent_taken, fun k s => derivedEvent_taken s fun r hr x => derivedReader_acted hr x, fun s x => ⟨?_, ?_⟩,
    fun change k s => ⟨fun i => decodedEvent_telltale change k, fun ch => decodedEvent_target change k,
      decodedEvent_lastSeen change k, ?_, ?_⟩⟩
  · exact fun k hk hu => (derivedActivity_usable hk hu).trans (slotActivity_eq _)
  · exact derivedActivity_unusable
  · rintro rfl hk
    exact decodedEvent_utc k hk
  · rintro hk
    exact decodedEvent_time change k (fun hand => hk.elim (absurd hand.1) (absurd hand.2))

end Sys2Proof.Machine
end

section
/-! PROOFS. The plausibility tick, and the selection that an event of a source slot makes (R43 to R48). -/

namespace Sys2Proof.Machine

/-! ### Sampling and evaluation (R44 to R46) -/

theorem pairUsable_iff (s : State) : s.pairUsable = true ↔
    s.namedUsable s.tables.system.primarySpeed = true ∧ s.namedUsable s.tables.system.secondarySpeed = true :=
  Bool.and_eq_true_iff

theorem emptied_eq (a : ArbitrationState) : a.emptied = if a = .agree then .learning else a := by
  cases a <;> rfl

theorem evaluate_eq (a : ArbitrationState) (sum enter leave : Nat) : a.evaluate sum enter leave =
    if a = .conflict then (if sum < leave then .agree else .conflict) else if enter < sum then .conflict else .agree := by
  cases a <;> rfl

theorem evaluate_ne_learning (a : ArbitrationState) (sum enter leave : Nat) : a.evaluate sum enter leave ≠ .learning := by
  rw [evaluate_eq]
  split <;> split <;> decide

section
variable {s : State}

theorem sampleSpeed_unpaired (h : s.pairUsable ≠ true) :
    sampleSpeed s = s.setRing s.speed.ring.empty s.speed.state.emptied := by
  simp [sampleSpeed, State.sampledRing, h]

variable {r : PairRing} (h : s.pairUsable = true)
  (hr : s.speed.ring.push (s.namedValue s.tables.system.primarySpeed, s.namedValue s.tables.system.secondarySpeed) = r)
include h hr

theorem sampleSpeed_filling (hcount : r.count ≠ 8) : sampleSpeed s = s.setRing r s.speed.state := by
  simp [sampleSpeed, State.sampledRing, h, hr, hcount]

variable (hcount : r.count = 8) {a : ArbitrationState}
  (ha : s.speed.state.evaluate r.sum s.tables.system.conflictEnter s.tables.system.conflictLeave = a)
include hcount ha

theorem sampleSpeed_full : sampleSpeed s =
    if s.speed.state ≠ .conflict ∧ a = .conflict then
      raise .speedConflict (.sum (min r.sum Config.word32Top)) (s.setRing { r with lastSum := some r.sum } a)
    else s.setRing { r with lastSum := some r.sum } a := by
  simp [sampleSpeed, State.sampledRing, h, hr, hcount, ha]

/-- A move to CONFLICT raises SPEED_CONFLICT with the sum (R45, R46). -/
theorem sampleSpeed_told :
    if s.speed.state ≠ .conflict ∧ a = .conflict then
      Raised (s.setRing { r with lastSum := some r.sum } a) .speedConflict (.sum (min r.sum 4294967295)) (sampleSpeed s)
    else sampleSpeed s = s.setRing { r with lastSum := some r.sum } a := by
  rw [sampleSpeed_full h hr hcount ha]
  split
  · exact raise_spec ..
  · rfl

end

theorem exec_plausibilityTick {s : State} (hs : s.awake = true) :
    exec .plausibilityTick s = .next (if s.speed.tick = some 0 then plausibilityTicked s else s) := by
  simp [exec, execPlausibilityTick, onAwake_of_awake hs]

/-- Settles O22: the tick restarts the interval, samples by the three cases above, and selects by `writeSelection_spec`. -/
theorem plausibilityTickSamplesEvaluatesSelects : Obligations.PlausibilityTickSamplesEvaluatesSelects := by
  intro s hs
  refine ⟨fun hdue => ?_, fun hdue => by rw [exec_plausibilityTick hs, if_neg hdue]⟩
  intro old pushed sum both ring after v
  refine ⟨sampleSpeed (s.setPlausibility (some Config.plausibilityInterval)), _,
    by rw [exec_plausibilityTick hs, if_pos hdue]; rfl, ?_, writeSelection_spec _⟩
  by_cases hboth : both
  · have hpair : (s.setPlausibility (some Config.plausibilityInterval)).pairUsable = true := (pairUsable_iff s).2 hboth
    by_cases hfull : pushed.count = 8
    · have hring : ring = { pushed with lastSum := some sum } := (if_pos hboth).trans (if_pos hfull)
      have hafter : s.speed.state.evaluate sum s.tables.system.conflictEnter s.tables.system.conflictLeave = after :=
        (evaluate_eq ..).trans ((if_pos hboth).trans (if_pos hfull)).symm
      simp only [v, hring]
      exact sampleSpeed_told hpair rfl hfull hafter
    · have hring : ring = pushed := (if_pos hboth).trans (if_neg hfull)
      have hafter : after = s.speed.state := (if_pos hboth).trans (if_neg hfull)
      rw [if_neg fun hmove => hmove.1 (hafter.symm.trans hmove.2)]
      simp only [v, hring, hafter]
      exact sampleSpeed_filling hpair rfl hfull
  · have hring : ring = s.speed.ring.empty := if_neg hboth
    have hafter : after = s.speed.state.emptied := (if_neg hboth).trans (emptied_eq _).symm
    have hstays : ¬ (s.speed.state ≠ .conflict ∧ after = .conflict) := by
      rw [hafter]
      cases s.speed.state <;> decide
    rw [if_neg hstays]
    simp only [v, hring, hafter]
    exact sampleSpeed_unpaired fun hpair => hboth ((pairUsable_iff s).1 hpair)

/-! ### The selection among a slot's readers (R47, R48) -/

/-- What a selection reads and writes stands: the tables, the speed arbitration, the decoded slots, ROAD_SPEED and
SPEED_SOURCE. -/
structure SelectionStands (s t : State) : Prop where
  tables : t.tables = s.tables
  speed : t.speed = s.speed
  slots : ∀ j : Fin 128, j.val < 122 → t.slot j = s.slot j

theorem SelectionStands.refl (s : State) : SelectionStands s s := ⟨rfl, rfl, fun _ _ => rfl⟩

theorem SelectionStands.trans {s t u : State} (h : SelectionStands s t) (g : SelectionStands t u) : SelectionStands s u :=
  ⟨g.tables.trans h.tables, g.speed.trans h.speed, fun j hj => (g.slots j hj).trans (h.slots j hj)⟩

theorem Reacted.selectionStands {s t : State} (h : Reacted s t) : SelectionStands s t :=
  ⟨h.tables, h.speed, fun j hj => h.slots j (by rintro rfl; exact absurd hj (by decide))⟩

theorem selectionStands_setCrew (s : State) (c : Crew) : SelectionStands s (s.setCrew c) := ⟨rfl, rfl, fun _ _ => rfl⟩

theorem selectionStands_writeDerived {k : Fin 128} (hk : 122 ≤ k.val) (x : Slot) (s : State) :
    SelectionStands s (writeDerived k x s) := by
  have hset : SelectionStands s (s.setSlot k x) :=
    ⟨rfl, rfl, fun j hj => (slot_setSlot s k j x).trans (if_neg (by rintro rfl; omega))⟩
  obtain ⟨hspeed, hslots⟩ := derivedEvent_keeps k (s.setSlot k x)
  exact hset.trans ⟨(observed_derivedEvent k _).tables, hspeed,
    fun j hj => hslots j (by rintro rfl; exact absurd hj (by decide))⟩

theorem selectionStands_writeRemaining (s : State) : SelectionStands s (writeRemaining s) := by
  unfold writeRemaining remainingSlots
  simp only [List.foldl_cons, List.foldl_nil]
  exact (((selectionStands_writeDerived (by decide) _ _).trans (selectionStands_writeDerived (by decide) _ _)).trans
    (selectionStands_writeDerived (by decide) _ _)).trans (selectionStands_writeDerived (by decide) _ _)

theorem selectionStands_raise (c : FaultClass) (d : FaultDetail) (s : State) : SelectionStands s (raise c d s) :=
  (reacted_raise c d s).selectionStands

/-- Every reader of a decoded slot but Speed Arbitration leaves the selection and its two slots alone. -/
theorem selectionStands_runDecoded (k : Fin 120) {r : Reader} (hr : r ≠ .speed) (s : State) :
    SelectionStands s (runDecoded k r s) := by
  cases r with
  | telltales => exact (reacted_evaluateReaders reacted_publishSevere _ s).selectionStands
  | ack => exact (reacted_observeAck reacted_publishSevere _ s).selectionStands
  | road => exact .refl s
  | speed => exact absurd rfl hr
  | activity x =>
    have hderive : SelectionStands s (s.deriveActivity x) := selectionStands_setCrew s _
    show SelectionStands s (activityEvent x s)
    unfold activityEvent
    split
    · split
      · exact hderive
      · exact hderive.trans (selectionStands_raise ..)
    · exact .refl s
  | token x =>
    show SelectionStands s (tokenEvent x _ s)
    unfold tokenEvent
    split
    · exact .refl s
    · exact ((selectionStands_setCrew s _).trans (selectionStands_writeRemaining _)).trans
        (reacted_offer _ _).selectionStands
  | tally x c =>
    show SelectionStands s (tallyEvent x c _ s)
    unfold tallyEvent
    split
    · exact .refl s
    · dsimp only
      split
      · refine SelectionStands.trans ?_ (selectionStands_writeRemaining _)
        split
        · exact selectionStands_setCrew s _
        · exact (selectionStands_setCrew s _).trans (selectionStands_raise ..)
      · exact selectionStands_setCrew s _
  | time => exact ⟨rfl, rfl, fun _ _ => rfl⟩

section
variable {s t : State} (h : SelectionStands s t)
include h

theorem SelectionStands.slot (k : Fin 120) : t.slot (decodedSlot k) = s.slot (decodedSlot k) :=
  h.slots _ (Nat.lt_trans k.isLt (by decide))

theorem SelectionStands.namedUsable (k : Option (Fin 120)) : t.namedUsable k = s.namedUsable k := by
  cases k with
  | none => rfl
  | some k => exact congrArg Slot.usable (h.slot k)

theorem SelectionStands.selectSpeed : t.selectSpeed = s.selectSpeed := by
  unfold State.selectSpeed
  simp only [h.namedUsable, h.tables, h.speed]

theorem SelectionStands.roadContent (sel : Selection) : t.roadContent sel = s.roadContent sel := by
  have hsource : ∀ k, t.sourceContent k = s.sourceContent k := fun k => by
    cases k with
    | none => simp only [State.sourceContent, h.slots 120 (by decide)]
    | some k => simp only [State.sourceContent, h.slot k]
  unfold State.roadContent
  rw [h.tables, hsource, hsource, h.slots 120 (by decide)]

end

/-- An event of a source slot makes one selection, from the state as the event finds it, whatever the order of the slot's
readers. -/
theorem decodedEvent_selects {change : SlotChange} {k : Fin 120} {s : State} (hk : s.decodedReader change k .speed) :
    let t := decodedEvent change k s
    t.speed.selection = s.selectSpeed ∧ t.slot 120 = s.roadContent s.selectSpeed ∧ t.slot 121 = s.selectSpeed.content := by
  obtain ⟨y, hbefore, hafter⟩ := observe_once .refl .trans (fun s n => (reacted_choices s n).selectionStands)
    (decodedReaders_nodup s change k) ((mem_decodedReaders s change k .speed).mpr hk)
    (fun s _ _ hq => selectionStands_runDecoded k hq s) (s.gaugesObserve (decodedSlot k))
  have hstands : SelectionStands s y := (reacted_gaugesObserve s _).selectionStands.trans hbefore
  have hselected : Selected y (runDecoded k .speed y) := writeSelection_spec y
  rw [← hstands.selectSpeed, ← hstands.roadContent]
  refine ⟨?_, (hafter.slots 120 (by decide)).trans hselected.road, (hafter.slots 121 (by decide)).trans hselected.source⟩
  exact congrArg Speed.selection (hafter.speed.trans hselected.selection)

/-- Settles O23: R47's table as it stands in `selectSpeed`, and what `decodedEvent_selects` writes for each of its lines. -/
theorem sourceEventsSelectTheRoadSpeed : Obligations.SourceEventsSelectTheRoadSpeed := by
  refine ⟨fun s => rfl, fun change k s hk => ?_⟩
  obtain ⟨hselection, hroad, hsource⟩ := decodedEvent_selects (change := change) (k := k) (s := s) hk
  refine ⟨hselection, fun p hsel hp => ?_, fun p hsel hp => ?_, fun hsel => ?_⟩ <;> rw [hroad, hsource, hsel]
  · exact ⟨by simp only [State.roadContent, State.sourceContent, hp], rfl⟩
  · exact ⟨by simp only [State.roadContent, State.sourceContent, hp], rfl⟩
  · exact ⟨rfl, rfl⟩

end Sys2Proof.Machine
end
section
/-! PROOFS. What the gauge and speed laws speak of (R45, R58 to R61): the channels one by one, the pair ring with the arbitration
state, and what each update of them keeps. -/

namespace Sys2Proof.Machine

/-! ### One channel -/

/-- The laws of one channel under its entry (R54, R58 to R61). -/
structure ChannelLawful (e : GaugeEntry) (c : Channel) : Prop where
  entry : e.ok = true
  position : c.position ≤ e.maxPos
  target : c.state ∈ [ChannelState.homing, .tracking, .parking] → c.target ≤ e.maxPos
  filter : c.state = .tracking → c.filter ≤ 16 * e.maxPos

theorem gaugeLaws_iff {s : State} (hs : Tables.ok s.tables) :
    GaugeLaws s ↔ ∀ ch : Fin 6, ChannelLawful s.tables.gauge[ch] s.gauges.channels[ch] := by
  obtain ⟨-, -, -, -, hgauge, -⟩ := hs
  exact ⟨fun h ch => ⟨hgauge ch, h.position ch, h.target ch, h.filter ch⟩,
    fun h => ⟨fun ch => (h ch).position, fun ch => (h ch).target, fun ch => (h ch).filter⟩⟩

theorem GaugeEntry.park_le {e : GaugeEntry} (he : e.ok = true) : e.park ≤ e.maxPos := by
  simp only [GaugeEntry.ok, Bool.and_eq_true, decide_eq_true_eq] at he
  obtain ⟨-, hpark⟩ := he
  exact hpark

/-- A target once evaluated lies within MaxPos: the curve value is held there, Park is there, and HOLD keeps one that was (R58,
R59). -/
theorem GaugeEntry.target_le {e : GaugeEntry} (he : e.ok = true) (c : Curve) (x : Slot) {before : Nat}
    (hb : before ≤ e.maxPos) : e.target c x before ≤ e.maxPos := by
  have hpark := e.park_le he
  unfold GaugeEntry.target
  cases x.quality with
  | fresh | held =>
    dsimp only
    split
    · exact Nat.min_le_right _ _
    · exact hpark
  | stale | unknown => dsimp only; cases e.stalePolicy <;> assumption
  | notAvailable | error => exact hpark

/-- A truncated quotient lies between 0 and what is divided. -/
theorem tdiv_between (d : Int) (k : Nat) : (0 ≤ d → 0 ≤ d.tdiv (2 ^ k) ∧ d.tdiv (2 ^ k) ≤ d) ∧
    (d ≤ 0 → d ≤ d.tdiv (2 ^ k) ∧ d.tdiv (2 ^ k) ≤ 0) := by
  have hnonneg : ∀ d : Int, 0 ≤ d → 0 ≤ d.tdiv (2 ^ k) ∧ d.tdiv (2 ^ k) ≤ d := fun d hd =>
    ⟨Int.tdiv_nonneg hd (by positivity), Int.tdiv_le_self _ hd⟩
  refine ⟨hnonneg d, fun hd => ?_⟩
  have h := hnonneg (-d) (by omega)
  rw [Int.neg_tdiv] at h
  omega

/-- A damping step does not pass its goal, so the filter state stays below a bound that both keep (R60). -/
theorem damped_le {k target filter m : Nat} (ht : 16 * target ≤ m) (hf : filter ≤ m) : damped k target filter ≤ m := by
  unfold damped
  dsimp only
  obtain ⟨hup, hdown⟩ := tdiv_between (16 * (target : Int) - filter) k
  generalize (16 * (target : Int) - filter).tdiv (2 ^ k) = q at hup hdown
  split
  · split <;> omega
  · omega

theorem movedPosition_le (vmax maxPos filter position : Nat) : movedPosition vmax maxPos filter position ≤ maxPos :=
  Nat.min_le_right _ _

section
variable {e : GaugeEntry} {c : Channel}

/-- A channel in a state that nothing drives is lawful by its position alone. -/
theorem channelLawful_idle (he : e.ok = true) (hp : c.position ≤ e.maxPos)
    (hs : c.state ∉ [ChannelState.homing, .tracking, .parking]) : ChannelLawful e c :=
  ⟨he, hp, fun h => absurd h hs, fun h => absurd (by rw [h]; decide) hs⟩

/-- So is one with a target within MaxPos, in any state but TRACKING. -/
theorem channelLawful_aimed (he : e.ok = true) (hp : c.position ≤ e.maxPos) (ht : c.target ≤ e.maxPos)
    (hs : c.state ≠ .tracking) : ChannelLawful e c := ⟨he, hp, fun _ => ht, fun h => absurd h hs⟩

theorem startHoming_lawful (he : e.ok = true) (ht : c.target ≤ e.maxPos) : ChannelLawful e (c.startHoming e) :=
  channelLawful_aimed he (Nat.min_le_right _ _) ht (by simp [Channel.startHoming])

theorem rewrite_lawful (he : e.ok = true) (part : PartState) : ChannelLawful e (c.rewrite e part) := by
  cases part with
  | homing | run | standby => exact startHoming_lawful he (e.park_le he)
  | unconfigured | waking | sleep => exact channelLawful_idle he (Nat.zero_le _) (by simp [Channel.rewrite])

/-- Homing that ends leaves the pointer at the stop, in a state that HOMING's own target suits (R64). -/
theorem endHoming_lawful (he : e.ok = true) (ht : c.target ≤ e.maxPos) (part : PartState) :
    ChannelLawful e (c.endHoming e part) :=
  ⟨he, Nat.zero_le _, fun _ => ht, fun _ => Nat.zero_le _⟩

/-- A position of a PARKING channel may have come to rest (R68). -/
theorem parkedIfHome_lawful (h : ChannelLawful e c) : ChannelLawful e (c.parkedIfHome e) := by
  unfold Channel.parkedIfHome
  split
  · exact channelLawful_idle h.entry h.position (by cases e.valid <;> simp)
  · exact h

variable (h : ChannelLawful e c)
include h

theorem evaluated_lawful (k : Curve) (x : Slot) : ChannelLawful e { c with target := e.target k x c.target } :=
  ⟨h.entry, h.position, fun hs => e.target_le h.entry k x (h.target hs), h.filter⟩

theorem track_lawful : ChannelLawful e (c.track e) := by
  refine ⟨h.entry, movedPosition_le .., h.target, fun hs => ?_⟩
  replace hs : c.state = .tracking := hs
  exact damped_le (Nat.mul_le_mul_left 16 (h.target (by simp [hs]))) (h.filter hs)

theorem park_lawful (hs : c.state = .parking) : ChannelLawful e (c.park e) :=
  parkedIfHome_lawful (channelLawful_aimed h.entry ((Nat.sub_le _ _).trans h.position) (h.target (by rw [hs]; decide))
    (hs.trans_ne (by decide)))

theorem driveHome_lawful (hs : c.state = .homing) : ChannelLawful e c.driveHome :=
  channelLawful_aimed h.entry ((Nat.sub_le _ _).trans h.position) (h.target (by rw [hs]; decide))
    (hs.trans_ne (by decide))

theorem standby_lawful : ChannelLawful e (c.standby e) := by
  unfold Channel.standby
  split
  · exact parkedIfHome_lawful (channelLawful_aimed h.entry h.position (Nat.zero_le _) (by simp))
  · exact parkedIfHome_lawful (channelLawful_aimed h.entry h.position (Nat.zero_le _) (by simp))
  · split <;> exact channelLawful_idle h.entry (Nat.zero_le _) (by simp)
  all_goals exact h

theorem homingEntry_lawful : ChannelLawful e (c.homingEntry e) := by
  have hpark := e.park_le h.entry
  unfold Channel.homingEntry
  dsimp only
  split
  · exact startHoming_lawful h.entry hpark
  · split
    · next hs => exact channelLawful_aimed h.entry h.position hpark (hs.trans_ne (by decide))
    · exact channelLawful_idle h.entry h.position (by simp)

theorem sectionReset_lawful (part : PartState) : ChannelLawful e (c.sectionReset e part) := by
  unfold Channel.sectionReset
  dsimp only
  split
  · exact startHoming_lawful h.entry (e.park_le h.entry)
  · exact ⟨h.entry, h.position, h.target, h.filter⟩

theorem stalled_lawful (hs : c.state = .tracking ∨ c.state = .parking) : ChannelLawful e (c.stalled e) := by
  have ht : c.target ≤ e.maxPos := h.target (by rcases hs with hs | hs <;> rw [hs] <;> decide)
  unfold Channel.stalled
  dsimp only
  split
  · exact channelLawful_idle h.entry h.position (by simp)
  · exact startHoming_lawful h.entry ht

end

/-! ### The ring -/

theorem speedLaws_emptied {s : State} (hr : s.speed.ring.count = 0) (ha : s.speed.state ≠ .agree) : SpeedLaws s :=
  ⟨by omega, fun _ => by omega, fun h => absurd h ha⟩

/-! ### What an operation keeps -/

/-- An operation keeps every lawful channel lawful, and the laws of Speed Arbitration. -/
structure LawsKept (s t : State) : Prop where
  channel : ∀ ch : Fin 6, ChannelLawful s.tables.gauge[ch] s.gauges.channels[ch] →
    ChannelLawful t.tables.gauge[ch] t.gauges.channels[ch]
  speed : SpeedLaws s → SpeedLaws t

/-- The part of the state that the laws read. -/
def State.motion (s : State) : Vector GaugeEntry 6 × Vector Channel 6 × PairRing × ArbitrationState :=
  (s.tables.gauge, s.gauges.channels, s.speed.ring, s.speed.state)

theorem LawsKept.refl (s : State) : LawsKept s s := ⟨fun _ => id, id⟩

theorem LawsKept.trans {s t u : State} (h : LawsKept s t) (g : LawsKept t u) : LawsKept s u :=
  ⟨fun ch => g.channel ch ∘ h.channel ch, g.speed ∘ h.speed⟩

theorem lawsKept_of_motion {s t : State} (h : t.motion = s.motion) : LawsKept s t := by
  simp only [State.motion, Prod.mk.injEq] at h
  obtain ⟨hgauge, hchannels, hring, hstate⟩ := h
  refine ⟨fun ch => by rw [hgauge, hchannels]; exact id, fun hs => ?_⟩
  exact ⟨by rw [hring]; exact hs.count, by rw [hring, hstate]; exact hs.learning, by rw [hring, hstate]; exact hs.agree⟩

/-- An operation followed by an update outside that part. -/
theorem LawsKept.same {s t u : State} (h : LawsKept s t) (hu : u.motion = t.motion) : LawsKept s u :=
  h.trans (lawsKept_of_motion hu)

/-- An operation after an update outside that part. -/
theorem LawsKept.after {s t u : State} (h : LawsKept u t) (hu : u.motion = s.motion) : LawsKept s t :=
  (lawsKept_of_motion hu).trans h

theorem Presented.lawsKept {s t : State} (h : Presented s t) : LawsKept s t :=
  lawsKept_of_motion (by rw [h.rest]; rfl)

theorem lawsKept_foldl {α : Type} {f : State → α → State} (hf : ∀ s a, LawsKept s (f s a)) (l : List α) (s : State) :
    LawsKept s (l.foldl f s) := by
  induction l generalizing s with
  | nil => exact .refl s
  | cons a l ih => exact (hf s a).trans (ih _)

/-- One channel changes. -/
theorem lawsKept_setChannel {s : State} {ch : Fin 6} {c : Channel}
    (h : ChannelLawful s.tables.gauge[ch] s.gauges.channels[ch] → ChannelLawful s.tables.gauge[ch] c) :
    LawsKept s (s.setChannel ch c) where
  channel j hj := by
    by_cases heq : ch = j
    · subst heq
      simpa using h hj
    · have hne : ch.val ≠ j.val := fun hval => heq (Fin.ext hval)
      simpa [Vector.getElem_set_ne _ _ hne] using hj
  speed hs := ⟨hs.count, hs.learning, hs.agree⟩

/-- Every channel changes by its own entry. -/
theorem lawsKept_mapChannels (s : State) {f : Channel → GaugeEntry → Channel}
    (h : ∀ c e, ChannelLawful e c → ChannelLawful e (f c e)) : LawsKept s (s.mapChannels f) where
  channel ch hch := by simpa [State.mapChannels] using h _ _ hch
  speed hs := ⟨hs.count, hs.learning, hs.agree⟩

/-- The ring and the arbitration state change. -/
theorem lawsKept_setRing {s : State} {r : PairRing} {a : ArbitrationState} (h : SpeedLaws s → SpeedLaws (s.setRing r a)) :
    LawsKept s (s.setRing r a) := ⟨fun _ => id, h⟩

theorem lawsKept_relearn (s : State) : LawsKept s s.relearn :=
  lawsKept_setRing fun _ => speedLaws_emptied rfl (by simp [State.setRing])

/-- A ring is emptied for want of a pair or at STANDBY entry (R44, R50). -/
theorem lawsKept_emptied (s : State) : LawsKept s (s.setRing s.speed.ring.empty s.speed.state.emptied) :=
  lawsKept_setRing fun _ => speedLaws_emptied rfl (by
    show s.speed.state.emptied ≠ .agree
    cases s.speed.state <;> decide)

/-! ### Events -/

theorem lawsKept_evaluateTarget (s : State) (ch : Fin 6) : LawsKept s (s.evaluateTarget ch) :=
  lawsKept_setChannel fun h => evaluated_lawful h _ _

/-- An event of a slot and all that its readers do evaluates targets, and leaves the rest as it stands (R18, R57). -/
theorem lawsKept_events : ClosedEvents LawsKept where
  refl := .refl
  trans := .trans
  egress _ _ _ _ := lawsKept_of_motion rfl
  record _ _ _ _ _ := lawsKept_of_motion rfl
  choices _ _ := lawsKept_of_motion rfl
  severe _ := lawsKept_of_motion rfl
  target := lawsKept_evaluateTarget
  evaluate s i _ := (presented_evaluateTelltale s i).lawsKept
  seen _ _ := lawsKept_of_motion rfl
  press s := (presented_press s).lawsKept
  activity _ _ := lawsKept_of_motion rfl
  token _ _ _ _ _ := lawsKept_of_motion rfl
  tally _ _ _ _ := lawsKept_of_motion rfl
  utc _ _ := lawsKept_of_motion rfl
  selection _ _ := lawsKept_of_motion rfl
  slot _ _ _ _ _ := lawsKept_of_motion rfl

end Sys2Proof.Machine
end

section
/-! PROOFS. What the operations keep of the gauge and speed laws (R45, R58 to R61): reactions, the channels' work, sampling, and
the moves of the part. -/

namespace Sys2Proof.Machine

/-! ### Updates outside the part that the laws read -/

section
variable (s : State)

@[simp] theorem setPlausibility_motion (t : Timer) : (s.setPlausibility t).motion = s.motion := rfl
@[simp] theorem setSilence_motion (x : Silence) : (s.setSilence x).motion = s.motion := rfl
@[simp] theorem timeHomingEntry_motion : s.timeHomingEntry.motion = s.motion := rfl
@[simp] theorem timeStandbyEntry_motion : s.timeStandbyEntry.motion = s.motion := rfl
@[simp] theorem setPart_motion (p : PartState) : (s.setPart p).motion = s.motion := rfl
@[simp] theorem startSettle_motion : s.startSettle.motion = s.motion := rfl
@[simp] theorem reportBulbEnd_motion : s.reportBulbEnd.motion = s.motion := rfl
@[simp] theorem reportGauges_motion : s.reportGauges.motion = s.motion := rfl
@[simp] theorem setBulbCheck_motion (t : Timer) : (s.setBulbCheck t).motion = s.motion := rfl
@[simp] theorem mapLamps_motion (f : LampState → LampState) : (s.mapLamps f).motion = s.motion := by
  simp only [State.motion, State.mapLamps]
@[simp] theorem setCrew_motion (c : Crew) : (s.setCrew c).motion = s.motion := rfl
@[simp] theorem setSnapshotCounter_motion (n : Nat) : (s.setSnapshotCounter n).motion = s.motion := rfl
@[simp] theorem setFilterTick_motion (t : Timer) : (s.setFilterTick t).motion = s.motion := rfl

@[simp] theorem startFilterTick_motion : s.startFilterTick.motion = s.motion := by
  unfold State.startFilterTick
  split <;> simp

@[simp] theorem reportChanges_motion (before : State) : (s.reportChanges before).motion = s.motion := by
  unfold State.reportChanges
  split <;> simp

/-! ### Reactions -/

theorem raise_kept (c : FaultClass) (d : FaultDetail) : LawsKept s (raise c d s) := lawsKept_events.raise ..

theorem raiseItem_kept (c : FaultClass) (n : Nat) : LawsKept s (raiseItem c n s) := lawsKept_events.raiseItem ..

theorem raiseRefused_kept (r : ReplyStatus) : LawsKept s (raiseRefused r s) := raise_kept ..

theorem offer_kept (r : EgressRecord) : LawsKept s (offer r s) := lawsKept_events.offer ..

theorem reply_kept (code : Byte) (tag : Word16) (r : ReplyStatus) (data : List Byte) : LawsKept s (reply code tag r data s) :=
  offer_kept ..

theorem refuse_kept (code : Byte) (tag : Word16) (r : ReplyStatus) : LawsKept s (refuse code tag r s) :=
  (raiseRefused_kept s r).trans (reply_kept ..)

theorem publishSevere_kept : LawsKept s (publishSevere s) := lawsKept_events.publishSevere s

theorem decodedEvent_kept (c : SlotChange) (k : Fin 120) : LawsKept s (decodedEvent c k s) := lawsKept_events.decodedEvent ..

theorem writeSelection_kept : LawsKept s (writeSelection s) := lawsKept_events.writeSelection s

theorem writeRemaining_kept : LawsKept s (writeRemaining s) := lawsKept_events.writeRemaining s

theorem offerSnapshot_kept : LawsKept s (offerSnapshot s) := offer_kept ..

theorem writeIgnition_kept : LawsKept s (writeIgnition s) :=
  (lawsKept_events.derivedEvent 126 (s.setSlot 126 s.ignitionContent)).after rfl

theorem whole_kept {f : State → Change} (hf : ∀ s, Presented s (f s).state) : LawsKept s (whole f s) :=
  lawsKept_events.whole (fun s => (hf s).lawsKept) s

theorem eachTelltale_kept {f : State → Fin 64 → Change} (hf : ∀ s i, Presented s (f s i).state) :
    LawsKept s (eachTelltale f s) := lawsKept_foldl (fun s i => whole_kept s fun s => hf s i) _ s

theorem freshTelltales_kept (before : PartState) : LawsKept s (freshTelltales before s) := by
  refine eachTelltale_kept s fun s i => ?_
  split
  · exact presented_evaluateFresh s i
  · exact .refl s

/-! ### Speed Arbitration -/

/-- A pair fills the ring at most to its eight places, and a full ring is evaluated: it leaves AGREE or CONFLICT (R42, R45). -/
theorem sampleSpeed_kept : LawsKept s (sampleSpeed s) := by
  by_cases hpair : s.pairUsable = true
  · obtain ⟨r, hr⟩ : ∃ r, s.speed.ring.push
      (s.namedValue s.tables.system.primarySpeed, s.namedValue s.tables.system.secondarySpeed) = r := ⟨_, rfl⟩
    have hcount : r.count = min (s.speed.ring.count + 1) 8 := by rw [← hr]; rfl
    by_cases hfull : r.count = 8
    · rw [sampleSpeed_full hpair hr hfull rfl]
      split
      · refine .trans (lawsKept_setRing fun _ => ?_) (raise_kept ..)
        exact ⟨hfull.le, fun ha => absurd ha (evaluate_ne_learning _ _ _ _), fun _ => hfull⟩
      · exact lawsKept_setRing fun _ => ⟨hfull.le, fun ha => absurd ha (evaluate_ne_learning _ _ _ _), fun _ => hfull⟩
    · rw [sampleSpeed_filling hpair hr hfull]
      refine lawsKept_setRing fun hs => ⟨?_, fun _ => ?_, fun ha => ?_⟩
      · show r.count ≤ 8
        omega
      · show r.count < 8
        omega
      · have := hs.agree ha
        omega
  · rw [sampleSpeed_unpaired hpair]
    exact lawsKept_emptied s

theorem plausibilityTicked_kept : LawsKept s (plausibilityTicked s) :=
  ((sampleSpeed_kept _).after (setPlausibility_motion s _)).trans (writeSelection_kept _)

/-! ### The channels' work -/

/-- A homing that fails ends in the state it was in when its fault was raised, the target apart (R63, R64). -/
theorem tickHoming_kept (ch : Fin 6) (hs : (s.gauges.channels[ch]).state = .homing) : LawsKept s (tickHoming ch s) := by
  have hdrive : LawsKept s (s.updateChannel ch fun c _ => c.driveHome) := lawsKept_setChannel fun h => driveHome_lawful h hs
  have hdriven : ((s.updateChannel ch fun c _ => c.driveHome).gauges.channels[ch]).state = .homing := by
    simpa [State.updateChannel, Channel.driveHome] using hs
  unfold tickHoming
  dsimp only
  generalize (s.updateChannel ch fun c _ => c.driveHome) = u at hdrive hdriven
  split
  · have hhoming : ((raiseItem .gaugeHomingFail ch.val u).gauges.channels[ch]).state = .homing := by
      rw [(reacted_raiseItem .gaugeHomingFail ch.val u).motion ch]; exact hdriven
    refine (hdrive.trans (raiseItem_kept u ..)).trans (lawsKept_setChannel fun h => ?_)
    exact endHoming_lawful h.entry (h.target (by rw [hhoming]; decide)) _
  · exact hdrive

theorem tickChannel_kept (ch : Fin 6) : LawsKept s (tickChannel ch s) := by
  unfold tickChannel
  split
  · next hs => exact tickHoming_kept s ch hs
  · exact (lawsKept_evaluateTarget s ch).trans (lawsKept_setChannel track_lawful)
  · next hs => exact lawsKept_setChannel fun h => park_lawful h hs
  all_goals exact .refl s

/-- A stall leaves its channel in the state the report finds while GAUGE_STALL is raised (R64, R66, R69). -/
theorem takeStall_kept (ch : Fin 6) : LawsKept s (takeStall ch s) := by
  have hstalled : (s.gauges.channels[ch]).state = .tracking ∨ (s.gauges.channels[ch]).state = .parking →
      LawsKept s ((raiseItem .gaugeStall ch.val s).updateChannel ch Channel.stalled) := fun hs =>
    (raiseItem_kept s ..).trans (lawsKept_setChannel fun h => stalled_lawful h (by
      rw [(reacted_raiseItem .gaugeStall ch.val s).motion ch]; exact hs))
  unfold takeStall
  split
  · next hs => exact lawsKept_setChannel fun h => endHoming_lawful h.entry (h.target (by rw [hs]; decide)) _
  · next hs => exact hstalled (.inl hs)
  · next hs => exact hstalled (.inr hs)
  all_goals exact .refl s

theorem stallReported_kept (ch : Fin 6) : LawsKept s (stallReported ch s) := by
  unfold stallReported
  split
  · exact (takeStall_kept s ch).same (reportGauges_motion _)
  · exact .refl s

theorem gaugesHomingEntry_kept : LawsKept s s.gaugesHomingEntry :=
  (lawsKept_mapChannels s (f := Channel.homingEntry) fun _ _ => homingEntry_lawful).same (by simp [State.gaugesHomingEntry])

theorem gaugesStandbyEntry_kept : LawsKept s s.gaugesStandbyEntry :=
  (lawsKept_mapChannels s (f := Channel.standby) fun _ _ => standby_lawful).same (by simp [State.gaugesStandbyEntry])

theorem resetGauges_kept : LawsKept s s.resetGauges :=
  (lawsKept_mapChannels s (f := fun c e => c.sectionReset e s.time.part) fun _ _ h => sectionReset_lawful h _).same
    (by simp [State.resetGauges])

/-- An accepted gauge entry write (R72). -/
theorem writeGauge_kept (i : Fin 6) {e : GaugeEntry} (he : e.ok = true) : LawsKept s (s.writeGauge i e) where
  channel ch hch := by
    by_cases heq : i = ch
    · subst heq
      simpa [State.writeGauge, State.gaugeWritten, State.updateChannel, State.reportGauges]
        using rewrite_lawful (c := s.gauges.channels[i]) he s.time.part
    · have hne : i.val ≠ ch.val := fun hval => heq (Fin.ext hval)
      simpa [State.writeGauge, State.gaugeWritten, State.updateChannel, State.reportGauges, Vector.getElem_set_ne _ _ hne]
        using hch
  speed hs := ⟨hs.count, hs.learning, hs.agree⟩

/-! ### Moves of the part -/

theorem endBulbCheck_kept : LawsKept s s.endBulbCheck :=
  (presented_recomputeLamps _).lawsKept.after (setBulbCheck_motion s none)

theorem startBulbCheck_kept : LawsKept s s.startBulbCheck := by
  have hlamps : ∀ t, LawsKept s (((s.mapLamps LampState.release).setBulbCheck t).recomputeLamps) := fun t =>
    (presented_recomputeLamps _).lawsKept.after (by simp)
  unfold State.startBulbCheck
  dsimp only
  split
  · exact (hlamps none).same (reportBulbEnd_motion _)
  · exact hlamps _

theorem homingEntry_kept : LawsKept s (homingEntry s) := by
  have hgauges : LawsKept s s.timeHomingEntry.gaugesHomingEntry := (gaugesHomingEntry_kept _).after (timeHomingEntry_motion s)
  exact ((hgauges.trans (startBulbCheck_kept _)).trans (freshTelltales_kept _ _)).same (setPlausibility_motion _ _)

theorem standbyEntry_kept : LawsKept s (standbyEntry s) := by
  have hspeed : LawsKept s (s.timeStandbyEntry.setSilence .cold).speedStandby :=
    ((lawsKept_emptied _).after (by simp)).same (setPlausibility_motion _ none)
  have hgauges := hspeed.trans (gaugesStandbyEntry_kept _)
  unfold standbyEntry telltalesStandbyEntry
  exact ((hgauges.trans (eachTelltale_kept _ presented_telltaleStandby)).trans (freshTelltales_kept _ _)).trans
    (endBulbCheck_kept _)

theorem enterByLevel_kept : LawsKept s (enterByLevel s) := by
  unfold enterByLevel
  split
  · exact homingEntry_kept s
  · exact standbyEntry_kept s

theorem wakingEntry_kept : LawsKept s (wakingEntry s) := by
  have hcredit : LawsKept s (wakeCredit (s.setPart .waking)) :=
    (writeRemaining_kept _).after ((setCrew_motion _ _).trans (setPart_motion s _))
  exact (hcredit.trans (writeIgnition_kept _)).same (startSettle_motion _)

theorem startPart_kept : LawsKept s (startPart s) := by
  unfold startPart
  split
  · exact (enterByLevel_kept _).after rfl
  · exact .refl s

theorem Quieted.speedLaws {s t : State} (h : Quieted s t) : SpeedLaws t :=
  speedLaws_emptied (by rw [h.speed]) (by rw [h.speed]; simp)

/-- Warm start brings every channel to position 0, not homed (R74). -/
theorem warmStart_kept : LawsKept s s.warmStart where
  channel ch hch := by
    have hentry : (s.warmStart.tables.gauge[ch]).ok = true := by rw [warmStart_tables]; exact hch.entry
    refine channelLawful_idle hentry ?_ ?_ <;> rw [(warmStart_spec s).channels ch]
    · exact Nat.zero_le _
    · simp
  speed _ := (warmStart_spec s).toQuieted.speedLaws

/-- SLEEP entry leaves the channels as they stand (R74). -/
theorem SleepEntered.lawsKept {s t : State} (h : SleepEntered s t) : LawsKept s t where
  channel ch hch := by rw [h.tables, h.channels]; exact hch
  speed _ := h.toQuieted.speedLaws

theorem conclude_kept : LawsKept s (conclude s) := by
  have h := conclude_spec s
  unfold Concluded at h
  split at h
  · rw [h]; exact lawsKept_of_motion rfl
  · split at h
    · exact h.lawsKept
    · rw [h]; exact .refl s

theorem filterTicked_kept : LawsKept s (filterTicked s) := by
  have hticked : LawsKept s (tickChannels (s.setFilterTick (some Config.filterInterval))) :=
    (lawsKept_foldl (fun s ch => tickChannel_kept s ch) _ _).after (setFilterTick_motion s _)
  exact (hticked.same (reportChanges_motion _ s)).trans (conclude_kept _)

theorem takeIgnitionOn_kept : LawsKept s (takeIgnitionOn s) := by
  unfold takeIgnitionOn
  split
  · exact .refl s
  · split
    · exact wakingEntry_kept s
    · exact ((writeIgnition_kept s).trans (homingEntry_kept _)).trans (conclude_kept _)
    all_goals exact writeIgnition_kept s

theorem takeIgnitionOff_kept : LawsKept s (takeIgnitionOff s) := by
  unfold takeIgnitionOff
  split
  · exact .refl s
  · cases s.time.part with
    | homing | run => exact ((writeIgnition_kept s).trans (standbyEntry_kept _)).trans (conclude_kept _)
    | unconfigured | waking | standby => exact writeIgnition_kept s
    | sleep => exact .refl s

theorem accountingTick_kept : LawsKept s (accountingTick s) := by
  have hwritten : LawsKept s (writeRemaining (s.setCrew (s.crew.accrue s.tables.crew s.time.mono))) :=
    (writeRemaining_kept _).after (setCrew_motion s _)
  refine hwritten.trans ?_
  unfold accountingTick advanceSnapshot
  dsimp only
  split
  · exact lawsKept_of_motion (setSnapshotCounter_motion _ _)
  · split
    · exact (offerSnapshot_kept _).same (setSnapshotCounter_motion _ _)
    · exact lawsKept_of_motion (setSnapshotCounter_motion _ _)

end

end Sys2Proof.Machine
end

section
/-! PROOFS. Every step keeps the gauge and speed laws (R45, R55, R58 to R61). -/

namespace Sys2Proof.Machine

/-! ### Slots and frames -/

section
variable (s : State)

theorem codeUpdate_kept (k : Fin 120) (q : Quality) : LawsKept s (codeUpdate k q s) := (decodedEvent_kept _ _ k).after rfl

theorem valueUpdate_kept (k : Fin 120) (v : Word32) (c : Bool) : LawsKept s (valueUpdate k v c s) :=
  (decodedEvent_kept _ _ k).after rfl

theorem goStale_kept (k : Fin 120) : LawsKept s (goStale k s) := by
  have hstale : LawsKept s (decodedEvent .quality k ((s.setQuality k .stale).setSlotTimers k none none)) :=
    (decodedEvent_kept _ _ k).after rfl
  unfold goStale
  dsimp only
  split
  · exact hstale.trans (raiseItem_kept ..)
  · exact hstale

theorem goHeld_kept (k : Fin 120) : LawsKept s (goHeld k s) := by
  unfold goHeld
  dsimp only
  split
  · exact goStale_kept s k
  · exact (decodedEvent_kept _ _ k).after rfl

theorem resetSignals_kept : LawsKept s (resetSignals s) :=
  lawsKept_foldl (fun s k => (decodedEvent_kept (s.setUnknown k 65535) .quality k).after rfl) _ s

theorem runMapEntry_kept (f : Frame) (m : Fin 192) : LawsKept s (runMapEntry f m s) := by
  unfold runMapEntry
  dsimp only
  split
  · split
    · exact raise_kept ..
    · split
      · exact codeUpdate_kept ..
      · exact codeUpdate_kept ..
      · exact valueUpdate_kept ..
  · exact .refl s

theorem runMapRange_kept (f : Frame) (first count : Nat) : LawsKept s (runMapRange f first count s) := by
  refine lawsKept_foldl (fun s m => ?_) _ s
  split
  · exact runMapEntry_kept s f m
  · exact .refl s

theorem matchedFrame_kept (p : Port) : LawsKept s (s.matchedFrame p) := by
  rw [matchedFrame_eq]
  exact lawsKept_of_motion rfl

theorem forwardFrame_kept (i : Fin 96) (f : Frame) : LawsKept s (forwardFrame i f s) := by
  unfold forwardFrame
  split
  · split
    · exact .refl s
    · exact offer_kept ..
    · split
      · exact .refl s
      · split
        · exact lawsKept_of_motion rfl
        · exact offer_kept ..
  · exact .refl s

theorem silenceExpired_kept (p : Port) : LawsKept s (silenceExpired p s) :=
  (raiseItem_kept (s.openEpisode p) _ _).after (by cases p <;> rfl)

/-! ### Telltales, lamps and the chime -/

theorem lampFails_kept (ch : Fin 32) (l : LampState) (c : FaultClass) : LawsKept s (lampFails ch l c s) := by
  have hoffers : ∀ x, LawsKept x (backupOffers ch x) := lawsKept_foldl (fun x i => by
    dsimp only
    split
    · exact whole_kept x fun s => (moving_presented i).offerPresentation s i .backup _
    · exact .refl x) _
  have hraised : LawsKept s (raiseItem c ch.val (s.setLamp ch l)) := (raiseItem_kept _ c ch.val).after rfl
  exact hraised.trans (hoffers _)

theorem chimeOnEnds_kept : LawsKept s s.chimeOnEnds := by
  unfold State.chimeOnEnds
  split <;> exact lawsKept_of_motion rfl

theorem chimeOffEnds_kept : LawsKept s s.chimeOffEnds := by
  unfold State.chimeOffEnds
  split
  · exact (presented_completeBurst s _).lawsKept
  all_goals exact .refl s

theorem chimeFails_kept : LawsKept s (chimeFails s) := by
  unfold chimeFails
  split
  · exact (raiseItem_kept (s.setLoad .open) _ _).after rfl
  all_goals exact .refl s

theorem chimeRecovers_kept : LawsKept s s.chimeRecovers := by
  unfold State.chimeRecovers
  split <;> exact lawsKept_of_motion rfl

/-! ### Section resets -/

theorem resetTelltales_kept : LawsKept s (resetTelltales s) := by
  have hcleared : LawsKept s ((eachTelltale State.telltaleCleared s).mapLamps LampState.clear) :=
    (eachTelltale_kept s presented_telltaleCleared).same (mapLamps_motion _ _)
  unfold resetTelltales
  refine (hcleared.trans (eachTelltale_kept _ fun s i => ?_)).trans (presented_recomputeLamps _).lawsKept
  split
  · exact presented_evaluateFresh s i
  · exact .refl s

theorem resetPresentation_kept : LawsKept s (resetPresentation s) := by
  have hcleared : LawsKept s s.presentationCleared := lawsKept_of_motion (by
    simp only [State.motion, State.presentationCleared, State.forgetHeld])
  unfold resetPresentation
  split
  · exact hcleared
  · exact hcleared.trans (offer_kept ..)

theorem resetCrewSection_kept : LawsKept s (resetCrewSection s) :=
  ((writeRemaining_kept _).after (setCrew_motion s _)).trans (offerSnapshot_kept _)

theorem resetSection_kept (x : Section) : LawsKept s (resetSection x s) := by
  cases x with
  | intake =>
    simp only [resetSection, State.resetIntake]
    split <;> exact lawsKept_of_motion rfl
  | signals => exact resetSignals_kept s
  | speed => exact (lawsKept_relearn s).trans (writeSelection_kept _)
  | gauges => exact resetGauges_kept s
  | telltales => exact resetTelltales_kept s
  | presentation => exact resetPresentation_kept s
  | crew => exact resetCrewSection_kept s
  | faults => exact (publishSevere_kept { s with faults := .cold }).after rfl

theorem requestReset_kept (tag : Word16) (x : Section) : LawsKept s (requestReset tag x s) :=
  (resetSection_kept s x).trans (reply_kept ..)

theorem clearFaultClasses_kept (classes : Word16) (service : Bool) : LawsKept s (clearFaultClasses classes service s) := by
  unfold clearFaultClasses
  dsimp only
  split
  · exact lawsKept_of_motion rfl
  · exact (publishSevere_kept _).after rfl

end

/-! ### Entry writes -/

/-- A write that its block accepts is what it makes of an entry that passes the check (R177). -/
theorem accept_kept {α : Type} {o : Option α} {ok : α → Bool} {write : α → State} {s u : State}
    (h : accept o ok write = .ok u) (hw : ∀ e, ok e = true → LawsKept s (write e)) : LawsKept s u := by
  unfold accept at h
  split at h
  · cases h
  · split at h
    · next hok => cases h; exact hw _ hok
    · cases h

theorem acceptCurve_kept {o : Option Curve} {write : Curve → State} {s u : State} (h : acceptCurve o write = .ok u)
    (hw : ∀ e, LawsKept s (write e)) : LawsKept s u := by
  unfold acceptCurve at h
  split at h
  · cases h
  · split at h
    · split at h
      · cases h; exact hw _
      · cases h
    · cases h

section
variable (s : State)

theorem writeSlotConfig_kept (i : Fin 120) (e : SlotConfig) : LawsKept s (writeSlotConfig i e s) :=
  (decodedEvent_kept _ .quality i).after rfl

theorem writeChime_kept (i : Fin 8) (e : ChimePattern) : LawsKept s (s.writeChime i e) :=
  (presented_choose (s.setTables { s.tables with chime := s.tables.chime.set i e })).lawsKept.after rfl

theorem writeCrewConfig_kept (e : CrewConfig) : LawsKept s (writeCrewConfig e s) :=
  (writeRemaining_kept (s.setTables { s.tables with crew := e })).after rfl

theorem writePolicy_kept (i : Fin 16) (e : FaultPolicy) : LawsKept s (writePolicy i e s) :=
  (publishSevere_kept (s.setTables { s.tables with policy := s.tables.policy.set i e })).after rfl

theorem writeTelltale_kept (i : Fin 64) (e : TelltaleEntry) : LawsKept s (writeTelltale i e s) := by
  have hoff : ∀ (l : Option (Fin 32)) (s : State),
      Presented s (((s.setCondition i false).telltaleOff i).andThen fun s => s.recomputeNamed l).state := fun l s =>
    ((presented_setCondition s i false).trans ((moving_presented i).telltaleOff _)).trans (presented_recomputeNamed _ l)
  unfold writeTelltale telltaleWritten
  generalize hu : s.setTables _ = u
  have hset : LawsKept s u := lawsKept_of_motion (by rw [← hu]; rfl)
  have hturned := hset.trans (whole_kept u (hoff (s.tables.telltale[i]).lamp))
  dsimp only
  split
  · exact hturned.trans (whole_kept _ fun s => presented_evaluateFresh s i)
  · exact hturned

theorem writeSystemConfig_kept (e : SystemConfig) (w : Written) : LawsKept s (writeSystemConfig e w s) := by
  have hset : LawsKept s (if w.covers 5 then (s.setTables { s.tables with system := e }).resetDetector
      else s.setTables { s.tables with system := e }) := by split <;> exact lawsKept_of_motion rfl
  unfold writeSystemConfig
  dsimp only
  split
  · exact (hset.trans (lawsKept_relearn _)).trans (writeSelection_kept _)
  · exact hset

end

/-- A write of an entry keeps the laws: a gauge entry with its channel, System Config with the ring, the others as they touch
neither. -/
theorem writeEntry_kept {t : TableId} {k : Nat} {l : List Byte} {w : Written} {s u : State}
    (h : writeEntry t k l w s = .ok u) : LawsKept s u := by
  unfold writeEntry at h
  cases t with
  | intake => dsimp only at h; split at h; exacts [(nomatch h), accept_kept h fun _ _ => lawsKept_of_motion rfl]
  | map => dsimp only at h; split at h; exacts [(nomatch h), accept_kept h fun _ _ => lawsKept_of_motion rfl]
  | slotConfig => dsimp only at h; split at h; exacts [(nomatch h), accept_kept h fun e _ => writeSlotConfig_kept s _ e]
  | curve => dsimp only at h; split at h; exacts [(nomatch h), acceptCurve_kept h fun _ => lawsKept_of_motion rfl]
  | gauge => dsimp only at h; split at h; exacts [(nomatch h), accept_kept h fun _ he => writeGauge_kept s _ he]
  | telltale => dsimp only at h; split at h; exacts [(nomatch h), accept_kept h fun e _ => writeTelltale_kept s _ e]
  | chime => dsimp only at h; split at h; exacts [(nomatch h), accept_kept h fun e _ => writeChime_kept s _ e]
  | crewConfig => dsimp only at h; split at h; exacts [(nomatch h), accept_kept h fun e _ => writeCrewConfig_kept s e]
  | systemConfig => dsimp only at h; split at h; exacts [(nomatch h), accept_kept h fun e _ => writeSystemConfig_kept s e w]
  | faultPolicy => dsimp only at h; split at h; exacts [(nomatch h), accept_kept h fun e _ => writePolicy_kept s _ e]

theorem loadEntry_kept {table index : Byte} {entry : List Byte} {s u : State} (h : loadEntry table index entry s = .ok u) :
    LawsKept s u := by
  unfold loadEntry at h
  split at h
  · cases h
  · split at h
    · cases h
    · split at h
      · cases h
      · exact writeEntry_kept h

theorem namedField_write_kept {f : NamedField} {value : Word32} {s u : State} (h : f.write value s = .ok u) : LawsKept s u := by
  unfold NamedField.write at h
  split at h
  · exact writeEntry_kept h
  · cases h

theorem serviceWrite_kept {table index field : Byte} {value : Word32} {s u : State}
    (h : serviceWrite table index field value s = .ok u) : LawsKept s u := by
  unfold serviceWrite at h
  split at h
  · cases h
  · split at h
    · split at h
      · exact namedField_write_kept h
      · cases h
    · cases h

/-! ### Requests and transfers -/

section
variable (s : State)

theorem answerWrite_kept (code : Byte) (tag : Word16) {r : Except ReplyStatus State} (hr : ∀ u, r = .ok u → LawsKept s u) :
    LawsKept s (answerWrite code tag r s) := by
  cases r with
  | error e => exact refuse_kept ..
  | ok u => exact (hr u rfl).trans (reply_kept ..)

theorem answerRead_kept (code : Byte) (tag : Word16) (r : Except ReplyStatus (List Byte)) :
    LawsKept s (answerRead code tag r s) := by
  cases r with
  | error e => exact refuse_kept ..
  | ok l => exact reply_kept ..

theorem requestLoad_kept (tag : Word16) (table index : Byte) (entry : List Byte) :
    LawsKept s (requestLoad tag table index entry s) := answerWrite_kept s _ _ fun _ => loadEntry_kept

theorem requestSetField_kept (tag : Word16) (table index field : Byte) (value : Word32) :
    LawsKept s (requestSetField tag table index field value s) := by
  refine answerWrite_kept s _ _ fun u h => ?_
  split at h
  · cases h
  · exact namedField_write_kept h

theorem requestClearFaults_kept (tag classes : Word16) : LawsKept s (requestClearFaults tag classes s) :=
  (clearFaultClasses_kept s classes false).trans (reply_kept ..)

theorem requestStart_kept (tag : Word16) : LawsKept s (requestStart tag s) := (startPart_kept s).trans (reply_kept ..)

theorem requestWarmReset_kept (tag : Word16) : LawsKept s (requestWarmReset tag s) :=
  LawsKept.trans (reply_kept ..) (warmStart_kept _)

theorem refuseService_kept (a : ReplyAddress) (code : Byte) (r : ReplyStatus) : LawsKept s (refuseService a code r s) :=
  (raiseRefused_kept s r).same rfl

theorem unlessBusy_kept {handle : State → State} (h : LawsKept s (handle s)) : LawsKept s (unlessBusy s handle) := by
  unfold unlessBusy
  split
  · exact raiseRefused_kept ..
  · exact h

theorem serviceSetField_kept (a : ReplyAddress) (table index field : Byte) (value : Word32) :
    LawsKept s (serviceSetField a table index field value s) := by
  refine unlessBusy_kept s ?_
  split
  · exact refuseService_kept ..
  · next hw => exact (serviceWrite_kept hw).same rfl

theorem serviceReadField_kept (a : ReplyAddress) (table index field : Byte) :
    LawsKept s (serviceReadField a table index field s) := by
  refine unlessBusy_kept s ?_
  split
  · exact refuseService_kept ..
  · exact lawsKept_of_motion rfl

theorem serviceClearFaults_kept (a : ReplyAddress) (classes : Word16) : LawsKept s (serviceClearFaults a classes s) :=
  unlessBusy_kept s ((clearFaultClasses_kept s classes true).same rfl)

theorem serviceReadFaults_kept (a : ReplyAddress) : LawsKept s (serviceReadFaults a s) :=
  unlessBusy_kept s (lawsKept_of_motion rfl)

theorem serviceMalformed_kept (a : ReplyAddress) (code : Byte) : LawsKept s (serviceMalformed a code s) :=
  unlessBusy_kept s (refuseService_kept ..)

theorem serviceFrame_kept (a : ReplyAddress) (data : List Byte) : LawsKept s (serviceFrame a data s) := by
  unfold serviceFrame
  split
  · exact serviceSetField_kept ..
  · exact serviceReadField_kept ..
  · exact serviceClearFaults_kept ..
  · exact serviceReadFaults_kept ..
  all_goals exact serviceMalformed_kept ..

theorem frameArrived_kept (f : Frame) : LawsKept s (frameArrived f s) := by
  have hseen := matchedFrame_kept s f.port
  unfold frameArrived actOnFrame
  split
  · exact .refl s
  · split
    · exact .refl s
    · dsimp only
      split
      · exact (hseen.trans (runMapRange_kept ..)).trans (forwardFrame_kept ..)
      · exact hseen.trans (serviceFrame_kept ..)

theorem dispatch_kept (code : Byte) (tag : Word16) (args : List Byte) : LawsKept s (dispatch code tag args s) := by
  unfold dispatch
  split
  · exact requestLoad_kept ..
  · exact answerRead_kept ..
  · exact requestSetField_kept ..
  · exact answerRead_kept ..
  · exact answerRead_kept ..
  · exact requestClearFaults_kept ..
  · split
    · exact refuse_kept ..
    · exact requestReset_kept ..
  · exact requestStart_kept ..
  · exact requestWarmReset_kept ..
  · exact refuse_kept ..

theorem handlePayload_kept (payload : List Byte) : LawsKept s (handlePayload payload s) := by
  unfold handlePayload
  split
  · exact dispatch_kept ..
  all_goals exact refuse_kept ..

theorem transfer_kept (u : List Byte) : LawsKept s (transfer u s) := by
  have hsent : LawsKept s s.sendDownstream := lawsKept_of_motion (by
    unfold State.sendDownstream
    split <;> rfl)
  refine hsent.trans ?_
  unfold transfer handleUpstream
  split
  · split
    · exact .refl _
    · exact handlePayload_kept ..
  · exact raise_kept ..

/-! ### Port B and the counters -/

theorem sendReply_kept : LawsKept s s.sendReply := by
  unfold State.sendReply
  split <;> exact lawsKept_of_motion rfl

theorem replySent_kept : LawsKept s s.replySent := by
  unfold State.replySent
  split
  · exact .refl s
  · split <;> exact lawsKept_of_motion rfl

theorem replyNotSent_kept : LawsKept s s.replyNotSent := by
  unfold State.replyNotSent
  split <;> exact lawsKept_of_motion rfl

theorem replyExpired_kept (place : Nat) : LawsKept s (s.replyExpired place) := by
  unfold State.replyExpired
  split
  · exact .refl s
  · split <;> exact lawsKept_of_motion rfl

theorem advanceMs_kept : LawsKept s s.advanceMs := lawsKept_of_motion (by simp only [State.motion, State.advanceMs])

/-- The cold start values: every channel at 0 and not homed, an empty ring and LEARNING (R43, R73, R161). -/
theorem cold_kept (keepAlive held raw : Bool) (n : Nat) (queue : List Instr) :
    LawsKept s (State.cold keepAlive held raw n queue) where
  channel ch _ := by
    have hentry : (State.cold keepAlive held raw n queue).tables.gauge[ch] = GaugeEntry.cold := Vector.getElem_replicate _
    have hchannel : (State.cold keepAlive held raw n queue).gauges.channels[ch] = Channel.cold := Vector.getElem_replicate _
    rw [hentry, hchannel]
    exact channelLawful_idle (by decide) (by decide) (by decide)
  speed _ := speedLaws_emptied rfl (by simp [State.cold, Speed.cold])

end

/-! ### Every command -/

section
variable {f : State → State} {s t : State}

theorem onAwake_kept (h : onAwake f s = .next t) (hf : LawsKept s (f s)) : LawsKept s t := by
  cases h
  split
  · exact hf
  · exact .refl s

/-- The same for one that acts only on a condition. -/
theorem onAwake_kept_if {p : State → Bool} (h : onAwake (fun s => if p s = true then f s else s) s = .next t)
    (hf : LawsKept s (f s)) : LawsKept s t := onAwake_kept h (by split; exacts [hf, .refl s])

end

/-- Every command keeps the laws. -/
theorem exec_kept {c : Instr} {s t : State} (h : exec c s = .next t) : LawsKept s t := by
  unfold exec at h
  cases c with
  | coldStart => cases h; exact (cold_kept s ..).trans (raiseItem_kept ..)
  | keepAliveRemoval => cases h; exact cold_kept s ..
  | resetInputAssert => cases h; exact lawsKept_of_motion rfl
  | resetInputRelease =>
    cases h
    split
    · split
      · exact (warmStart_kept { s with resetHeld := false }).after rfl
      · exact lawsKept_of_motion rfl
    · exact .refl s
  | ignitionSenseChange level => cases h; split <;> exact lawsKept_of_motion rfl
  | ignitionOn => cases h; split; exacts [(takeIgnitionOn_kept (s.setIgnition true)).after rfl, .refl s]
  | ignitionOff => cases h; split; exacts [(takeIgnitionOff_kept (s.setIgnition false)).after rfl, .refl s]
  | portBFrameStart => cases h; split; exacts [wakingEntry_kept s, .refl s]
  | monotonicAdvance =>
    cases h
    split
    · split
      · exact (accountingTick_kept s.advanceSeconds).after rfl
      · exact lawsKept_of_motion rfl
    · exact .refl s
  | linkTransfer u =>
    cases h
    split
    · split
      · exact (transfer_kept s u).trans (conclude_kept _)
      · exact lawsKept_of_motion rfl
    · exact .refl s
  | frameArrival f => exact onAwake_kept h ((frameArrived_kept s f).trans (conclude_kept _))
  | load tag table index entry => exact onAwake_kept h ((requestLoad_kept s ..).trans (conclude_kept _))
  | setField tag table index field value => exact onAwake_kept h ((requestSetField_kept s ..).trans (conclude_kept _))
  | read tag table index => exact onAwake_kept h (answerRead_kept ..)
  | readField tag table index field => exact onAwake_kept h (answerRead_kept ..)
  | state tag target index => exact onAwake_kept h (answerRead_kept ..)
  | clearFaults tag classes => exact onAwake_kept h (requestClearFaults_kept ..)
  | intakeSectionReset tag => exact onAwake_kept h (requestReset_kept ..)
  | signalsSectionReset tag => exact onAwake_kept h (requestReset_kept ..)
  | speedSectionReset tag => exact onAwake_kept h (requestReset_kept ..)
  | gaugesSectionReset tag => exact onAwake_kept h ((requestReset_kept s tag .gauges).trans (conclude_kept _))
  | telltalesSectionReset tag => exact onAwake_kept h (requestReset_kept ..)
  | presentationSectionReset tag => exact onAwake_kept h (requestReset_kept ..)
  | crewSectionReset tag => exact onAwake_kept h (requestReset_kept ..)
  | faultsSectionReset tag => exact onAwake_kept h (requestReset_kept ..)
  | start tag => exact onAwake_kept h ((requestStart_kept s tag).trans (conclude_kept _))
  | warmReset tag => exact onAwake_kept h (requestWarmReset_kept s tag)
  | serviceSetField a table index field value => exact onAwake_kept h (serviceSetField_kept ..)
  | serviceReadField a table index field => exact onAwake_kept h (serviceReadField_kept ..)
  | serviceClearFaults a classes => exact onAwake_kept h (serviceClearFaults_kept ..)
  | readFaults a => exact onAwake_kept h (serviceReadFaults_kept ..)
  | silenceExpiry p => exact onAwake_kept_if h (silenceExpired_kept ..)
  | holdExpiry k => exact onAwake_kept_if h (goHeld_kept ..)
  | staleExpiry k => exact onAwake_kept_if h (goStale_kept ..)
  | plausibilityTick => exact onAwake_kept_if h (plausibilityTicked_kept s)
  | filterTick => exact onAwake_kept_if h (filterTicked_kept s)
  | stallReport ch => exact onAwake_kept h ((stallReported_kept s ch).trans (conclude_kept _))
  | onDebounceExpiry i => exact onAwake_kept_if h (whole_kept s fun s => (moving_presented i).telltaleOn s)
  | offDebounceExpiry i => exact onAwake_kept_if h (whole_kept s fun s => (moving_presented i).telltaleFallen s)
  | lampNoCurrent ch => exact onAwake_kept_if h (lampFails_kept ..)
  | lampCurrentPresent ch => exact onAwake_kept_if h (lawsKept_of_motion rfl)
  | lampOverCurrent ch => exact onAwake_kept_if h (lampFails_kept ..)
  | bulbCheckExpiry =>
    exact onAwake_kept_if h (((endBulbCheck_kept s).same (reportBulbEnd_motion _)).trans (conclude_kept _))
  | chimeOnExpiry => exact onAwake_kept h (chimeOnEnds_kept s)
  | chimeOffExpiry => exact onAwake_kept h (chimeOffEnds_kept s)
  | chimeNoCurrent => exact onAwake_kept h (chimeFails_kept s)
  | chimeCurrentPresent => exact onAwake_kept h (chimeRecovers_kept s)
  | settleExpiry => exact onAwake_kept_if h ((enterByLevel_kept s).trans (conclude_kept _))
  | quietExpiry => exact onAwake_kept_if h ((conclude_kept (s.setQuiet .elapsed)).after rfl)
  | replyFrameSend => exact onAwake_kept h (sendReply_kept s)
  | replyFrameSent => exact onAwake_kept h (replySent_kept s)
  | replyFrameNotSent => exact onAwake_kept h (replyNotSent_kept s)
  | replyExpiry place => exact onAwake_kept h (replyExpired_kept s _)
  | msCounterAdvance => exact onAwake_kept h (advanceMs_kept s)

/-- An idle step changes nothing; any other takes the front command. -/
theorem step_kept {s t : State} (h : step s = .next t) : LawsKept s t := by
  unfold step at h
  split at h
  · cases h; exact .refl s
  · exact (exec_kept h).after rfl

/-- Settles O58: the laws of the channels one by one and those of the ring, each by `step_kept`; the tables by O52. -/
theorem stepsKeepTheGaugeAndSpeedLaws : Obligations.StepsKeepTheGaugeAndSpeedLaws := by
  refine ⟨fun s t htables hs h => ?_, fun s t hs h => (step_kept h).speed hs⟩
  rw [gaugeLaws_iff htables] at hs
  exact (gaugeLaws_iff (stepsKeepEveryEntryWithinItsConstraints s t htables h)).2 fun ch => (step_kept h).channel ch (hs ch)

end Sys2Proof.Machine
end

section
/-! PROOFS. HOMING entry as a whole (R70, R71, R80, R87, R88, R91, R93, R155). -/

namespace Sys2Proof.Machine

/-! ### Reactions beside an update of what no reaction touches -/

theorem Reacted.setPlausibility {s t : State} (h : Reacted s t) (x : Timer) :
    Reacted (s.setPlausibility x) (t.setPlausibility x) :=
  { h with speed := by unfold State.setPlausibility; rw [h.speed] }

theorem Reacted.setBulbCheck {s t : State} (h : Reacted s t) (x : Timer) : Reacted (s.setBulbCheck x) (t.setBulbCheck x) :=
  { h with bulbCheck := rfl }

/-! ### The fresh evaluations of telltales that become active (R80, R86, R87) -/

/-- What events keep, and fresh evaluations of active telltales keep, the fresh evaluations of an entry keep. -/
theorem Closed.freshTelltales {P : State → State → Prop} (h : Closed P)
    (hfresh : ∀ (s : State) i, s.telltaleActive i = true → P s (s.evaluateFresh i).state) (before : PartState) (s : State) :
    P s (freshTelltales before s) := by
  unfold Machine.freshTelltales eachTelltale
  refine h.foldl (fun s i => h.whole (fun s => ?_) s) _ s
  dsimp only
  split
  · next hboth => exact hfresh s i (Bool.and_eq_true_iff.mp hboth).1
  · exact h.refl s

theorem reacted_freshTelltales (before : PartState) (s : State) : Reacted s (freshTelltales before s) :=
  closed_reacted.freshTelltales (fun s i _ => (presented_evaluateFresh s i).reacted) before s

theorem lampsTurn_freshTelltales (before : PartState) (s : State) : LampsTurn s (freshTelltales before s) :=
  closed_lampsTurn.freshTelltales (fun s i _ => (moving_lampsTurn i).evaluateFresh s) before s

theorem inactiveStand_freshTelltales (before : PartState) (s : State) : InactiveStand s (freshTelltales before s) := by
  refine closed_inactiveStand.freshTelltales (fun s i hi => ?_) before s
  obtain ⟨htime, htables, hrec⟩ := (moving_onlyHeld i).evaluateFresh s
  refine ⟨by rw [htime], by rw [htables], fun j hj => ?_⟩
  rw [hrec j (by rintro rfl; rw [hi] at hj; cases hj)]
  exact ⟨rfl, rfl⟩

/-! ### HOMING entry at the channels (R70, R71) -/

theorem startFilterTick_eq (s : State) : s.startFilterTick = s.setFilterTick (some (s.gauges.tick.getD 10)) := by
  unfold State.startFilterTick
  cases h : s.gauges.tick with
  | none => rfl
  | some n =>
    dsimp only [Option.getD_some]
    rw [← h]
    rfl

/-- What a channel that HOMING entry has taken counts for homing done and for at rest (R70, R71). -/
theorem homedChannel_reports (c : Channel) (e : GaugeEntry) :
    ((!e.valid || (homedChannel c e).state == .tracking || (homedChannel c e).state == .disabled) = !e.valid) ∧
      (((homedChannel c e).state == .parked || (homedChannel c e).state == .disabled) =
        (!e.valid && !(c.state == .homing))) := by
  unfold homedChannel
  cases e.valid with
  | true => exact ⟨rfl, rfl⟩
  | false => cases c.state <;> exact ⟨rfl, rfl⟩

theorem homingEntry_reports (s : State) :
    (s.mapChannels Channel.homingEntry).homingDoneNow = ((List.finRange 6).all fun ch => !(s.tables.gauge[ch]).valid) ∧
    (s.mapChannels Channel.homingEntry).atRestNow = ((List.finRange 6).all fun ch =>
      !(s.tables.gauge[ch]).valid && !((s.gauges.channels[ch]).state == .homing)) := by
  have hchannel : ∀ ch : Fin 6, (s.mapChannels Channel.homingEntry).gauges.channels[ch] =
      homedChannel s.gauges.channels[ch] s.tables.gauge[ch] := fun _ => Vector.getElem_ofFn _
  unfold State.homingDoneNow State.atRestNow
  simp only [hchannel]
  exact ⟨congrArg _ (funext fun ch => (homedChannel_reports _ _).1),
    congrArg _ (funext fun ch => (homedChannel_reports _ _).2)⟩

/-- HOMING entry's own values at Time Base and Ignition Control and at the Gauge Unit, the bulb check not started yet (R70, R71,
R155). -/
theorem gaugesHomingEntry_eq (s : State) : s.timeHomingEntry.gaugesHomingEntry =
    { s with time := { s.homingValues.time with bulbCheckEnded := false }, gauges := s.homingValues.gauges } := by
  obtain ⟨hdone, hrest⟩ := homingEntry_reports s
  unfold State.homingValues
  rw [← hdone, ← hrest]
  unfold State.gaugesHomingEntry
  rw [startFilterTick_eq]
  rfl

/-! ### HOMING entry at the lamps (R88, R91, R93) -/

theorem lampState_release (l : LampState) : l.release = if l = .shortProtect then .idle else l := by cases l <;> rfl

/-- The lamp channels with SHORT_PROTECT released (R91). -/
def State.released (s : State) : Vector LampState 32 := Vector.ofFn fun ch : Fin 32 =>
  if s.telltales.lamps[ch] = .shortProtect then .idle else s.telltales.lamps[ch]

theorem mapLamps_release (s : State) :
    s.mapLamps LampState.release = { s with telltales := { s.telltales with lamps := s.released } } := by
  unfold State.mapLamps State.released
  simp only [lampState_release]

/-- A recomputation takes the channel states it is given, whatever stands. -/
theorem relit_lamps (s : State) (l m : Vector LampState 32) :
    State.relit { s with telltales := { s.telltales with lamps := l } } m = s.relit m := by
  have hdemand : ∀ ch, State.lampDemanded { s with telltales := { s.telltales with lamps := l } } ch = s.lampDemanded ch :=
    fun _ => rfl
  unfold State.relit
  simp only [hdemand]

theorem relit_records (s : State) (m : Vector LampState 32) : (s.relit m).telltales.records = s.telltales.records := by
  simp only [State.relit]

theorem relit_reportBulbEnd (s : State) (m : Vector LampState 32) :
    (s.relit m).reportBulbEnd = s.reportBulbEnd.relit m := by
  have hdemand : ∀ ch, s.reportBulbEnd.lampDemanded ch = s.lampDemanded ch := fun _ => rfl
  unfold State.relit
  simp only [hdemand]
  rfl

theorem recomputeLamps_released (s : State) (t : Timer) :
    ((s.mapLamps LampState.release).setBulbCheck t).recomputeLamps = (s.setBulbCheck t).relit s.released := by
  rw [recomputeLamps_relit, mapLamps_release]
  exact relit_lamps (s.setBulbCheck t) s.released s.released

/-- `s` with the bulb check started, or ended at once with BulbCheck 0 (R93). -/
def State.bulbCheckStarted (s : State) : State :=
  { s with
    time := { s.time with bulbCheckEnded := decide (s.tables.system.bulbCheck = 0) || s.time.bulbCheckEnded }
    telltales := { s.telltales with
      bulbCheck := if s.tables.system.bulbCheck = 0 then none else some s.tables.system.bulbCheck } }

/-- HOMING entry at the lamps: SHORT_PROTECT is released, the bulb check starts, the lamps are recomputed (R88, R91, R93). -/
theorem startBulbCheck_eq (s : State) : s.startBulbCheck = s.bulbCheckStarted.relit s.released := by
  unfold State.startBulbCheck State.bulbCheckStarted
  dsimp only
  by_cases h : s.tables.system.bulbCheck = 0
  · rw [if_pos h, if_pos h, recomputeLamps_released, relit_reportBulbEnd, decide_eq_true h]
    rfl
  · rw [if_neg h, if_neg h, recomputeLamps_released, decide_eq_false h]
    rfl

/-! ### HOMING entry as a whole (R155) -/

/-- The state in which HOMING entry's fresh evaluations begin: the plausibility tick does not run yet. -/
def State.homingLit (s : State) : State := State.relit { s.homingValues with speed := s.speed } s.released

theorem homingEntry_eq (s : State) :
    homingEntry s = (freshTelltales s.time.part s.homingLit).setPlausibility (some 100) := by
  have hstarted : State.bulbCheckStarted
      { s with time := { s.homingValues.time with bulbCheckEnded := false }, gauges := s.homingValues.gauges } =
      { s.homingValues with speed := s.speed } := by
    unfold State.bulbCheckStarted
    simp only [Bool.or_false]
    rfl
  have hreleased : ∀ (time : TimeBase) (gauges : Gauges), State.released { s with time, gauges } = s.released := fun _ _ => rfl
  unfold homingEntry telltalesHomingEntry
  rw [startBulbCheck_eq, gaugesHomingEntry_eq, hstarted, hreleased]
  rfl

theorem relit_ne_shortProtect {l : LampState} (h : l ≠ .shortProtect) (demanded : Bool) :
    relit l demanded ≠ .shortProtect := by
  unfold relit
  split
  · decide
  · decide
  all_goals exact h

/-- HOMING entry leaves no lamp channel in SHORT_PROTECT before the telltales' turns (R88, R91). -/
theorem homingLit_lamps (s : State) (ch : Fin 32) : s.homingLit.telltales.lamps[ch] ≠ .shortProtect := by
  have hlamp : s.homingLit.telltales.lamps[ch] =
      relit s.released[ch] (State.lampDemanded { s.homingValues with speed := s.speed } ch) := Vector.getElem_ofFn _
  have hreleased : s.released[ch] = if s.telltales.lamps[ch] = .shortProtect then .idle else s.telltales.lamps[ch] :=
    Vector.getElem_ofFn _
  rw [hlamp, hreleased]
  refine relit_ne_shortProtect ?_ _
  split
  · decide
  · assumption

/-- HOMING entry (R155): its own values, then the telltales in turn, of which none puts a lamp channel in SHORT_PROTECT. -/
theorem homingEntry_entered (s : State) : HomingEntered s (homingEntry s) := by
  rw [homingEntry_eq]
  have hreact := reacted_freshTelltales s.time.part s.homingLit
  refine ⟨?_, fun ch => ?_, _, freshTelltales_spec s.time.part s.homingLit, rfl⟩
  · have hlit : Presented s.homingValues (s.homingLit.setPlausibility (some 100)) :=
      presented_lamps s.homingValues s.homingLit.telltales.lamps
    exact hlit.reacted.trans (hreact.setPlausibility (some 100))
  · rw [State.setPlausibility_telltales]
    obtain hsame | ⟨-, hlit⟩ := lampsTurn_freshTelltales s.time.part s.homingLit ch
    · rw [hsame]
      exact homingLit_lamps s ch
    · intro hshort
      rw [hshort] at hlit
      simp at hlit

end Sys2Proof.Machine
end

section
/-! PROOFS. STANDBY entry as a whole (R67, R68, R71, R80, R86, R93, R157), and the ignition events that make the two entries
(R150, R155, R157). -/

namespace Sys2Proof.Machine

/-! ### STANDBY entry at the channels and the ring (R50, R67, R71) -/

/-- What STANDBY entry makes of a channel, parking that ends at once included (R67, R68). -/
theorem standby_eq (c : Channel) (e : GaugeEntry) : c.standby e = standbyChannel c e := by
  unfold Channel.standby standbyChannel Channel.parkedIfHome restingState
  cases c.state with
  | tracking | homing => dsimp only; split <;> rfl
  | unhomed | parking | parked | disabled => rfl

theorem mapChannels_standby (s : State) : s.mapChannels Channel.standby = { s with gauges := { s.gauges with
    channels := Vector.ofFn fun ch : Fin 6 => standbyChannel s.gauges.channels[ch] s.tables.gauge[ch] } } := by
  unfold State.mapChannels
  simp only [standby_eq]

theorem emptied_conflict (a : ArbitrationState) : a.emptied = if a = .conflict then .conflict else .learning := by
  cases a <;> rfl

theorem speedStandby_eq (s : State) : s.speedStandby = { s with speed := { s.speed with
    ring := { s.speed.ring with position := 0, count := 0, lastSum := none }
    state := if s.speed.state = .conflict then .conflict else .learning
    tick := none } } := by
  unfold State.speedStandby
  rw [emptied_conflict]
  rfl

/-- The state in which STANDBY entry's turns of the telltales begin: STANDBY, the bulb check not ended yet. -/
def State.standbyBegun (s : State) : State := { s.standbyValues with telltales := s.telltales }

theorem gaugesStandbyEntry_eq (s : State) :
    (s.timeStandbyEntry.setSilence .cold).speedStandby.gaugesStandbyEntry = s.standbyBegun := by
  unfold State.gaugesStandbyEntry
  rw [startFilterTick_eq, mapChannels_standby, speedStandby_eq]
  rfl

/-! ### STANDBY entry as a whole (R157) -/

theorem standbyEntry_eq (s : State) : standbyEntry s =
    ((freshTelltales s.time.part (eachTelltale State.telltaleStandby s.standbyBegun)).setBulbCheck none).relit
      (freshTelltales s.time.part (eachTelltale State.telltaleStandby s.standbyBegun)).telltales.lamps := by
  unfold standbyEntry telltalesStandbyEntry State.endBulbCheck
  rw [gaugesStandbyEntry_eq, recomputeLamps_relit]
  generalize freshTelltales s.time.part (eachTelltale State.telltaleStandby s.standbyBegun) = w
  rfl

/-- A telltale that is not standby-visible is not active in STANDBY (R80). -/
theorem standbyBegun_inactive (s : State) {i : Fin 64} (h : (s.tables.telltale[i]).standbyVisible = false) :
    s.standbyBegun.telltaleActive i = false := by
  have hactive : s.standbyBegun.telltaleActive i = activeIn .standby s.tables.telltale[i] := rfl
  rw [hactive]
  unfold activeIn
  rw [h]
  exact Bool.and_false _

theorem onlyHeld_telltaleStandby (s : State) (j : Fin 64) : OnlyHeld j s (s.telltaleStandby j).state := by
  have hm := moving_onlyHeld j
  unfold State.telltaleStandby
  split
  · split
    · exact hm.telltaleOff s
    · exact hm.refl s
  · exact onlyHeld_telltaleCleared s j

/-- STANDBY entry's turns leave a telltale that is not standby-visible OFF with condition false (R86). -/
theorem eachStandby_record (s : State) {i : Fin 64} (h : (s.tables.telltale[i]).standbyVisible = false) :
    ((eachTelltale State.telltaleStandby s.standbyBegun).telltales.records[i]).state = .off ∧
      ((eachTelltale State.telltaleStandby s.standbyBegun).telltales.records[i]).condition = false := by
  have hapart : s.standbyBegun.apart i := .inl (standbyBegun_inactive s h)
  obtain ⟨y, ⟨hy, -⟩, -, hafter⟩ := eachTelltale_once presented_telltaleStandby onlyHeld_telltaleStandby s.standbyBegun i
  obtain ⟨hstate, hcond⟩ := hafter (((hy.trans (presented_telltaleStandby y i).reacted).apart i).mpr hapart)
  have hcleared : y.telltaleStandby i = y.telltaleCleared i := by
    have htables : y.tables = s.tables := hy.tables
    unfold State.telltaleStandby
    rw [htables, if_neg (by rw [h]; decide)]
  rw [hcleared] at hstate hcond
  obtain ⟨hoff, hfalse⟩ := telltaleCleared_record y i
  exact ⟨hstate.trans hoff, hcond.trans hfalse⟩

/-- STANDBY entry (R157): its own values, then the telltales in turn, and the end of the bulb check. -/
theorem standbyEntry_entered (s : State) : StandbyEntered s (standbyEntry s) := by
  rw [standbyEntry_eq]
  have hturns := eachTelltale_spec stoodBy_spec s.standbyBegun
  have hreact := reacted_eachTelltale presented_telltaleStandby s.standbyBegun
  have hrecord := fun i => eachStandby_record s (i := i)
  generalize eachTelltale State.telltaleStandby s.standbyBegun = v at hturns hreact hrecord ⊢
  have hfresh := reacted_freshTelltales s.time.part v
  have hstand := inactiveStand_freshTelltales s.time.part v
  have hnew := freshTelltales_spec s.time.part v
  generalize freshTelltales s.time.part v = w at hfresh hstand hnew ⊢
  refine ⟨?_, fun i hi => ?_, v, w, hturns, hnew, rfl⟩
  · have hended : Reacted s.standbyValues (w.setBulbCheck none) := (hreact.trans hfresh).setBulbCheck none
    exact hended.trans (presented_lamps _ _).reacted
  · have hinactive : v.telltaleActive i = false := by
      unfold State.telltaleActive
      rw [hreact.time, hreact.tables]
      exact standbyBegun_inactive s hi
    obtain ⟨-, -, hinactiveRecord⟩ := hstand
    obtain ⟨hstate, hcond⟩ := hinactiveRecord i hinactive
    obtain ⟨hoff, hfalse⟩ := hrecord i hi
    rw [relit_records]
    exact ⟨hstate.trans hoff, hcond.trans hfalse⟩

/-! ### The ignition events (R149, R150, R155 to R158) -/

/-- Slot 126 is written, and each of its readers takes the event (R150). -/
theorem writeIgnition_taken (s : State) :
    EventTaken 126 (s.ignitionWritten.derivedReader 126) s.ignitionWritten (writeIgnition s) :=
  derivedEvent_taken s.ignitionWritten fun _ hr => derivedReader_acted hr

theorem exec_ignitionOn_standby {s : State} (hs : s.awake = true) (hfilter : s.time.ignitionFilter = true)
    (hr : s.rawIgnition = true) (hp : s.time.part = .standby) :
    exec .ignitionOn s = .next (conclude (homingEntry (writeIgnition (s.ignitionTaken true)))) := by
  obtain ⟨hk, hh, -⟩ := (awake_iff s).1 hs
  have hreleased : (s.ignitionTaken true).resetHeld = false := hh
  have hpart : (s.ignitionTaken true).time.part = .standby := hp
  rw [exec_ignitionOn, if_pos ((filterDue_iff s true).2 ⟨hk, hfilter, hr⟩)]
  simp [takeIgnitionOn, hreleased, hpart]

theorem exec_ignitionOff_driving {s : State} (hs : s.awake = true) (hfilter : s.time.ignitionFilter = true)
    (hr : s.rawIgnition = false) (hp : s.time.part = .homing ∨ s.time.part = .run) :
    exec .ignitionOff s = .next (conclude (standbyEntry (writeIgnition (s.ignitionTaken false)))) := by
  obtain ⟨hk, hh, -⟩ := (awake_iff s).1 hs
  have hreleased : (s.ignitionTaken false).resetHeld = false := hh
  have hpart : (s.ignitionTaken false).time.part = .homing ∨ (s.ignitionTaken false).time.part = .run := hp
  rw [exec_ignitionOff, if_pos ((filterDue_iff s false).2 ⟨hk, hfilter, hr⟩)]
  obtain h | h := hpart <;> simp [takeIgnitionOff, hreleased, h]

/-- A command that makes an entry and then ends the event (R156, R158). -/
theorem exec_entered {Entered : State → Prop} {i : Instr} {s u : State} (h : exec i s = .next (conclude u)) (hu : Entered u) :
    ∃ w t, exec i s = .next t ∧ Entered w ∧ Concluded w t := ⟨u, _, h, hu, conclude_spec u⟩

/-- Settles O8: slot 126 with its readers, the entry as a whole by `homingEntry_entered` or `standbyEntry_entered`, and the end
of the event. -/
theorem ignitionEventsEnterHomingAndStandby : Obligations.IgnitionEventsEnterHomingAndStandby := by
  refine ⟨fun s hs hfilter hr hp => ?_, fun s hs hfilter hr hp => ?_⟩
  · obtain ⟨w, t, ht, hentered, hconcluded⟩ :=
      exec_entered (exec_ignitionOn_standby hs hfilter hr hp) (homingEntry_entered _)
    exact ⟨_, w, t, ht, writeIgnition_reacted _, writeIgnition_taken _, hentered, hconcluded⟩
  · obtain ⟨w, t, ht, hentered, hconcluded⟩ :=
      exec_entered (exec_ignitionOff_driving hs hfilter hr hp) (standbyEntry_entered _)
    exact ⟨_, w, t, ht, writeIgnition_reacted _, writeIgnition_taken _, hentered, hconcluded⟩

end Sys2Proof.Machine
end

section
/-! PROOFS. A channel's target by its curve, the damping step and the motion step (R58 to R61). -/

namespace Sys2Proof.Machine

/-! ### The rounded quotient (R58) -/

theorem roundAway_nearest (num : Int) {den : Nat} (hden : 0 < den) :
    2 * |num - roundAway num den * den| ≤ den ∧
      (2 * |num - roundAway num den * den| = den → |num| < |roundAway num den| * den) := by
  obtain ⟨q, hq⟩ : ∃ q : Nat, (2 * num.natAbs + den) / (2 * den) = q := ⟨_, rfl⟩
  have hdivision := Nat.div_add_mod (2 * num.natAbs + den) (2 * den)
  have hrest := Nat.mod_lt (2 * num.natAbs + den) (show 0 < 2 * den by omega)
  have hproduct : 2 * den * q = 2 * (q * den) := by ring
  rw [hq, hproduct] at hdivision
  have hcast : ((q * den : Nat) : Int) = (q : Int) * den := Nat.cast_mul q den
  have hround : roundAway num den = if num < 0 then -(q : Int) else q := by rw [← hq]; rfl
  have habs : |roundAway num den| = q := by
    rw [hround]
    split <;> simp
  rw [habs, hround]
  simp only [Int.abs_eq_natAbs]
  split
  · rw [neg_mul]
    omega
  · omega

/-- A quotient that is no less than an integer rounds to no less than it. -/
theorem le_roundAway {num y : Int} {den : Nat} (hden : 0 < den) (h : y * den ≤ num) : y ≤ roundAway num den := by
  obtain ⟨hnear, -⟩ := roundAway_nearest num hden
  have habove := le_abs_self (num - roundAway num den * den)
  by_contra hlt
  have hscaled : (roundAway num den + 1) * den ≤ y * den := mul_le_mul_of_nonneg_right (by omega) (Int.natCast_nonneg den)
  rw [add_mul, one_mul] at hscaled
  omega

/-- Between two points the value is the first y with the quotient rounded to the nearest integer added. -/
theorem interpolate_eq {p q : CurvePoint} {v : Int} (hp : p.x.toInt ≤ v) (hq : v < q.x.toInt) :
    (interpolate p q v : Int) =
      p.y + roundAway ((v - p.x.toInt) * ((q.y : Int) - p.y)) (q.x.toInt - p.x.toInt).toNat := by
  obtain ⟨den, hden⟩ : ∃ den : Nat, (q.x.toInt - p.x.toInt).toNat = den := ⟨_, rfl⟩
  have hrise : 0 ≤ (v - p.x.toInt) * (q.y : Int) := mul_nonneg (by omega) (by omega)
  have hdrop : (v - p.x.toInt) * (p.y : Int) ≤ den * p.y := mul_le_mul_of_nonneg_right (by omega) (by omega)
  have hfall : -(p.y : Int) * den ≤ (v - p.x.toInt) * ((q.y : Int) - p.y) := by
    rw [mul_sub, neg_mul, mul_comm (p.y : Int)]
    omega
  have hround := le_roundAway (by omega : 0 < den) hfall
  unfold interpolate
  rw [hden, Int.toNat_of_nonneg (by omega)]

theorem interpolate_first {p q : CurvePoint} (h : p.x.toInt < q.x.toInt) : interpolate p q p.x.toInt = p.y := by
  have hzero : roundAway 0 (q.x.toInt - p.x.toInt).toNat = 0 := by
    unfold roundAway
    rw [if_neg (lt_irrefl _)]
    exact congrArg Nat.cast (Nat.div_eq_of_lt (by simp; omega))
  have heq := interpolate_eq le_rfl h
  rw [sub_self, zero_mul, hzero, add_zero] at heq
  exact Int.natCast_inj.mp heq

/-! ### The segment of a value (R58) -/

/-- The points of a curve in use (R52). -/
def Curve.used (c : Curve) : List CurvePoint := c.points.toList.take c.pointCount

/-- Two points of a curve in their order. -/
def CurvePoint.precedes (p q : CurvePoint) : Prop := p.x.toInt < q.x.toInt

theorem curveFrom_segment {p a b : CurvePoint} {before after rest : List CurvePoint} {v : Int}
    (hsplit : p :: rest = before ++ a :: b :: after) (hrise : (p :: rest).Pairwise CurvePoint.precedes)
    (ha : a.x.toInt ≤ v) (hb : v < b.x.toInt) : curveFrom p rest v = interpolate a b v := by
  induction before generalizing p rest with
  | nil =>
    obtain ⟨rfl, rfl⟩ := List.cons.inj hsplit
    exact if_pos hb
  | cons c before ih =>
    obtain ⟨rfl, hrest⟩ := List.cons.inj hsplit
    obtain ⟨-, hrise⟩ := List.pairwise_cons.mp hrise
    cases rest with
    | nil => simp at hrest
    | cons q rest =>
      have hq : ¬ v < q.x.toInt := by
        cases before with
        | nil =>
          obtain ⟨rfl, -⟩ := List.cons.inj hrest
          omega
        | cons d before =>
          obtain ⟨rfl, rfl⟩ := List.cons.inj hrest
          have hqa : q.x.toInt < a.x.toInt := (List.pairwise_cons.mp hrise).1 a (by simp)
          omega
      exact (if_neg hq).trans (ih hrest hrise)

theorem curveFrom_last {p a : CurvePoint} {before rest : List CurvePoint} {v : Int} (hsplit : p :: rest = before ++ [a])
    (hrise : (p :: rest).Pairwise CurvePoint.precedes) (ha : a.x.toInt ≤ v) : curveFrom p rest v = a.y := by
  induction before generalizing p rest with
  | nil =>
    obtain ⟨rfl, rfl⟩ := List.cons.inj hsplit
    rfl
  | cons c before ih =>
    obtain ⟨rfl, rfl⟩ := List.cons.inj hsplit
    obtain ⟨-, hrise⟩ := List.pairwise_cons.mp hrise
    cases before with
    | nil => exact if_neg (by omega)
    | cons q before =>
      have hqa : q.x.toInt < a.x.toInt := (List.pairwise_cons.mp hrise).1 a (by simp)
      exact (if_neg (by omega)).trans (ih rfl hrise)

section
variable {c : Curve}

theorem pointCount_bounds (h : c.inRange = true) : 2 ≤ c.pointCount ∧ c.pointCount ≤ 8 := by
  simp only [Curve.inRange, Bool.and_eq_true, decide_eq_true_eq] at h
  obtain ⟨hcount, -⟩ := h
  exact hcount

theorem used_length (h : c.inRange = true) : c.used.length = c.pointCount := by
  have hcount := pointCount_bounds h
  simp [Curve.used, hcount]

theorem used_getElem {n : Nat} (hn : n < 8) (h : n < c.used.length) : c.used[n] = c.points[n] := by
  simp [Curve.used]

/-- The x of the points in use rise strictly (R52). -/
theorem used_rises (hrange : c.inRange = true) (h : c.inOrder = true) : c.used.Pairwise CurvePoint.precedes := by
  have : IsTrans CurvePoint CurvePoint.precedes := ⟨fun _ _ _ => lt_trans⟩
  rw [← List.isChain_iff_pairwise, List.isChain_iff_getElem]
  intro n hn
  have hcount := pointCount_bounds hrange
  have hlength := used_length hrange
  simp only [Curve.inOrder, List.all_eq_true, List.mem_finRange, true_implies, Bool.or_eq_true, Bool.not_eq_true',
    decide_eq_false_iff_not, decide_eq_true_eq] at h
  rw [used_getElem (by omega), used_getElem (by omega)]
  exact (h ⟨n, by omega⟩).resolve_left fun g => g (hlength ▸ hn)

/-- The points in use are the first one and those that follow it. -/
theorem used_cons (hrange : c.inRange = true) : ∃ rest, c.used = c.points[0] :: rest := by
  have hlength := used_length hrange
  have hcount := pointCount_bounds hrange
  have hfirst := used_getElem (c := c) (n := 0) (by omega) (by omega)
  cases hused : c.used with
  | nil => simp [hused] at hlength; omega
  | cons p rest =>
    simp only [hused, List.getElem_cons_zero] at hfirst
    exact ⟨rest, by rw [hfirst]⟩

theorem value_of_used {p : CurvePoint} {rest : List CurvePoint} (h : c.used = p :: rest) (v : Int) :
    c.value v = if v ≤ p.x.toInt then p.y else curveFrom p rest v := by
  unfold Curve.value
  rw [show c.points.toList.take c.pointCount = p :: rest from h]

/-- The last point's y stands at and above it (R58). -/
theorem value_above (hrange : c.inRange = true) (horder : c.inOrder = true) {n : Fin 8} (hn : n.val + 1 = c.pointCount)
    {v : Int} (hv : (c.points[n]).x.toInt ≤ v) : c.value v = (c.points[n]).y := by
  obtain ⟨rest, hused⟩ := used_cons hrange
  have hlength := used_length hrange
  have hcount := pointCount_bounds hrange
  have hrise := used_rises hrange horder
  have hfirst : (c.points[0]).x.toInt < (c.points[n]).x.toInt := by
    have h := List.pairwise_iff_getElem.mp hrise 0 n.val (by omega) (by omega) (by omega)
    rwa [used_getElem (by omega), used_getElem (by omega)] at h
  have hsplit : c.used = c.used.take n.val ++ [c.points[n]] := by
    conv_lhs => rw [← List.take_append_drop n.val c.used]
    rw [List.drop_eq_getElem_cons (by omega), used_getElem (by omega), List.drop_eq_nil_of_le (by omega)]
    rfl
  rw [value_of_used hused, if_neg (by omega)]
  rw [hused] at hrise
  exact curveFrom_last (hused ▸ hsplit) hrise hv

/-- Between two points the value is the segment's, at its lower end too (R58). -/
theorem value_segment (hrange : c.inRange = true) (horder : c.inOrder = true) {i j : Fin 8} (hij : j.val = i.val + 1)
    (hj : j.val < c.pointCount) {v : Int} (hi : (c.points[i]).x.toInt ≤ v) (hv : v < (c.points[j]).x.toInt) :
    c.value v = interpolate c.points[i] c.points[j] v := by
  obtain ⟨rest, hused⟩ := used_cons hrange
  have hlength := used_length hrange
  have hrise := used_rises hrange horder
  rw [value_of_used hused]
  split
  · next hbelow =>
    have hzero : i.val = 0 := by
      by_contra hne
      have h := List.pairwise_iff_getElem.mp hrise 0 i.val (by omega) (by omega) (by omega)
      rw [used_getElem (by omega), used_getElem (by omega)] at h
      exact absurd (lt_of_lt_of_le h (hi.trans hbelow)) (lt_irrefl _)
    obtain rfl : i = 0 := Fin.ext hzero
    obtain rfl := le_antisymm hbelow hi
    exact (interpolate_first hv).symm
  · have hsplit : c.used = c.used.take i.val ++ c.points[i] :: c.points[j] :: c.used.drop (i.val + 2) := by
      conv_lhs => rw [← List.take_append_drop i.val c.used]
      rw [List.drop_eq_getElem_cons (by omega), List.drop_eq_getElem_cons (by omega), used_getElem (by omega),
        used_getElem (by omega)]
      simp only [Fin.getElem_fin, hij]
    rw [hused] at hrise
    exact curveFrom_segment (hused ▸ hsplit) hrise hi hv

end

/-! ### The damping step (R60) -/

/-- What a damping step adds to the filter state, from what remains. -/
def dampingStep (k : Nat) (delta : Int) : Int :=
  if delta.tdiv (2 ^ k) = 0 ∧ delta ≠ 0 then delta.sign else delta.tdiv (2 ^ k)

/-- A damping step lies between 0 and what remains, and is 0 only when nothing remains. -/
theorem dampingStep_between (k : Nat) (delta : Int) :
    (0 ≤ delta → 0 ≤ dampingStep k delta ∧ dampingStep k delta ≤ delta) ∧
    (delta ≤ 0 → delta ≤ dampingStep k delta ∧ dampingStep k delta ≤ 0) ∧ (delta ≠ 0 → dampingStep k delta ≠ 0) := by
  obtain ⟨hup, hdown⟩ := tdiv_between delta k
  unfold dampingStep
  split
  · next h =>
    obtain hneg | hpos := lt_or_gt_of_ne h.2
    · rw [Int.sign_eq_neg_one_of_neg hneg]; omega
    · rw [Int.sign_eq_one_of_pos hpos]; omega
  · next h =>
    omega

theorem damped_eq (k target filter : Nat) :
    (damped k target filter : Int) = filter + dampingStep k (16 * (target : Int) - filter) := by
  have hsign : ∀ delta : Int, delta ≠ 0 → (if 0 < delta then (1 : Int) else -1) = delta.sign := fun delta hdelta => by
    obtain hneg | hpos := lt_or_gt_of_ne hdelta
    · rw [if_neg (by omega), Int.sign_eq_neg_one_of_neg hneg]
    · rw [if_pos hpos, Int.sign_eq_one_of_pos hpos]
  have hbetween := dampingStep_between k (16 * (target : Int) - filter)
  have hstep : damped k target filter = ((filter : Int) + dampingStep k (16 * (target : Int) - filter)).toNat := by
    unfold damped dampingStep
    dsimp only
    split
    · next h => rw [hsign _ h.2]
    · rfl
  rw [hstep, Int.toNat_of_nonneg (by omega)]

theorem dampingStep_zero (delta : Int) : dampingStep 0 delta = delta := by
  unfold dampingStep
  rw [pow_zero, Int.tdiv_one, if_neg fun h => h.2 h.1]

/-! ### The steps together -/

/-- Settles O25: the curve value is the segment's, whose quotient `roundAway` takes to the nearest integer; the filter state moves by
`dampingStep`; the position by arithmetic. -/
theorem dampingAndMotionFollowTheirSteps : Obligations.DampingAndMotionFollowTheirSteps := by
  refine ⟨fun e c x before => ⟨?_, ?_, ?_, ?_⟩, fun c v hrange horder => ⟨fun hv => ?_, fun n hn hv => ?_, ?_⟩,
    fun k target filter => ⟨damped_eq k target filter, ?_⟩, fun vmax maxPos filter position => ?_⟩
  · rintro (h | h) hvalid <;> simp only [GaugeEntry.target, h, hvalid, if_true]
  · rintro (h | h) hvalid <;> simp [GaugeEntry.target, h, hvalid]
  · rintro (h | h) <;> cases hpolicy : e.stalePolicy <;> simp only [GaugeEntry.target, h, hpolicy]
  · rintro (h | h) <;> simp only [GaugeEntry.target, h]
  · obtain ⟨rest, hused⟩ := used_cons hrange
    rw [value_of_used hused, if_pos hv]
  · exact value_above hrange horder hn hv
  · intro i j hij hj hi hv
    dsimp only
    obtain ⟨den, hden⟩ : ∃ den : Nat, ((c.points[j]).x.toInt - (c.points[i]).x.toInt).toNat = den := ⟨_, rfl⟩
    have hcast : (c.points[j]).x.toInt - (c.points[i]).x.toInt = den := by omega
    rw [value_segment hrange horder hij hj hi hv, interpolate_eq hi hv, hden, hcast, add_sub_cancel_left]
    exact roundAway_nearest _ (by omega)
  · have hafter := damped_eq k target filter
    have hbetween := dampingStep_between k (16 * (target : Int) - filter)
    refine ⟨fun hk => ?_, ?_⟩
    · subst hk
      rw [dampingStep_zero] at hafter
      omega
    · omega
  · dsimp only
    unfold movedPosition
    dsimp only
    refine ⟨Nat.min_le_right _ _, fun h => ?_, fun d hlow hhigh => ?_⟩
    · split <;> split <;> omega
    · have hgoal : (filter + 8) / 16 = d := by omega
      rw [hgoal]
      split <;> split <;> omega

end Sys2Proof.Machine
end

section
/-! PROOFS. A TRACKING channel whose target stands still reaches it (R60, R61). -/

namespace Sys2Proof.Machine

/-! ### One tick under a still target -/

/-- What a TRACKING channel has still to go under a still target: while the filter state is on its way, more than the position can
be away, and then the position's distance. -/
def Channel.toGo (c : Channel) (e : GaugeEntry) : Nat :=
  if c.filter = 16 * c.target then (c.position - c.target) + (c.target - c.position)
  else (c.filter - 16 * c.target) + (16 * c.target - c.filter) + e.maxPos

theorem toGo_eq_zero {c : Channel} {e : GaugeEntry} : c.toGo e = 0 ↔ c.filter = 16 * c.target ∧ c.position = c.target := by
  unfold Channel.toGo
  split <;> omega

@[simp] theorem track_target (c : Channel) (e : GaugeEntry) : (c.track e).target = c.target := rfl

theorem track_filter (c : Channel) (e : GaugeEntry) : (c.track e).filter = damped e.damping c.target c.filter := rfl

theorem track_position (c : Channel) (e : GaugeEntry) :
    (c.track e).position = movedPosition e.vmax e.maxPos (c.track e).filter c.position := rfl

theorem track_moved (c : Channel) (e : GaugeEntry) : (c.track e).moved = ((c.track e).position != c.position) := rfl

section
variable {c : Channel} {e : GaugeEntry} (ht : c.target ≤ e.maxPos)
include ht

/-- A tick of a channel that has arrived leaves it where it is. -/
theorem track_arrived (h : c.toGo e = 0) : (c.track e).toGo e = 0 ∧ (c.track e).moved = false := by
  obtain ⟨hfilter, hposition⟩ := toGo_eq_zero.mp h
  have hdamped := damped_eq e.damping c.target c.filter
  have hbetween := dampingStep_between e.damping (16 * (c.target : Int) - c.filter)
  have hstays : (c.track e).filter = 16 * c.target := by rw [track_filter]; omega
  have hrests : (c.track e).position = c.position := by
    rw [track_position, hstays]
    unfold movedPosition
    dsimp only
    split <;> split <;> omega
  refine ⟨toGo_eq_zero.mpr ⟨hstays, hrests.trans hposition⟩, ?_⟩
  rw [track_moved, hrests, bne_self_eq_false]

/-- A tick of a channel that has not arrived brings it nearer. -/
theorem track_nearer (hv : 1 ≤ e.vmax) (h : c.toGo e ≠ 0) : (c.track e).toGo e < c.toGo e := by
  have hdamped := damped_eq e.damping c.target c.filter
  have hbetween := dampingStep_between e.damping (16 * (c.target : Int) - c.filter)
  rw [← track_filter] at hdamped
  have hposition := track_position c e
  unfold movedPosition at hposition
  dsimp only at hposition
  unfold Channel.toGo at h ⊢
  rw [track_target]
  split at h
  · next hfilter =>
    rw [if_pos (by omega), if_pos hfilter]
    split at hposition <;> split at hposition <;> omega
  · next hfilter =>
    rw [if_neg hfilter]
    split <;> omega

end

/-! ### Many ticks -/

theorem track_iterate_target (c : Channel) (e : GaugeEntry) (m : Nat) :
    ((fun x : Channel => x.track e)^[m] c).target = c.target := by
  induction m generalizing c with
  | zero => rfl
  | succ m ih => exact ih (c.track e)

theorem track_iterate_arrived {e : GaugeEntry} (hv : 1 ≤ e.vmax) (m : Nat) {c : Channel} (ht : c.target ≤ e.maxPos)
    (hm : c.toGo e ≤ m) : ((fun x : Channel => x.track e)^[m] c).toGo e = 0 := by
  induction m generalizing c with
  | zero => exact Nat.le_zero.mp hm
  | succ m ih =>
    refine ih (c := c.track e) ht ?_
    by_cases h : c.toGo e = 0
    · rw [(track_arrived ht h).1]
      exact Nat.zero_le m
    · have := track_nearer ht hv h
      omega

/-- Settles O26: every tick before the arrival brings the channel nearer, and every tick after it leaves the channel there. -/
theorem stillTargetIsReached : Obligations.StillTargetIsReached := by
  intro c e he ht
  have hv : 1 ≤ e.vmax := by
    simp only [GaugeEntry.ok, Bool.and_eq_true, decide_eq_true_eq] at he
    omega
  refine ⟨c.toGo e, fun m hm => ?_⟩
  have harrived := track_iterate_arrived hv m ht hm
  have htarget := track_iterate_target c e m
  obtain ⟨hfilter, hposition⟩ := toGo_eq_zero.mp harrived
  exact ⟨htarget ▸ hfilter, hposition.trans htarget, htarget, (track_arrived (htarget ▸ ht) harrived).2⟩

end Sys2Proof.Machine
end

section
/-! PROOFS. What the channels' work at a filter tick leaves of one channel: its own turn, and the turns of the others (R56, R57,
R60, R61, R63, R68). -/

namespace Sys2Proof.Machine

/-! ### Targets that no event of slot 127 evaluates -/

theorem occurring_target (T : Tables) (ch : Fin 6) : Occurring (Keeps T fun s => (s.gauges.channels[ch]).target) where
  refl := keeps_refl
  trans := keeps_trans
  egress _ _ _ _ := keeps_of_eq rfl rfl
  record _ _ _ _ _ := keeps_of_eq rfl rfl

/-- A write of slot 127, to any depth, evaluates the channels on slot 127 alone (R57, R169). -/
theorem keeps_target_publish {T : Tables} {ch : Fin 6} (hch : (T.gauge[ch]).source ≠ 127) (n : Nat) (s : State) :
    Keeps T (fun s => (s.gauges.channels[ch]).target) s (publish n s) := by
  have hoccurring := occurring_target T ch
  induction n generalizing s with
  | zero => exact keeps_of_eq rfl rfl
  | succ n ih =>
    have htaken : Keeps T (fun s => (s.gauges.channels[ch]).target) s (s.storeSevere.gaugesObserve 127) := by
      rw [gaugesObserve_eq]
      refine fun hs => ⟨hs, ?_⟩
      have htables : s.storeSevere.tables = T := hs
      dsimp only
      rw [targetsTaken_channel, htables, if_neg fun h => hch (beq_iff_eq.mp (Bool.and_eq_true_iff.mp h).2)]
      rfl
    refine keeps_trans htaken (observe_induction keeps_refl (fun _ _ _ => keeps_trans) (fun _ _ => keeps_of_eq rfl rfl) _ _
      fun r hr x => ?_)
    cases r with
    | telltales =>
      exact keeps_evaluateReaders hoccurring ih 127
        (fun s i _ _ => by rw [(presented_evaluateTelltale s i).gauges]) x
    | ack =>
      exact keeps_observeAck hoccurring ih 127 (fun _ _ => rfl) (fun s _ => by rw [(presented_press s).gauges]) x
    | road => exact absurd rfl (not_road_of_severe _ ((mem_derivedReaders _ _ _).1 hr))
    | speed | activity | token | tally | time => exact keeps_refl x

theorem raiseItem_target {ch : Fin 6} {s : State} (hch : (s.tables.gauge[ch]).source ≠ 127) (c : FaultClass) (n : Nat) :
    ((raiseItem c n s).gauges.channels[ch]).target = (s.gauges.channels[ch]).target := by
  exact ((occurring_target s.tables ch).occur (keeps_target_publish hch _) _ _ _ s rfl).2

/-! ### What the work leaves of the rest -/

theorem Reacted.withGauges {s t : State} (h : Reacted s t) (g : Gauges) :
    Reacted { s with gauges := g } { t with gauges := g } :=
  { h with filterTick := rfl, motion := fun _ => rfl }

/-- Across work at the channels: beside the channels there are reactions alone, and the filter tick's interval stands. -/
structure ChannelsWorked (s t : State) : Prop where
  rest : Reacted { s with gauges := t.gauges } t
  tick : t.gauges.tick = s.gauges.tick

theorem ChannelsWorked.trans {s t u : State} (h : ChannelsWorked s t) (g : ChannelsWorked t u) : ChannelsWorked s u :=
  ⟨(h.rest.withGauges u.gauges).trans g.rest, g.tick.trans h.tick⟩

theorem Reacted.channelsWorked {s t : State} (h : Reacted s t) : ChannelsWorked s t := ⟨h.withGauges t.gauges, h.filterTick⟩

theorem channelsWorked_setChannel (s : State) (ch : Fin 6) (c : Channel) : ChannelsWorked s (s.setChannel ch c) :=
  ⟨.refl _, rfl⟩

/-! ### The turns of the other channels -/

/-- Across the turns of other channels: a channel keeps all but its target, and on another slot than 127 its target too. -/
structure TurnAwaited (ch : Fin 6) (s t : State) : Prop extends ChannelsWorked s t where
  channel : t.gauges.channels[ch] = { s.gauges.channels[ch] with target := (t.gauges.channels[ch]).target }
  target : (s.tables.gauge[ch]).source ≠ 127 → (t.gauges.channels[ch]).target = (s.gauges.channels[ch]).target

section
variable {ch : Fin 6} {s t u : State}

theorem turnAwaited_refl (s : State) : TurnAwaited ch s s := ⟨(Reacted.refl s).channelsWorked, rfl, fun _ => rfl⟩

theorem TurnAwaited.trans (h : TurnAwaited ch s t) (g : TurnAwaited ch t u) : TurnAwaited ch s u where
  toChannelsWorked := h.toChannelsWorked.trans g.toChannelsWorked
  channel := by rw [g.channel, h.channel]
  target hch := (g.target (by rw [h.rest.tables]; exact hch)).trans (h.target hch)

theorem turnAwaited_setChannel {j : Fin 6} (hj : j ≠ ch) (s : State) (c : Channel) : TurnAwaited ch s (s.setChannel j c) := by
  have hsame : (s.setChannel j c).gauges.channels[ch] = s.gauges.channels[ch] :=
    Vector.getElem_set_ne j.isLt ch.isLt fun h => hj (Fin.ext h)
  exact ⟨channelsWorked_setChannel s j c, by rw [hsame], fun _ => by rw [hsame]⟩

theorem turnAwaited_raiseItem (c : FaultClass) (n : Nat) (s : State) : TurnAwaited ch s (raiseItem c n s) :=
  ⟨(reacted_raiseItem c n s).channelsWorked, (reacted_raiseItem c n s).motion ch, fun hch => raiseItem_target hch c n⟩

/-- Another channel's turn (R56). -/
theorem turnAwaited_tickChannel {j : Fin 6} (hj : j ≠ ch) (s : State) : TurnAwaited ch s (tickChannel j s) := by
  have hset := turnAwaited_setChannel hj
  unfold tickChannel
  split
  · unfold tickHoming
    dsimp only
    split
    · exact ((hset s _).trans (turnAwaited_raiseItem ..)).trans (hset _ _)
    · exact hset s _
  · exact (hset s _).trans (hset _ _)
  · exact hset s _
  all_goals exact turnAwaited_refl s

/-! ### A channel's own turn -/

/-- A tick takes a TRACKING channel's target as found, and keeps the target of any other. -/
theorem tickedChannel_target (c : Channel) (e : GaugeEntry) (part : PartState) (target : Nat) :
    (tickedChannel c e part target).target = if c.state = .tracking then target else c.target := by
  unfold tickedChannel
  cases c.state with
  | homing => dsimp only; split <;> rfl
  | tracking | parking | unhomed | parked | disabled => rfl

/-- But for the target, what a tick makes of a channel does not depend on the target it had. -/
theorem tickedChannel_retarget (c : Channel) (e : GaugeEntry) (part : PartState) (target before after : Nat) :
    { tickedChannel { c with target := before } e part target with target := after } =
      { tickedChannel c e part target with target := after } := by
  obtain ⟨state, t, f, p, n, d, k, m⟩ := c
  cases state with
  | homing => unfold tickedChannel; dsimp only; split <;> rfl
  | tracking | parking | unhomed | parked | disabled => rfl

/-- A channel's own turn: what the tick makes of it, but for the target of one on slot 127, and GAUGE_HOMING_FAIL when its homing
has failed. -/
structure TurnTaken (ch : Fin 6) (s t : State) : Prop extends ChannelsWorked s t where
  channel : t.gauges.channels[ch] =
    { tickedChannel s.gauges.channels[ch] s.tables.gauge[ch] s.time.part (s.tickTarget ch) with
      target := (t.gauges.channels[ch]).target }
  target : (s.tables.gauge[ch]).source ≠ 127 → (t.gauges.channels[ch]).target = s.tickTarget ch
  failed : (s.gauges.channels[ch]).state = .homing →
    (s.tables.gauge[ch]).maxPos + 64 ≤ (s.gauges.channels[ch]).homingDistance + 32 →
    t.faults.status[FaultClass.gaugeHomingFail.number] = true

theorem tickTarget_ticked (s : State) (ch : Fin 6) :
    (tickedChannel s.gauges.channels[ch] s.tables.gauge[ch] s.time.part (s.tickTarget ch)).target = s.tickTarget ch := by
  rw [tickedChannel_target]
  unfold State.tickTarget
  dsimp only
  split <;> rfl

/-- A homing that fails takes its target along from before the occurrence (R63, R64). -/
theorem tickHoming_target (hch : (s.tables.gauge[ch]).source ≠ 127) :
    ((tickHoming ch s).gauges.channels[ch]).target = (s.gauges.channels[ch]).target := by
  have hdriven : ((s.updateChannel ch fun c _ => c.driveHome).gauges.channels[ch]).target =
      (s.gauges.channels[ch]).target := (congrArg Channel.target (setChannel_channel s ch _)).trans rfl
  unfold tickHoming
  dsimp only
  split
  · refine (congrArg Channel.target (setChannel_channel ..)).trans ?_
    exact (raiseItem_target (s := s.updateChannel ch fun c _ => c.driveHome) hch _ _).trans hdriven
  · exact hdriven

theorem tickChannel_taken (ch : Fin 6) (s : State) : TurnTaken ch s (tickChannel ch s) := by
  have hticked := tickChannel_spec ch s
  unfold ChannelTicked at hticked
  dsimp only at hticked
  split at hticked
  · next hfails =>
    obtain ⟨u, hraised, ht⟩ := hticked
    obtain ⟨hhoming, -⟩ := hfails
    have hworked := hraised.reacted.channelsWorked
    refine ⟨?_, ?_, fun hch => ?_, fun _ _ => ?_⟩
    · rw [ht]
      exact (channelsWorked_setChannel s ch _).trans (hworked.trans (channelsWorked_setChannel u ch _))
    · rw [ht, setChannel_channel]
    · have htarget : s.tickTarget ch = (s.gauges.channels[ch]).target := by
        unfold State.tickTarget
        dsimp only
        rw [hhoming, if_neg (by decide)]
      have hchannel : tickChannel ch s = tickHoming ch s := by
        unfold tickChannel
        rw [hhoming]
      rw [htarget, hchannel, tickHoming_target hch]
    · rw [ht]
      exact hraised.status
  · next hholds =>
    refine ⟨?_, ?_, fun hch => ?_, fun hhoming hfar => absurd ⟨hhoming, hfar⟩ hholds⟩
    · rw [hticked]
      exact channelsWorked_setChannel s ch _
    · rw [hticked, setChannel_channel]
    · rw [hticked, setChannel_channel, tickTarget_ticked]

end

end Sys2Proof.Machine
end

section
/-! PROOFS. The filter tick (R56, R57, R60, R61, R63, R68, R71) and the stall reports (R64 to R66, R69, R71). -/

namespace Sys2Proof.Machine

/-! ### The channels' work (R56) -/

/-- A channel at a filter tick: its own turn among the turns of the others. -/
theorem tickChannels_turn (ch : Fin 6) (s : State) :
    ∃ y, TurnAwaited ch s y ∧ TurnTaken ch y (tickChannel ch y) ∧ TurnAwaited ch (tickChannel ch y) (tickChannels s) := by
  obtain ⟨y, hbefore, hafter⟩ := foldl_once (f := fun s ch => tickChannel ch s) (turnAwaited_refl (ch := ch))
    TurnAwaited.trans (List.nodup_finRange 6) (List.mem_finRange ch) (fun s j _ hj => turnAwaited_tickChannel hj s) s
  exact ⟨y, hbefore, tickChannel_taken ch y, hafter⟩

theorem tickChannels_worked (s : State) : ChannelsWorked s (tickChannels s) := by
  obtain ⟨y, hbefore, hturn, hafter⟩ := tickChannels_turn 0 s
  exact (hbefore.toChannelsWorked.trans hturn.toChannelsWorked).trans hafter.toChannelsWorked

section
variable {ch : Fin 6} {s : State}

/-- But for its target, a channel at a filter tick is what its own turn makes of it, with a target found there. -/
theorem tickChannels_onSlot127 : ∃ target, (tickChannels s).gauges.channels[ch] =
    { tickedChannel s.gauges.channels[ch] s.tables.gauge[ch] s.time.part target with
      target := ((tickChannels s).gauges.channels[ch]).target } := by
  obtain ⟨y, hbefore, hturn, hafter⟩ := tickChannels_turn ch s
  have htables : y.tables = s.tables := hbefore.rest.tables
  have htime : y.time = s.time := hbefore.rest.time
  refine ⟨y.tickTarget ch, ?_⟩
  have hchannel := hafter.channel
  rw [hturn.channel, hbefore.channel, htables, htime] at hchannel
  exact hchannel.trans (tickedChannel_retarget ..)

theorem TurnAwaited.tickTarget {t : State} (h : TurnAwaited ch s t) (hch : (s.tables.gauge[ch]).source ≠ 127) :
    t.gauges.channels[ch] = s.gauges.channels[ch] ∧ t.tickTarget ch = s.tickTarget ch := by
  have hchannel : t.gauges.channels[ch] = s.gauges.channels[ch] := by rw [h.channel, h.target hch]
  have hslot : t.slot (s.tables.gauge[ch]).source = s.slot (s.tables.gauge[ch]).source := h.rest.slots _ hch
  have htables : t.tables = s.tables := h.rest.tables
  refine ⟨hchannel, ?_⟩
  unfold State.tickTarget
  simp only [hchannel, htables, hslot]

/-- A channel on another slot than 127 is what the tick makes of it with the target that the tick finds. -/
theorem tickChannels_channel (hch : (s.tables.gauge[ch]).source ≠ 127) : (tickChannels s).gauges.channels[ch] =
    tickedChannel s.gauges.channels[ch] s.tables.gauge[ch] s.time.part (s.tickTarget ch) := by
  obtain ⟨y, hbefore, hturn, hafter⟩ := tickChannels_turn ch s
  have htables : y.tables = s.tables := hbefore.rest.tables
  have htime : y.time = s.time := hbefore.rest.time
  have hy : (y.tables.gauge[ch]).source ≠ 127 := by rw [htables]; exact hch
  obtain ⟨hchannel, htarget⟩ := hbefore.tickTarget hch
  have hown : (tickChannel ch y).gauges.channels[ch] =
      tickedChannel y.gauges.channels[ch] y.tables.gauge[ch] y.time.part (y.tickTarget ch) := by
    rw [hturn.channel, hturn.target hy]
    exact congrArg (fun t => { tickedChannel _ _ _ _ with target := t }) (tickTarget_ticked y ch).symm
  obtain ⟨hlater, -⟩ := hafter.tickTarget (by rw [hturn.rest.tables]; exact hy)
  rw [hlater, hown, hchannel, htables, htime, htarget]

/-- A homing that fails has raised GAUGE_HOMING_FAIL (R63). -/
theorem tickChannels_failed (hs : (s.gauges.channels[ch]).state = .homing)
    (hfar : (s.tables.gauge[ch]).maxPos + 64 ≤ (s.gauges.channels[ch]).homingDistance + 32) :
    (tickChannels s).faults.status[FaultClass.gaugeHomingFail.number] = true := by
  obtain ⟨y, hbefore, hturn, hafter⟩ := tickChannels_turn ch s
  refine hafter.rest.status FaultClass.gaugeHomingFail.number (hturn.failed ?_ ?_)
  · rw [hbefore.channel]
    exact hs
  · rw [hbefore.channel, hbefore.rest.tables]
    exact hfar

end

/-! ### The filter tick (R56, R71) -/

theorem tickChannels_ticked (s : State) : Ticked s (tickChannels (s.setFilterTick (some 10))) := by
  have hpath := tickChannels_path (s.setFilterTick (some 10))
  obtain ⟨hrest, htick⟩ := tickChannels_worked (s.setFilterTick (some 10))
  have hchannel := fun ch => tickChannels_channel (ch := ch) (s := s.setFilterTick (some 10))
  have honSlot127 := fun ch => tickChannels_onSlot127 (ch := ch) (s := s.setFilterTick (some 10))
  have hfailed := fun ch => tickChannels_failed (ch := ch) (s := s.setFilterTick (some 10))
  generalize tickChannels (s.setFilterTick (some 10)) = u at hpath hrest htick hchannel honSlot127 hfailed ⊢
  exact ⟨hpath, htick, hchannel, honSlot127, hfailed, hrest⟩

theorem exec_filterTick {s : State} (hs : s.awake = true) : exec .filterTick s = .next (if s.gauges.tick = some 0 then
    conclude ((tickChannels (s.setFilterTick (some 10))).reportedSince s) else s) := by
  rw [← reportChanges_eq]
  simp only [exec, execFilterTick, onAwake_of_awake hs, beq_iff_eq]
  rfl

/-- Settles O24: each channel by its own turn among the others', and one report. -/
theorem filterTickWorksEveryChannel : Obligations.FilterTickWorksEveryChannel := by
  intro s hs
  refine ⟨fun hdue => ?_, fun hdue => by rw [exec_filterTick hs, if_neg hdue]⟩
  have hexec := exec_filterTick hs
  have hticked := tickChannels_ticked s
  rw [if_pos hdue] at hexec
  generalize tickChannels (s.setFilterTick (some 10)) = u at hexec hticked
  exact ⟨u, _, hexec, hticked, conclude_spec _⟩

/-! ### Stall reports (R64 to R66, R69, R71) -/

theorem homedState_eq (valid : Bool) (stallCount : Nat) (part : PartState) : homedState valid stallCount part =
    if valid = true ∧ stallCount < 3 then (if part = .standby then .parked else .tracking) else .disabled := by
  unfold homedState
  simp only [Bool.and_eq_true, decide_eq_true_eq, beq_iff_eq]

/-- A homing that ends leaves the pointer at the stop (R64). -/
theorem finishHoming_eq (s : State) (ch : Fin 6) : s.finishHoming ch = s.setChannel ch
    { s.gauges.channels[ch] with
      state := if (s.tables.gauge[ch]).valid = true ∧ (s.gauges.channels[ch]).stallCount < 3 then
          (if s.time.part = .standby then .parked else .tracking) else .disabled
      position := 0, filter := 0, moved := false } := by
  unfold State.finishHoming State.updateChannel Channel.endHoming
  simp only [homedState_eq]

/-- A stall that counts: DISABLED at the third, homing before (R66, R69). -/
theorem stalled_eq (c : Channel) (e : GaugeEntry) : c.stalled e =
    if 3 ≤ c.stallCount + 1 then { c with stallCount := c.stallCount + 1, state := .disabled }
    else { c with
      stallCount := c.stallCount + 1, state := .homing, homingDistance := 0, position := min c.position e.maxPos } := rfl

/-- A stall report of a channel counts: in TRACKING after a moving tick, in PARKING with stall check on (R65, R66). -/
def Channel.stallCounts (c : Channel) : Prop :=
  (c.state = .tracking ∧ c.moved = true) ∨ (c.state = .parking ∧ c.stallCheck = true)

theorem exec_stallReport {ch : Fin 6} {s : State} (hs : s.awake = true) :
    exec (.stallReport ch) s = .next (conclude (stallReported ch s)) :=
  onAwake_of_awake (f := fun s => conclude (stallReported ch s)) hs

section
variable {ch : Fin 6} {s : State}

theorem stallReported_homing (h : (s.gauges.channels[ch]).state = .homing) :
    stallReported ch s = (s.finishHoming ch).gaugesReported := by
  unfold stallReported takeStall Channel.takesStall
  rw [h]
  rfl

theorem stallReported_counts (h : (s.gauges.channels[ch]).stallCounts) :
    stallReported ch s = ((raiseItem .gaugeStall ch.val s).updateChannel ch Channel.stalled).gaugesReported := by
  unfold stallReported takeStall Channel.takesStall
  obtain ⟨hstate, htaken⟩ | ⟨hstate, htaken⟩ := h <;> rw [hstate] <;> exact if_pos htaken

theorem stallReported_ignored (hhoming : (s.gauges.channels[ch]).state ≠ .homing)
    (h : ¬ (s.gauges.channels[ch]).stallCounts) : stallReported ch s = s := by
  unfold stallReported Channel.takesStall
  refine if_neg fun htaken => ?_
  cases hstate : (s.gauges.channels[ch]).state with
  | homing => exact hhoming hstate
  | tracking => exact h (.inl ⟨hstate, by rwa [hstate] at htaken⟩)
  | parking => exact h (.inr ⟨hstate, by rwa [hstate] at htaken⟩)
  | unhomed | parked | disabled => rw [hstate] at htaken; cases htaken

end

/-- After GAUGE_STALL the channel is as before it, but for its target, so the count and the position are those before it. -/
theorem stalled_raised {s u : State} (h : Reacted s u) (ch : Fin 6) : u.updateChannel ch Channel.stalled = u.setChannel ch
    (if 3 ≤ (s.gauges.channels[ch]).stallCount + 1 then
      { u.gauges.channels[ch] with stallCount := (s.gauges.channels[ch]).stallCount + 1, state := .disabled }
    else
      { u.gauges.channels[ch] with
        stallCount := (s.gauges.channels[ch]).stallCount + 1, state := .homing, homingDistance := 0
        position := min (s.gauges.channels[ch]).position (s.tables.gauge[ch]).maxPos }) := by
  have hcount : (u.gauges.channels[ch]).stallCount = (s.gauges.channels[ch]).stallCount := by rw [h.motion ch]
  have hposition : (u.gauges.channels[ch]).position = (s.gauges.channels[ch]).position := by rw [h.motion ch]
  unfold State.updateChannel
  simp only [stalled_eq, hcount, hposition, h.tables]

/-- Settles O27: a stall report by the channel's state. -/
theorem stallReportIsTakenByState : Obligations.StallReportIsTakenByState := by
  intro ch s hs c e counts
  have hexec := exec_stallReport (ch := ch) hs
  refine ⟨fun h => ?_, fun h => ?_, fun hhoming h => ?_⟩
  · rw [stallReported_homing h, finishHoming_eq] at hexec
    exact ⟨_, hexec, conclude_spec _⟩
  · have hraised := raise_spec .gaugeStall (.item (BitVec.ofNat 8 ch.val)) s
    rw [stallReported_counts h] at hexec
    unfold raiseItem at hexec
    generalize raise .gaugeStall (.item (BitVec.ofNat 8 ch.val)) s = u at hraised hexec
    rw [stalled_raised hraised.reacted] at hexec
    exact ⟨u, _, hexec, hraised, conclude_spec _⟩
  · rw [stallReported_ignored hhoming h] at hexec
    exact ⟨_, hexec, conclude_spec s⟩

end Sys2Proof.Machine
end

section
/-! PROOFS. The settle and quiet expiries and START (R152, R154, R157 to R159, R180). -/

namespace Sys2Proof.Machine

/-! ### The entry by the filtered level (R152, R154) -/

theorem enterByLevel_entered (s : State) : EnteredByLevel s (enterByLevel s) := by
  unfold EnteredByLevel enterByLevel
  split
  · exact homingEntry_entered s
  · exact standbyEntry_entered s

/-! ### The two expiries (R154, R158) -/

theorem exec_settleExpiry {s : State} (hs : s.awake = true) : exec .settleExpiry s = .next
    (if s.time.part = .waking ∧ s.time.settle = some 0 then conclude (enterByLevel s) else s) := by
  simp only [exec, execSettleExpiry, onAwake_of_awake hs, State.settleDue, Bool.and_eq_true, beq_iff_eq]

theorem exec_quietExpiry {s : State} (hs : s.awake = true) : exec .quietExpiry s = .next
    (if s.time.part = .standby ∧ s.time.quiet = .running 0 then conclude (s.setQuiet .elapsed) else s) := by
  simp only [exec, execQuietExpiry, onAwake_of_awake hs, State.quietDue, Bool.and_eq_true, beq_iff_eq]

/-- An event in STANDBY that leaves the quiet timer elapsed ends in SLEEP exactly with every channel at rest (R158). -/
theorem Concluded.of_standby {s t : State} (h : Concluded s t) (hp : s.time.part = .standby) (hq : s.time.quiet = .elapsed) :
    (s.time.atRest = true → SleepEntered s t) ∧ (s.time.atRest = false → t = s) := by
  unfold Concluded at h
  rw [if_neg (by rw [hp]; simp)] at h
  refine ⟨fun hrest => ?_, fun hrest => ?_⟩
  · rwa [if_pos ⟨hp, hq, hrest⟩] at h
  · rwa [if_neg (by rw [hrest]; simp)] at h

/-- Settles O10: the entry by the filtered level and the end of the event; the elapsed quiet timer and the end of the event. -/
theorem settleAndQuietExpiriesMoveThePart : Obligations.SettleAndQuietExpiriesMoveThePart := by
  refine ⟨fun s hs => ⟨fun hp hdue => ?_, fun hdue => ?_⟩, fun s hs => ⟨fun hp hdue => ?_, fun hdue => ?_⟩⟩
  · have hexec := exec_settleExpiry hs
    rw [if_pos ⟨hp, hdue⟩] at hexec
    exact exec_entered hexec (enterByLevel_entered s)
  · rw [exec_settleExpiry hs, if_neg hdue]
  · have hexec := exec_quietExpiry hs
    rw [if_pos ⟨hp, hdue⟩] at hexec
    exact ⟨_, hexec, (conclude_spec (s.setQuiet .elapsed)).of_standby hp rfl⟩
  · rw [exec_quietExpiry hs, if_neg hdue]

/-! ### START (R152, R180) -/

theorem exec_start (tag : Word16) {s : State} (hs : s.awake = true) :
    exec (.start tag) s = .next (conclude (reply 8 tag .ok [] (startPart s))) :=
  onAwake_of_awake (f := fun s => conclude (requestStart tag s)) hs

/-- START is answered, and then the event ends (R152, R180). -/
theorem exec_start_concluded (tag : Word16) {s : State} (hs : s.awake = true) :
    ∃ w t, exec (.start tag) s = .next t ∧ Offered (startPart s) (.reply 8 tag .ok []) w ∧ Concluded w t :=
  ⟨_, _, exec_start tag hs, offer_spec .., conclude_spec _⟩

theorem startPart_unconfigured {s : State} (h : s.time.part = .unconfigured) :
    startPart s = enterByLevel { s with time := { s.time with started := true } } := if_pos h

theorem startPart_elsewhere {s : State} (h : s.time.part ≠ .unconfigured) : startPart s = s := if_neg h

/-- Settles O11: the entry by the filtered level comes before the REPLY. -/
theorem startLeavesUnconfigured : Obligations.StartLeavesUnconfigured := by
  intro tag s hs
  obtain ⟨w, t, hexec, hoffered, hconcluded⟩ := exec_start_concluded tag hs
  refine ⟨fun h => ?_, fun h => ?_⟩
  · rw [startPart_unconfigured h] at hoffered
    exact ⟨_, w, t, hexec, enterByLevel_entered _, hoffered, hconcluded⟩
  · rw [startPart_elsewhere h] at hoffered
    exact ⟨w, t, hexec, hoffered, hconcluded⟩

end Sys2Proof.Machine
end

section
/-! PROOFS. A telltale's condition and its debounce expiries (R77, R78, R81 to R84). -/

namespace Sys2Proof.Machine

/-! ### The condition (R77, R78) -/

theorem condition_usable (e : TelltaleEntry) {x : Slot} (h : x.usable = true) (before : Bool) :
    e.condition x before = e.compare x.value before := if_pos h

/-- Two words have no bit in common exactly when each bit of the one is clear in the other. -/
theorem and_eq_zero_iff_getLsbD {w : Nat} (v th : BitVec w) :
    v &&& th = 0 ↔ ∀ b : Nat, v.getLsbD b = true → th.getLsbD b = false := by
  refine ⟨fun h b hv => ?_, fun h => BitVec.eq_of_getLsbD_eq fun b _ => ?_⟩
  · have hbit : (v &&& th).getLsbD b = false := by rw [h]; simp
    rwa [BitVec.getLsbD_and, hv, Bool.true_and] at hbit
  · rw [BitVec.getLsbD_and]
    cases hv : v.getLsbD b with
    | false => simp
    | true => simp [h b hv]

/-- Two words have a bit in common exactly when some bit is set in both. -/
theorem and_ne_zero_iff_getLsbD {w : Nat} (v th : BitVec w) :
    v &&& th ≠ 0 ↔ ∃ b : Nat, v.getLsbD b = true ∧ th.getLsbD b = true := by
  rw [ne_eq, and_eq_zero_iff_getLsbD]
  simp

/-- Settles O28: the operator's row of R77 for a usable slot, the policy's row of R78 for an unusable one. -/
theorem conditionFollowsTheOperatorAndThePolicy : Obligations.ConditionFollowsTheOperatorAndThePolicy := by
  intro e x before v th h after
  refine ⟨fun husable => ?_, fun husable => ?_⟩
  · have hafter : after = e.compare x.value before := condition_usable e husable before
    rw [hafter]
    unfold TelltaleEntry.compare
    refine ⟨fun hop => ?_, fun hop => ?_, fun hop => ?_, fun hop => ?_, fun hop => ?_, fun hop => ?_⟩ <;> rw [hop]
    · cases before <;> rfl
    · cases before <;> rfl
    · rw [decide_eq_true_iff]
      exact and_ne_zero_iff_getLsbD _ _
    · rw [decide_eq_true_iff]
      exact and_eq_zero_iff_getLsbD _ _
  · have hunusable : ¬ x.usable = true := by rw [husable]; decide
    refine ⟨fun hpolicy => ?_, fun hpolicy => ?_, fun hpolicy => ?_⟩ <;>
      exact (if_neg hunusable).trans (by rw [hpolicy])

/-! ### The debounce expiries (R81 to R84) -/

theorem debounceDue_iff (s : State) (i : Fin 64) (x : TelltaleState) : s.debounceDue i x = true ↔
    (s.telltales.records[i]).state = x ∧ (s.telltales.records[i]).debounce = some 0 := by
  unfold State.debounceDue
  rw [Bool.and_eq_true, beq_iff_eq, beq_iff_eq]

theorem exec_onDebounceExpiry (i : Fin 64) {s : State} (hs : s.awake = true) : exec (.onDebounceExpiry i) s = .next
    (if s.debounceDue i .rising = true then whole (fun s => s.telltaleOn i) s else s) :=
  onAwake_of_awake (f := fun s => if s.debounceDue i .rising = true then whole (fun s => s.telltaleOn i) s else s) hs

theorem exec_offDebounceExpiry (i : Fin 64) {s : State} (hs : s.awake = true) : exec (.offDebounceExpiry i) s = .next
    (if s.debounceDue i .falling = true then whole (fun s => s.telltaleFallen i) s else s) :=
  onAwake_of_awake (f := fun s => if s.debounceDue i .falling = true then whole (fun s => s.telltaleFallen i) s else s) hs

/-- A FALLING telltale that latches has nothing to report (R82). -/
theorem whole_telltaleFallen_latched {s : State} {i : Fin 64} (h : s.fallen i = .latched) :
    whole (fun s => s.telltaleFallen i) s =
      s.setTelltale i { s.telltales.records[i] with state := .latched, debounce := none } :=
  congrArg (Change.reported publishSevere) ((telltaleFallen_spec s i).1 h)

/-- Settles O29: the ways to ON, to OFF and to LATCHED, each whole before its reports. -/
theorem debounceExpiriesMoveTheTelltale : Obligations.DebounceExpiriesMoveTheTelltale := by
  refine ⟨fun i s hs => ⟨fun hstate hdue => ?_, fun hdue => ?_⟩, fun i s hs => ⟨fun hstate hdue => ?_, fun hdue => ?_⟩⟩
  · have hexec := exec_onDebounceExpiry i hs
    rw [if_pos ((debounceDue_iff ..).2 ⟨hstate, hdue⟩)] at hexec
    exact ⟨_, _, _, hexec, telltaleOn_spec s i, reported (s.telltaleOn i)⟩
  · rw [exec_onDebounceExpiry i hs, if_neg (mt (debounceDue_iff ..).1 hdue)]
  · have hexec := exec_offDebounceExpiry i hs
    rw [if_pos ((debounceDue_iff ..).2 ⟨hstate, hdue⟩)] at hexec
    refine ⟨fun hlatched => ?_, fun hoff => ?_⟩
    · rw [hexec, whole_telltaleFallen_latched hlatched]
    · have hwent := (telltaleFallen_spec s i).2 (by rw [hoff]; decide)
      exact ⟨_, _, _, hexec, hwent, reported (s.telltaleFallen i)⟩
  · rw [exec_offDebounceExpiry i hs, if_neg (mt (debounceDue_iff ..).1 hdue)]

end Sys2Proof.Machine
end

section
/-! PROOFS. Lamp demand, governing telltale, mode and output (R88, R89). -/

namespace Sys2Proof.Machine

/-! ### Demand (R88) -/

theorem shown_iff (x : TelltaleState) : x.shown = true ↔ x ∈ [TelltaleState.on, .falling, .latched] := by
  cases x <;> decide

theorem lampShownBy_iff (s : State) (i : Fin 64) (ch : Fin 32) : s.lampShownBy i ch = true ↔
    (s.tables.telltale[i]).valid = true ∧ (s.tables.telltale[i]).lamp = some ch ∧
      (s.telltales.records[i]).state ∈ [TelltaleState.on, .falling, .latched] := by
  unfold State.lampShownBy
  rw [Bool.and_eq_true, namesLamp_iff, shown_iff, and_assoc]

theorem bulbDemands_iff (s : State) (ch : Fin 32) : s.bulbDemands ch = true ↔
    s.telltales.bulbCheck ≠ none ∧ ∃ i : Fin 64, (s.tables.telltale[i]).valid = true ∧
      (s.tables.telltale[i]).lamp = some ch ∧ (s.tables.telltale[i]).bulbCheck = true := by
  unfold State.bulbDemands
  rw [Bool.and_eq_true, Option.isSome_iff_ne_none, List.any_eq_true]
  simp only [List.mem_finRange, true_and, Bool.and_eq_true, namesLamp_iff, and_assoc]

/-! ### The governing telltale (R89) -/

/-- One telltale does not give way to another: a higher priority, or the same and no higher index (R89). -/
def State.outranks (s : State) (i j : Fin 64) : Prop :=
  (s.tables.telltale[j]).priority < (s.tables.telltale[i]).priority ∨
    ((s.tables.telltale[j]).priority = (s.tables.telltale[i]).priority ∧ i ≤ j)

theorem outranks_refl (s : State) (i : Fin 64) : s.outranks i i := .inr ⟨rfl, le_rfl⟩

theorem outranks_antisymm {s : State} {i j : Fin 64} (h : s.outranks i j) (g : s.outranks j i) : i = j := by
  unfold State.outranks at h g
  omega

theorem outranks_trans {s : State} {i j k : Fin 64} (h : s.outranks i j) (g : s.outranks j k) : s.outranks i k := by
  unfold State.outranks at *
  omega

/-- One telltale's turn in the search for the one that governs a channel (R89). -/
def State.governStep (s : State) (ch : Fin 32) (best : Option (Fin 64)) (i : Fin 64) : Option (Fin 64) :=
  if s.lampShownBy i ch = true then
    match best with
    | none => some i
    | some b => if (s.tables.telltale[b]).priority < (s.tables.telltale[i]).priority then some i else some b
  else best

theorem governing_eq (s : State) (ch : Fin 32) : s.governing ch = (List.finRange 64).foldl (s.governStep ch) none := rfl

/-- A telltale governs a channel among those of a list: it is shown there and gives way to none that is (R89). -/
def State.governsAmong (s : State) (ch : Fin 32) (l : List (Fin 64)) (i : Fin 64) : Prop :=
  i ∈ l ∧ s.lampShownBy i ch = true ∧ ∀ j ∈ l, s.lampShownBy j ch = true → s.outranks i j

/-- The search's result over a list: the telltale that governs, or none, and then none of the list is shown (R89). -/
def State.searched (s : State) (ch : Fin 32) (l : List (Fin 64)) (best : Option (Fin 64)) : Prop :=
  match best with
  | none => ∀ j ∈ l, s.lampShownBy j ch = false
  | some b => s.governsAmong ch l b

section
variable {s : State} {ch : Fin 32} {l : List (Fin 64)} {i : Fin 64}

/-- A telltale shown after a list governs with it when it gives way to none of the list. -/
theorem governsAmong_last (hshown : s.lampShownBy i ch = true)
    (h : ∀ j ∈ l, s.lampShownBy j ch = true → s.outranks i j) : s.governsAmong ch (l ++ [i]) i := by
  refine ⟨List.mem_append_right _ (List.mem_singleton_self i), hshown, List.forall_mem_append.2 ⟨h, ?_⟩⟩
  exact List.forall_mem_singleton.2 fun _ => outranks_refl s i

/-- A telltale that governs a list governs on when it does not give way to the telltale after the list. -/
theorem governsAmong_append {b : Fin 64} (hb : s.governsAmong ch l b) (h : s.lampShownBy i ch = true → s.outranks b i) :
    s.governsAmong ch (l ++ [i]) b := by
  obtain ⟨hmem, hshown, hbest⟩ := hb
  exact ⟨List.mem_append_left _ hmem, hshown, List.forall_mem_append.2 ⟨hbest, List.forall_mem_singleton.2 h⟩⟩

/-- A later telltale takes over with a strictly higher priority alone, so the lowest index of the highest priority stays. -/
theorem searched_governStep {best : Option (Fin 64)} (h : s.searched ch l best) (hi : ∀ j ∈ l, j < i) :
    s.searched ch (l ++ [i]) (s.governStep ch best i) := by
  unfold State.governStep
  by_cases hshown : s.lampShownBy i ch = true
  · rw [if_pos hshown]
    cases best with
    | none => exact governsAmong_last hshown fun j hj hjs => absurd hjs (Bool.eq_false_iff.1 (h j hj))
    | some b =>
      obtain ⟨hmem, hb, hbest⟩ := h
      dsimp only
      split
      · next hp => exact governsAmong_last hshown fun j hj hjs => outranks_trans (.inl hp) (hbest j hj hjs)
      · next hp =>
        refine governsAmong_append ⟨hmem, hb, hbest⟩ fun _ => ?_
        have hbi := hi b hmem
        unfold State.outranks
        omega
  · rw [if_neg hshown]
    cases best with
    | none => exact List.forall_mem_append.2 ⟨h, List.forall_mem_singleton.2 (Bool.eq_false_iff.2 hshown)⟩
    | some b => exact governsAmong_append h fun hs => absurd hs hshown

end

theorem searched_foldl (s : State) (ch : Fin 32) (l : List (Fin 64)) (hl : l.Pairwise (· < ·)) :
    s.searched ch l (l.foldl (s.governStep ch) none) := by
  induction l using List.reverseRecOn with
  | nil => exact fun _ hj => absurd hj List.not_mem_nil
  | append_singleton l i ih =>
    obtain ⟨hl, -, hi⟩ := List.pairwise_append.1 hl
    rw [List.foldl_append]
    exact searched_governStep (ih hl) fun j hj => hi j hj i (List.mem_singleton_self i)

/-- The governing telltale is the one shown that gives way to none shown (R89). -/
theorem governing_iff (s : State) (ch : Fin 32) (i : Fin 64) : s.governing ch = some i ↔
    s.lampShownBy i ch = true ∧ ∀ j, s.lampShownBy j ch = true → s.outranks i j := by
  have hsearched : s.searched ch (List.finRange 64) (s.governing ch) := by
    rw [governing_eq]
    exact searched_foldl s ch _ (List.pairwise_lt_finRange 64)
  have hmem : ∀ j : Fin 64, j ∈ List.finRange 64 := List.mem_finRange
  cases h : s.governing ch with
  | none =>
    rw [h] at hsearched
    exact iff_of_false (fun g => by cases g) fun ⟨hshown, _⟩ => Bool.eq_false_iff.1 (hsearched i (hmem i)) hshown
  | some b =>
    rw [h] at hsearched
    obtain ⟨-, hb, hbest⟩ := hsearched
    refine ⟨fun g => ?_, fun ⟨hshown, hall⟩ => ?_⟩
    · obtain rfl := Option.some.inj g
      exact ⟨hb, fun j => hbest j (hmem j)⟩
    · rw [outranks_antisymm (hbest i (hmem i) hshown) (hall b hb)]

/-! ### Mode and output (R88, R89) -/

theorem lampMode_of_bulb {s : State} {ch : Fin 32} (h : s.bulbDemands ch = true) : s.lampMode ch = .steady := if_pos h

theorem lampMode_of_governing {s : State} {ch : Fin 32} (h : ¬ s.bulbDemands ch = true) {i : Fin 64}
    (hi : s.governing ch = some i) : s.lampMode ch = (s.tables.telltale[i]).lampMode := by
  unfold State.lampMode
  rw [if_neg h, hi]

theorem lampDriven_iff (s : State) (ch : Fin 32) : s.lampDriven ch = true ↔
    s.awake = true ∧ s.lampDemanded ch = true ∧ s.telltales.lamps[ch] ≠ .shortProtect := by
  unfold State.lampDriven
  simp [and_assoc]

theorem lampOutput_iff (s : State) (ch : Fin 32) : s.lampOutput ch = true ↔ s.awake = true ∧ s.lampDemanded ch = true ∧
    s.telltales.lamps[ch] ≠ .shortProtect ∧ (s.lampMode ch).lit s.time.ms = true := by
  unfold State.lampOutput
  rw [Bool.and_eq_true, lampDriven_iff, and_assoc, and_assoc]

end Sys2Proof.Machine
end

section
/-! PROOFS. Lamp reports and the end of the bulb check (R88, R90 to R93, R156). -/

namespace Sys2Proof.Machine

/-! ### A channel that fails (R90 to R92) -/

/-- What events keep, and backup offers keep, all the backup offers of a channel's failure keep (R92). -/
theorem Closed.backupOffers {P : State → State → Prop} (h : Closed P)
    (hoffer : ∀ (s : State) i m, P s (s.offerPresentation i .backup m).state) (ch : Fin 32) (s : State) :
    P s (backupOffers ch s) := by
  unfold Machine.backupOffers
  refine h.foldl (fun s i => ?_) _ s
  dsimp only
  split
  · exact h.whole (fun s => hoffer s i _) s
  · exact h.refl s

theorem reacted_backupOffers (ch : Fin 32) (s : State) : Reacted s (backupOffers ch s) :=
  closed_reacted.backupOffers (fun s i m => ((moving_presented i).offerPresentation s i .backup m).reacted) ch s

theorem lampsTurn_backupOffers (ch : Fin 32) (s : State) : LampsTurn s (backupOffers ch s) :=
  closed_lampsTurn.backupOffers (fun s i m => (moving_lampsTurn i).offerPresentation s i .backup m) ch s

/-- A channel that has failed stays so while channels turn between IDLE and LIT alone. -/
theorem LampsTurn.failed {s t : State} (h : LampsTurn s t) {ch : Fin 32}
    (hf : s.telltales.lamps[ch] ∉ [LampState.idle, .lit]) : t.telltales.lamps[ch] = s.telltales.lamps[ch] :=
  (h ch).resolve_right fun ⟨hmem, _⟩ => hf hmem

theorem lampFails_lamp (ch : Fin 32) {l : LampState} (hl : l ∉ [LampState.idle, .lit]) (c : FaultClass) (s : State) :
    (lampFails ch l c s).telltales.lamps[ch] = l := by
  have hset : (s.setLamp ch l).telltales.lamps[ch] = l := by rw [setLamp_lamps, if_pos rfl]
  have hturn : LampsTurn (s.setLamp ch l) (lampFails ch l c s) :=
    lampsTurn_trans (closed_lampsTurn.raiseItem c ch.val _) (lampsTurn_backupOffers ch _)
  rw [hturn.failed (by rwa [hset]), hset]

/-- A command by which a channel fails: the fault, then the backup offers, and the channel stays as it is entered (R90 to R92). -/
theorem exec_lampFails {i : Instr} {s : State} {ch : Fin 32} {l : LampState} {c : FaultClass}
    (h : exec i s = .next (lampFails ch l c s)) (hl : l ∉ [LampState.idle, .lit]) : ∃ u t, exec i s = .next t ∧
      Raised (s.setLamp ch l) c (.item (BitVec.ofNat 8 ch.val)) u ∧ BackupsOffered ch u t ∧ Reacted u t ∧
      t.telltales.lamps[ch] = l :=
  ⟨_, _, h, raise_spec .., backupOffers_spec .., reacted_backupOffers .., lampFails_lamp ch hl c s⟩

/-! ### Lamp reports (R90, R91) -/

theorem exec_lampNoCurrent (ch : Fin 32) {s : State} (hs : s.awake = true) : exec (.lampNoCurrent ch) s = .next
    (if s.telltales.lamps[ch] = .lit ∧ s.lampOutput ch = true then lampFails ch .open .lampOpen s else s) := by
  simp only [exec, execLampNoCurrent, onAwake_of_awake hs, Bool.and_eq_true, beq_iff_eq]

theorem exec_lampCurrentPresent (ch : Fin 32) {s : State} (hs : s.awake = true) : exec (.lampCurrentPresent ch) s = .next
    (if s.telltales.lamps[ch] = .open ∧ s.lampOutput ch = true then s.setLamp ch .lit else s) := by
  simp only [exec, execLampCurrentPresent, onAwake_of_awake hs, Bool.and_eq_true, beq_iff_eq]

/-- A channel that is LIT or OPEN is driven in an awake part exactly when it is demanded (R88). -/
theorem lampDriven_of_awake {s : State} (hs : s.awake = true) {ch : Fin 32}
    (h : s.telltales.lamps[ch] = .lit ∨ s.telltales.lamps[ch] = .open) : s.lampDriven ch = true ↔ s.lampDemanded ch = true := by
  have hprotect : s.telltales.lamps[ch] ≠ .shortProtect := by obtain h | h := h <;> rw [h] <;> decide
  rw [lampDriven_iff]
  exact ⟨fun ⟨_, hdemand, _⟩ => hdemand, fun hdemand => ⟨hs, hdemand, hprotect⟩⟩

theorem exec_lampOverCurrent (ch : Fin 32) {s : State} (hs : s.awake = true) : exec (.lampOverCurrent ch) s = .next
    (if (s.telltales.lamps[ch] = .lit ∨ s.telltales.lamps[ch] = .open) ∧ s.lampDemanded ch = true then
      lampFails ch .shortProtect .lampShort s else s) := by
  have hdriven := and_congr_right (lampDriven_of_awake hs (ch := ch))
  simp only [exec, execLampOverCurrent, onAwake_of_awake hs, Bool.and_eq_true, Bool.or_eq_true, beq_iff_eq, hdriven]

/-! ### The end of the bulb check (R88, R93, R156) -/

theorem exec_bulbCheckExpiry {s : State} (hs : s.awake = true) : exec .bulbCheckExpiry s = .next
    (if s.telltales.bulbCheck = some 0 then conclude s.endBulbCheck.reportBulbEnd else s) := by
  simp only [exec, execBulbCheckExpiry, onAwake_of_awake hs, beq_iff_eq]

/-- With no bulb check running, the telltales alone demand a channel (R88, R93). -/
theorem lampDemanded_unchecked (s : State) (ch : Fin 32) :
    (s.setBulbCheck none).lampDemanded ch = true ↔ ∃ i, s.lampShownBy i ch = true :=
  (lampDemanded_iff _ ch).trans (or_iff_right fun h => ((bulbDemands_iff _ ch).1 h).1 rfl)

theorem relit_eq (l : LampState) (demanded : Bool) : relit l demanded =
    if l = .idle ∧ demanded = true then .lit else if l = .lit ∧ ¬ demanded = true then .idle else l := by
  cases l <;> cases demanded <;> rfl

/-- The end of the bulb check with its report: the interval, the indication and the lamps, and nothing else (R93). -/
theorem bulbCheckEnded_rest (s : State) : s.endBulbCheck.reportBulbEnd = { s with
    time := { s.time with bulbCheckEnded := true }
    telltales := { s.telltales with bulbCheck := none, lamps := s.endBulbCheck.reportBulbEnd.telltales.lamps } } := by
  unfold State.endBulbCheck
  rw [recomputeLamps_rest]
  generalize (s.setBulbCheck none).recomputeLamps.telltales.lamps = lamps
  rfl

theorem bulbCheckEnded_lamps (s : State) (ch : Fin 32) : s.endBulbCheck.reportBulbEnd.telltales.lamps[ch] =
    if s.telltales.lamps[ch] = .idle ∧ (∃ i, s.lampShownBy i ch = true) then .lit
    else if s.telltales.lamps[ch] = .lit ∧ ¬ (∃ i, s.lampShownBy i ch = true) then .idle
    else s.telltales.lamps[ch] := by
  unfold State.endBulbCheck
  rw [State.reportBulbEnd_telltales, recomputeLamps_lamps, relit_eq]
  simp only [State.setBulbCheck_telltales_lamps, lampDemanded_unchecked]

/-- Settles O30: demand, governing telltale, mode and output by their own lemmas; a failing channel by its fault and its backup
offers; the end of the bulb check channel by channel. -/
theorem lampReportsAndTheBulbCheckMoveTheChannels : Obligations.LampReportsAndTheBulbCheckMoveTheChannels := by
  refine ⟨fun ch s => ?_, fun ch s hs => ?_, fun s hs => ⟨fun hdue => ?_, fun hdue => ?_⟩⟩
  · intro shown checked
    have hshown : ∀ i, s.lampShownBy i ch = true ↔ shown i := fun i => lampShownBy_iff s i ch
    have hchecked : s.bulbDemands ch = true ↔ checked := bulbDemands_iff s ch
    refine ⟨?_, fun i => ?_, fun h => lampMode_of_bulb (hchecked.2 h),
      fun h i => lampMode_of_governing (mt hchecked.1 h), ?_⟩
    · rw [lampDemanded_iff, hchecked]
      simp only [hshown]
    · rw [governing_iff]
      simp only [hshown]
      rfl
    · rw [lampOutput_iff]
      cases s.lampMode ch <;> simp only [LampMode.lit, decide_eq_true_iff]
  · intro lamp
    have hnone := exec_lampNoCurrent ch hs
    have hpresent := exec_lampCurrentPresent ch hs
    have hover := exec_lampOverCurrent ch hs
    refine ⟨fun hlamp hout => ?_, fun h => ?_, fun hlamp hout => ?_, fun h => ?_, fun hlamp hdemand => ?_, fun h => ?_⟩
    · rw [if_pos ⟨hlamp, hout⟩] at hnone
      exact exec_lampFails hnone (by decide)
    · rw [hnone, if_neg h]
    · rw [hpresent, if_pos ⟨hlamp, hout⟩]
    · rw [hpresent, if_neg h]
    · rw [if_pos ⟨hlamp, hdemand⟩] at hover
      exact exec_lampFails hover (by decide)
    · rw [hover, if_neg h]
  · have hexec := exec_bulbCheckExpiry hs
    rw [if_pos hdue] at hexec
    exact ⟨_, _, hexec, conclude_spec _, bulbCheckEnded_rest s, bulbCheckEnded_lamps s⟩
  · rw [exec_bulbCheckExpiry hs, if_neg hdue]

end Sys2Proof.Machine
end

section
/-! PROOFS. Offers, withdrawals and presses at the three places: what stands after them, and the laws of the places (R98 to R107). -/

namespace Sys2Proof.Machine

/-! ### The two selections over the ring (R98) -/

theorem bestRecord_iff {l : List Presentation} {b : Presentation} : bestRecord l = some b ↔
    ∃ old new, l = old ++ b :: new ∧ (∀ p ∈ old, p.priority < b.priority) ∧ ∀ p ∈ new, p.priority ≤ b.priority := by
  refine ⟨bestRecord_split, ?_⟩
  rintro ⟨old, new, rfl, hold, hnew⟩
  induction old with
  | nil =>
    rw [List.nil_append, bestRecord]
    cases h : bestRecord new with
    | none => rfl
    | some c =>
      obtain ⟨_, _, rfl, -, -⟩ := bestRecord_split h
      exact if_neg (not_lt.2 (hnew c (by simp)))
  | cons p old ih =>
    obtain ⟨hp, hold⟩ := List.forall_mem_cons.1 hold
    rw [List.cons_append, bestRecord, ih hold]
    exact if_pos hp

theorem weakestRecord_iff {l : List Presentation} {w : Presentation} : weakestRecord l = some w ↔
    ∃ old new, l = old ++ w :: new ∧ (∀ p ∈ old, w.priority < p.priority) ∧ ∀ p ∈ new, w.priority ≤ p.priority := by
  refine ⟨weakestRecord_split, ?_⟩
  rintro ⟨old, new, rfl, hold, hnew⟩
  induction old with
  | nil =>
    rw [List.nil_append, weakestRecord]
    cases h : weakestRecord new with
    | none => rfl
    | some c =>
      obtain ⟨_, _, rfl, -, -⟩ := weakestRecord_split h
      exact if_neg (not_lt.2 (hnew c (by simp)))
  | cons p old ih =>
    obtain ⟨hp, hold⟩ := List.forall_mem_cons.1 hold
    rw [List.cons_append, weakestRecord, ih hold]
    exact if_pos hp

/-! ### Offers: every record stands on or is reported dropped (R100 to R102) -/

/-- What stands after an event, with what the event dropped, is what stood before; the drops are the ones it reports (R102). -/
def Accounted (before after : List Presentation) (reports : List MessageReport) : Prop :=
  ∃ lost : List Presentation, (after ++ lost).Perm before ∧
    ∀ j, .dropped j ∈ reports ↔ j ∈ lost.map Presentation.telltale

/-- A telltale stands in the places. -/
def Messages.shows (m : Messages) (i : Fin 64) : Prop := i ∈ m.standing.map Presentation.telltale

theorem shows_iff (m : Messages) (i : Fin 64) : m.shows i ↔ ∃ p ∈ m.standing, p.telltale = i := List.mem_map

section
variable {before after : List Presentation} {reports : List MessageReport} {m n : Messages} {p : Presentation}

theorem Accounted.perm_left {before' : List Presentation} (h : Accounted before after reports) (hp : before.Perm before') :
    Accounted before' after reports := by
  obtain ⟨lost, hperm, hlost⟩ := h
  exact ⟨lost, hperm.trans hp, hlost⟩

theorem Accounted.nodup (h : Accounted before after reports) (hb : (before.map Presentation.telltale).Nodup) :
    (after.map Presentation.telltale).Nodup := by
  obtain ⟨lost, hperm, -⟩ := h
  have hall := (hperm.map Presentation.telltale).nodup_iff.2 hb
  rw [List.map_append] at hall
  exact hall.of_append_left

/-- No telltale stands twice, so the telltales that stand on are the ones not reported. -/
theorem Accounted.mem_iff (h : Accounted before after reports) (hb : (before.map Presentation.telltale).Nodup) (j : Fin 64) :
    j ∈ after.map Presentation.telltale ↔ j ∈ before.map Presentation.telltale ∧ .dropped j ∉ reports := by
  obtain ⟨lost, hperm, hlost⟩ := h
  have hmap := hperm.map Presentation.telltale
  have hall := hmap.nodup_iff.2 hb
  rw [List.map_append] at hall hmap
  rw [hlost, ← hmap.mem_iff, List.mem_append]
  have hdisjoint : j ∈ after.map Presentation.telltale → j ∉ lost.map Presentation.telltale :=
    fun ha hl => (List.disjoint_of_nodup_append hall) ha hl
  tauto

/-- A record enters the ring: current and stack stand, and the ring keeps its bound (R102). -/
theorem RingEntered.frame (h : RingEntered m p n reports) :
    n.current = m.current ∧ n.stack = m.stack ∧ (m.ring.length ≤ 16 → n.ring.length ≤ 16) := by
  unfold RingEntered at h
  split at h
  · next hroom =>
    obtain ⟨rfl, -⟩ := h
    exact ⟨rfl, rfl, fun _ => by simpa using hroom⟩
  · obtain ⟨old, w, new, hring, -, -, h⟩ := h
    split at h <;> obtain ⟨rfl, -⟩ := h
    · exact ⟨rfl, rfl, fun hbound => by simpa [hring, Nat.add_assoc] using hbound⟩
    · exact ⟨rfl, rfl, id⟩

theorem RingEntered.accounted (h : RingEntered m p n reports) : Accounted (p :: m.standing) n.standing reports := by
  unfold RingEntered at h
  split at h
  · obtain ⟨rfl, rfl⟩ := h
    refine ⟨[], ?_, by simp⟩
    simpa [Messages.standing] using (List.perm_append_singleton p (m.current.toList ++ (m.stack ++ m.ring)))
  · obtain ⟨old, w, new, hring, -, -, h⟩ := h
    split at h <;> obtain ⟨rfl, rfl⟩ := h
    · refine ⟨[w], List.perm_iff_count.2 fun x => ?_, by simp⟩
      simp only [Messages.standing, hring, List.count_append, List.count_cons, List.count_nil]
      omega
    · exact ⟨[p], List.perm_append_singleton p _, by simp⟩

theorem PlaceLaws.entered (hm : PlaceLaws m) (hcurrent : m.current ≠ none) (hp : ¬ m.shows p.telltale)
    (h : RingEntered m p n reports) : PlaceLaws n := by
  obtain ⟨hc, hs, hring⟩ := h.frame
  exact {
    once := h.accounted.nodup (List.nodup_cons.2 ⟨hp, hm.once⟩)
    rising := by rw [hs]; exact hm.rising
    below := by rw [hc, hs]; exact hm.below
    emptyStack := fun hn => absurd (hc ▸ hn) hcurrent
    emptyRing := fun hn => absurd (hc ▸ hn) hcurrent
    stackBound := by rw [hs]; exact hm.stackBound
    ringBound := hring hm.ringBound }

/-- Step 1 of a preemption leaves a place free on the stack, and drops nothing that it does not report (R101). -/
theorem PlaceLaws.spilled (hm : PlaceLaws m) (hcurrent : m.current ≠ none) (h : Spilled m n reports) :
    PlaceLaws n ∧ n.current = m.current ∧ n.stack.length < 4 ∧ Accounted m.standing n.standing reports := by
  have hnone : Accounted m.standing m.standing [] := ⟨[], by simp, by simp⟩
  unfold Spilled at h
  split at h
  · next hstack =>
    obtain ⟨rfl, rfl⟩ := h
    exact ⟨hm, rfl, by simp [hstack], hnone⟩
  · next b rest hstack =>
    split at h
    · have hperm : (b :: ({ m with stack := rest } : Messages).standing).Perm m.standing := by
        simpa [Messages.standing, hstack] using List.perm_middle.symm
      obtain ⟨hb, honce⟩ := List.nodup_cons.1 ((hperm.map Presentation.telltale).nodup_iff.2 hm.once)
      have hrising := hm.rising
      have hbelow := hm.below
      have hbound := hm.stackBound
      simp only [hstack, List.map_cons, List.pairwise_cons, List.mem_cons, forall_eq_or_imp, List.length_cons]
        at hrising hbelow hbound
      have hrest : PlaceLaws { m with stack := rest } :=
        { once := honce, rising := hrising.2, below := fun c hc => (hbelow c hc).2
          emptyStack := fun hn => absurd hn hcurrent, emptyRing := fun hn => absurd hn hcurrent
          stackBound := by show rest.length ≤ 4; omega, ringBound := hm.ringBound }
      obtain ⟨hc, hs, -⟩ := h.frame
      exact ⟨hrest.entered hcurrent hb h, hc, by rw [hs]; show rest.length < 4; omega, h.accounted.perm_left hperm⟩
    · next hroom =>
      obtain ⟨rfl, rfl⟩ := h
      exact ⟨hm, rfl, not_le.1 hroom, hnone⟩

/-- The current presentation is pushed, and a presentation of a higher priority replaces it (R101). -/
theorem PlaceLaws.pushed {c : Presentation} (hm : PlaceLaws m) (hc : m.current = some c) (hroom : m.stack.length < 4)
    (hlt : c.priority < p.priority)
    (honce : (({ m with stack := m.stack ++ [c], current := some p } : Messages).standing.map Presentation.telltale).Nodup) :
    PlaceLaws { m with stack := m.stack ++ [c], current := some p } where
  once := honce
  rising := by
    rw [List.map_append, List.pairwise_append]
    refine ⟨hm.rising, by simp, ?_⟩
    simpa using hm.below c hc
  below := by
    rintro _ ⟨⟩ q hq
    rcases List.mem_append.1 hq with hq | hq
    · exact (hm.below c hc q hq).trans hlt
    · rwa [List.mem_singleton.1 hq]
  emptyStack := by simp
  emptyRing := by simp
  stackBound := by simpa using hroom
  ringBound := hm.ringBound

/-- An offer keeps the laws of the places, and drops nothing that it does not report (R99 to R102). -/
theorem PlaceLaws.placed (hm : PlaceLaws m) (hp : ¬ m.shows p.telltale) (h : OfferPlaced m p n reports) :
    PlaceLaws n ∧ Accounted (p :: m.standing) n.standing reports := by
  have honce : ((p :: m.standing).map Presentation.telltale).Nodup := List.nodup_cons.2 ⟨hp, hm.once⟩
  unfold OfferPlaced at h
  split at h
  · next hcurrent =>
    obtain ⟨rfl, rfl⟩ := h
    have hstack := hm.emptyStack hcurrent
    have hring := hm.emptyRing hcurrent
    refine ⟨⟨?_, ?_, ?_, ?_, ?_, ?_, ?_⟩, ⟨[], ?_, ?_⟩⟩ <;> simp [Messages.standing, hcurrent, hstack, hring]
  · next c hcurrent =>
    have hsome : m.current ≠ none := by simp [hcurrent]
    split at h
    · next hlt =>
      obtain ⟨u, drops, hspill, rfl, rfl⟩ := h
      obtain ⟨hu, huc, hroom, lost, hperm, hlost⟩ := hm.spilled hsome hspill
      rw [hcurrent] at huc
      have hall : Accounted (p :: m.standing)
          ({ u with stack := u.stack ++ [c], current := some p } : Messages).standing (drops ++ [.present]) := by
        refine ⟨lost, .trans ?_ (hperm.cons p), by simpa using hlost⟩
        simp [Messages.standing, huc]
      exact ⟨hu.pushed huc hroom hlt (hall.nodup honce), hall⟩
    · exact ⟨hm.entered hsome hp h, h.accounted⟩

end
/-! ### Removals, withdrawals and the press (R103, R104, R106) -/

section
variable {m n : Messages}

/-- The choice after a removal moves a record to the current place, and loses none but the one removed (R103). -/
theorem NextChosen.perm (h : NextChosen m n) : (m.current.toList ++ n.standing).Perm m.standing := by
  rcases h with ⟨hstack, hring, rfl⟩ | ⟨below, top, hstack, -, rfl⟩ | ⟨old, b, new, hring, -, -, -, rfl⟩
  · simp [Messages.standing, hstack, hring]
  · simpa [Messages.standing, hstack] using (List.perm_middle (l₁ := below)).symm.append_left m.current.toList
  · refine List.perm_iff_count.2 fun x => ?_
    simp only [Messages.standing, hring, Option.toList_some, List.count_append, List.count_cons, List.count_nil]
    omega

theorem PlaceLaws.chosen (hm : PlaceLaws m) (h : NextChosen m n) : PlaceLaws n := by
  have honce : (n.standing.map Presentation.telltale).Nodup := by
    have hall := (h.perm.map Presentation.telltale).nodup_iff.2 hm.once
    rw [List.map_append] at hall
    exact hall.of_append_right
  have hrising := hm.rising
  have hstackBound := hm.stackBound
  have hringBound := hm.ringBound
  rcases h with ⟨hstack, hring, rfl⟩ | ⟨below, top, hstack, -, rfl⟩ | ⟨old, b, new, hring, -, -, htop, rfl⟩
  · exact ⟨honce, hrising, by simp, fun _ => hstack, fun _ => hring, hstackBound, hringBound⟩
  · rw [hstack, List.map_append, List.pairwise_append] at hrising
    rw [hstack, List.length_append] at hstackBound
    refine ⟨honce, hrising.1, ?_, by simp, by simp, by show below.length ≤ 4; omega, hringBound⟩
    rintro _ ⟨⟩ p hp
    exact hrising.2.2 _ (List.mem_map_of_mem hp) _ (by simp)
  · refine ⟨honce, hrising, ?_, by simp, by simp, hstackBound, by
      rw [hring] at hringBound; simp at hringBound ⊢; omega⟩
    rintro _ ⟨⟩ p hp
    obtain hnil | ⟨below, top, hstack⟩ := List.eq_nil_or_concat' m.stack
    · rw [hnil] at hp; cases hp
    · have hlt := htop top (by simp [hstack])
      rw [hstack] at hp hrising
      rcases List.mem_append.1 hp with hp | hp
      · rw [List.map_append, List.pairwise_append] at hrising
        exact (hrising.2.2 _ (List.mem_map_of_mem hp) _ (by simp)).trans hlt
      · rwa [List.mem_singleton.1 hp]

/-- Where no telltale stands twice, removing a telltale's first record removes them all. -/
theorem eraseP_telltale {l : List Presentation} (h : (l.map Presentation.telltale).Nodup) (i : Fin 64) :
    (l.eraseP fun p => p.telltale == i) = l.filter fun p => p.telltale != i := by
  induction l with
  | nil => rfl
  | cons p l ih =>
    obtain ⟨hp, hl⟩ := List.nodup_cons.1 h
    by_cases heq : p.telltale = i
    · subst heq
      rw [List.eraseP_cons_of_pos (by simp), List.filter_cons_of_neg (by simp), List.filter_eq_self.2]
      intro q hq
      exact bne_iff_ne.2 fun hqp => hp (hqp ▸ List.mem_map_of_mem hq)
    · rw [List.eraseP_cons_of_neg (by simpa using heq), List.filter_cons_of_pos (by simpa using heq), ih hl]

/-- The current presentation is removed and the next chosen: every other telltale's record stands on. -/
theorem NextChosen.filtered {c : Presentation} (hm : PlaceLaws m) (hc : m.current = some c) (h : NextChosen m n) :
    n.standing.Perm (m.standing.filter fun p => p.telltale != c.telltale) := by
  have hperm := h.perm
  rw [hc] at hperm
  have hfresh : c.telltale ∉ n.standing.map Presentation.telltale :=
    (List.nodup_cons.1 ((hperm.map Presentation.telltale).nodup_iff.2 hm.once)).1
  have hkeep : ((c :: n.standing).filter fun p => p.telltale != c.telltale) = n.standing := by
    rw [List.filter_cons_of_neg (by simp), List.filter_eq_self]
    intro q hq
    exact bne_iff_ne.2 fun hqc => hfresh (hqc ▸ List.mem_map_of_mem hq)
  rw [← hkeep]
  exact hperm.filter _

end

section
variable {s t : State} {i : Fin 64} {reports : List MessageReport}

/-- A withdrawal removes the telltale's record wherever it stands, and no other (R104). -/
theorem Withdrawn.filtered (hs : PlaceLaws s.messages) (h : Withdrawn s i t reports) :
    t.messages.standing.Perm (s.messages.standing.filter fun p => p.telltale != i) := by
  unfold Withdrawn at h
  split at h
  · next hcurrent =>
    obtain ⟨⟨m, hm, rfl⟩, -⟩ := h
    obtain ⟨c, hc, rfl⟩ := Option.map_eq_some_iff.1 hcurrent
    exact hm.filtered hs hc
  · next hcurrent =>
    obtain ⟨rfl, -⟩ := h
    have honce := hs.once
    simp only [Messages.standing, List.map_append] at honce
    have hstay : (s.messages.current.toList.filter fun p => p.telltale != i) = s.messages.current.toList := by
      rw [List.filter_eq_self]
      intro p hp
      rw [Option.mem_toList] at hp
      exact bne_iff_ne.2 fun hpi => hcurrent (by rw [hp, ← hpi]; rfl)
    simp only [Messages.standing, List.filter_append, hstay, eraseP_telltale honce.of_append_left.of_append_right,
      eraseP_telltale honce.of_append_right]
    exact .refl _

theorem Withdrawn.lawful (hs : PlaceLaws s.messages) (h : Withdrawn s i t reports) : PlaceLaws t.messages := by
  have honce : (t.messages.standing.map Presentation.telltale).Nodup :=
    ((h.filtered hs).map Presentation.telltale).nodup_iff.2
      (hs.once.sublist (List.filter_sublist.map Presentation.telltale))
  unfold Withdrawn at h
  split at h
  · obtain ⟨⟨m, hm, rfl⟩, -⟩ := h
    exact hs.chosen hm
  · obtain ⟨rfl, -⟩ := h
    exact {
      once := honce
      rising := hs.rising.sublist (List.eraseP_sublist.map Presentation.priority)
      below := fun c hc p hp => hs.below c hc p (List.mem_of_mem_eraseP hp)
      emptyStack := fun hc => by simp [hs.emptyStack hc]
      emptyRing := fun hc => by simp [hs.emptyRing hc]
      stackBound := List.eraseP_sublist.length_le.trans hs.stackBound
      ringBound := List.eraseP_sublist.length_le.trans hs.ringBound }

/-- The laws of the places read the three places alone. -/
theorem PlaceLaws.of_places {m n : Messages} (hm : PlaceLaws m) (h : n.places = m.places) : PlaceLaws n := by
  simp only [Messages.places, Prod.mk.injEq] at h
  obtain ⟨hcurrent, hstack, hring⟩ := h
  obtain ⟨once, rising, below, emptyStack, emptyRing, stackBound, ringBound⟩ := hm
  constructor <;> simp only [Messages.standing, hcurrent, hstack, hring] <;> assumption

theorem standing_of_places {m n : Messages} (h : n.places = m.places) : n.standing = m.standing := by
  simp only [Messages.places, Prod.mk.injEq] at h
  obtain ⟨hcurrent, hstack, hring⟩ := h
  simp only [Messages.standing, hcurrent, hstack, hring]

/-- A press on an acknowledgeable presentation leaves the places as the removal does (R106). -/
theorem press_places {c : Presentation} (hc : s.messages.current = some c) (ha : c.acknowledgeable = true) :
    s.press.state.messages.places = s.messages.removeCurrent.places := by
  unfold State.press
  rw [hc]
  dsimp only
  rw [if_pos ha]
  exact removeRequest_places ..

theorem press_ignored (h : ∀ c, s.messages.current = some c → c.acknowledgeable = false) : s.press = .silent s := by
  unfold State.press
  split
  · rfl
  · next c hc => rw [if_neg (by simp [h c hc])]

theorem press_lawful (hs : PlaceLaws s.messages) : PlaceLaws s.press.state.messages := by
  by_cases h : ∀ c, s.messages.current = some c → c.acknowledgeable = false
  · rw [press_ignored h]; exact hs
  · push Not at h
    obtain ⟨c, hc, ha⟩ := h
    exact (hs.chosen (removeCurrent_next _)).of_places (press_places hc (by simpa using ha))

end

/-- Settles O31: each event by what it does to the places (`placeOffer_spec`, `withdraw_spec`, `press_spec`), the laws by the moves of
records between the places, and the two selections by the split of the ring at the record they choose. -/
theorem presentationsArePlacedByPriority : Obligations.PresentationsArePlacedByPriority := by
  refine ⟨fun s p => ⟨placeOffer_spec s p, fun hs hp => ?_⟩, fun s i => ⟨withdraw_spec s i, fun hs => ?_⟩,
    fun s => ⟨press_spec s, press_lawful⟩, reported, fun l => ⟨fun b => bestRecord_iff, fun w => weakestRecord_iff, ?_, ?_⟩⟩
  · obtain ⟨m, hplaced, ht⟩ := placeOffer_spec s p
    rw [ht]
    exact (hs.placed hp hplaced).1
  · have hmem := fun p => ((withdraw_spec s i).filtered hs).mem_iff (a := p)
    simp only [List.mem_filter, bne_iff_ne] at hmem
    exact ⟨(withdraw_spec s i).lawful hs, fun p hp => ((hmem p).1 hp).2, fun p hp hne => (hmem p).2 ⟨hp, hne⟩⟩
  · exact ⟨bestRecord_none, by rintro rfl; rfl⟩
  · exact ⟨weakestRecord_none, by rintro rfl; rfl⟩

end Sys2Proof.Machine
end

section
/-! PROOFS. The Message Unit's laws with the telltales across the moves of a telltale, a press and the resets (R79, R85, R99). -/

namespace Sys2Proof.Machine

/-! ### The laws from one state to the next -/

theorem MessageLaws.shows_iff_held {s : State} (hs : MessageLaws s) (i : Fin 64) :
    s.messages.shows i ↔ (s.telltales.records[i]).held ≠ .none := (shows_iff _ _).trans (hs.held i)

theorem messageLaws_of {s : State} (hp : PlaceLaws s.messages)
    (hheld : ∀ i, s.messages.shows i ↔ (s.telltales.records[i]).held ≠ .none)
    (hshown : ∀ i : Fin 64, (s.telltales.records[i]).held ≠ .none → (s.telltales.records[i]).state.shown = true) :
    MessageLaws s := ⟨hp, fun i => (shows_iff _ _).symm.trans (hheld i), hshown⟩

/-- The part of the state that the laws read. -/
def State.display (s : State) : (Option Presentation × List Presentation × List Presentation) × Vector Telltale 64 :=
  (s.messages.places, s.telltales.records)

/-- An operation keeps the laws. -/
def MessagesKept (s t : State) : Prop := MessageLaws s → MessageLaws t

theorem MessagesKept.refl (s : State) : MessagesKept s s := id

theorem MessagesKept.trans {s t u : State} (h : MessagesKept s t) (g : MessagesKept t u) : MessagesKept s u := g ∘ h

theorem messagesKept_of_display {s t : State} (h : t.display = s.display) : MessagesKept s t := fun hs => by
  simp only [State.display, Prod.mk.injEq] at h
  obtain ⟨hplaces, hrecords⟩ := h
  refine messageLaws_of (hs.places.of_places hplaces) (fun i => ?_) (fun i => ?_)
  · rw [hrecords, Messages.shows, standing_of_places hplaces]; exact hs.shows_iff_held i
  · rw [hrecords]; exact hs.shown i

/-- An operation followed by an update outside that part. -/
theorem MessagesKept.same {s t u : State} (h : MessagesKept s t) (hu : u.display = t.display) : MessagesKept s u :=
  h.trans (messagesKept_of_display hu)

/-- An operation after an update outside that part. -/
theorem MessagesKept.after {s t u : State} (h : MessagesKept u t) (hu : u.display = s.display) : MessagesKept s t :=
  (messagesKept_of_display hu).trans h

theorem messagesKept_foldl {α : Type} {f : State → α → State} (hf : ∀ s a, MessagesKept s (f s a)) (l : List α) (s : State) :
    MessagesKept s (l.foldl f s) := by
  induction l generalizing s with
  | nil => exact .refl s
  | cons a l ih => exact (hf s a).trans (ih _)

/-- Nothing stands, and no telltale holds a presentation. -/
theorem messageLaws_emptied {s : State} (h : s.messages.places = (none, [], []))
    (hheld : ∀ i : Fin 64, (s.telltales.records[i]).held = .none) : MessageLaws s := by
  have hempty : PlaceLaws ({ s.messages with current := none, stack := [], ring := [] }) := by
    constructor <;> simp [Messages.standing]
  refine messageLaws_of (hempty.of_places h) (fun i => ?_) fun i hi => absurd (hheld i) hi
  rw [Messages.shows, standing_of_places (m := { s.messages with current := none, stack := [], ring := [] }) h, hheld i]
  simp [Messages.standing]

section
variable {s t : State} {i : Fin 64}

/-- A telltale's record changes, and what it holds does not (R81, R82). -/
theorem MessageLaws.setTelltale (hs : MessageLaws s) {r : Telltale} (hheld : r.held = (s.telltales.records[i]).held)
    (hshown : r.held ≠ .none → r.state.shown = true) : MessageLaws (s.setTelltale i r) := by
  refine messageLaws_of hs.places (fun j => ?_) (fun j => ?_) <;> rw [setTelltale_record] <;> split
  · next heq => subst heq; rw [hheld]; exact hs.shows_iff_held i
  · exact hs.shows_iff_held j
  · exact hshown
  · exact hs.shown j

/-- A telltale's record is removed from the places, and the telltale holds none (R85, R104, R106). -/
theorem MessageLaws.removed (hs : MessageLaws s) (hp : PlaceLaws t.messages)
    (hstanding : ∀ j, t.messages.shows j ↔ s.messages.shows j ∧ j ≠ i)
    (hnone : (t.telltales.records[i]).held = .none)
    (hrecords : ∀ j : Fin 64, j ≠ i → t.telltales.records[j] = s.telltales.records[j]) : MessageLaws t := by
  refine messageLaws_of hp (fun j => ?_) (fun j hj => ?_)
  · rw [hstanding]
    by_cases heq : j = i
    · subst heq; rw [hnone]; simp
    · rw [hrecords j heq, hs.shows_iff_held]; simp [heq]
  · have hne : j ≠ i := fun heq => hj (heq ▸ hnone)
    rw [hrecords j hne] at hj ⊢
    exact hs.shown j hj

theorem shows_of_filtered {m n : Messages} (h : n.standing.Perm (m.standing.filter fun p => p.telltale != i)) (j : Fin 64) :
    n.shows j ↔ m.shows j ∧ j ≠ i := by
  simp only [shows_iff, h.mem_iff, List.mem_filter, bne_iff_ne]
  constructor
  · rintro ⟨p, ⟨hp, hne⟩, rfl⟩; exact ⟨⟨p, hp, rfl⟩, hne⟩
  · rintro ⟨⟨p, hp, rfl⟩, hne⟩; exact ⟨p, ⟨hp, hne⟩, rfl⟩

/-! ### An offer and a press -/

/-- The telltales' records after an offer: one whose record is dropped holds none (R85). -/
theorem OfferTaken.record {p : Presentation} {reports : List MessageReport} (h : OfferTaken s p t reports) (j : Fin 64) :
    t.telltales.records[j] =
      if .dropped j ∈ reports then { s.telltales.records[j] with held := .none } else s.telltales.records[j] := by
  obtain ⟨m, -, rfl⟩ := h
  exact Vector.getElem_ofFn ..

/-- A shown telltale that holds none offers a presentation: it holds one exactly when its record stands, and a telltale whose record is
dropped holds none (R83, R85, R92). -/
theorem MessageLaws.offered (hs : MessageLaws s) {p : Presentation} {h : Held} {reports : List MessageReport}
    (ht : OfferTaken (s.setHeld p.telltale h) p t reports) (hh : h ≠ .none)
    (hnone : (s.telltales.records[p.telltale]).held = .none)
    (hshown : (s.telltales.records[p.telltale]).state.shown = true) : MessageLaws t := by
  have hrecord := fun j => (ht.record j).trans (by rw [setHeld_record])
  obtain ⟨m, hplaced, rfl⟩ := ht
  have hfresh : ¬ s.messages.shows p.telltale := fun hp => (hs.shows_iff_held _).1 hp hnone
  obtain ⟨hlawful, haccount⟩ := hs.places.placed hfresh hplaced
  refine messageLaws_of hlawful (fun j => ?_) (fun j => ?_)
  · have hstanding := haccount.mem_iff (List.nodup_cons.2 ⟨hfresh, hs.places.once⟩) j
    rw [List.map_cons, List.mem_cons] at hstanding
    rw [hrecord j, Messages.shows, hstanding]
    split
    · next hdropped => simp [hdropped]
    · next hkept =>
      rw [and_iff_left hkept]
      split
      · next heq => exact iff_of_true (.inl heq.symm) hh
      · next hne => rw [or_iff_right (Ne.symm hne)]; exact hs.shows_iff_held j
  · rw [hrecord j]
    split
    · exact fun hj => absurd rfl hj
    · split
      · next heq => subst heq; exact fun _ => hshown
      · exact hs.shown j

theorem MessageLaws.offerPresentation (hs : MessageLaws s) (hnone : (s.telltales.records[i]).held = .none)
    (hshown : (s.telltales.records[i]).state.shown = true) {h : Held} (hh : h ≠ .none) (message : Nat) :
    MessageLaws (s.offerPresentation i h message).state :=
  hs.offered (p := ⟨i, (s.tables.telltale[i]).priority, message, (s.tables.telltale[i]).acknowledgeable⟩)
    (placeOffer_spec ..) hh hnone hshown

/-- A telltale that is to hold none withdraws what stands of it (R84, R104). -/
theorem MessageLaws.withdrawn (hs : MessageLaws s) {r : Telltale} (hr : r.held = .none) :
    MessageLaws ((s.setTelltale i r).withdraw i).state := by
  have hspec := withdraw_spec (s.setTelltale i r) i
  have hplaces : PlaceLaws (s.setTelltale i r).messages := hs.places
  have hrecord : ∀ j : Fin 64, ((s.setTelltale i r).withdraw i).state.telltales.records[j] =
      if i = j then r else s.telltales.records[j] := fun j => setTelltale_record s i j r
  have hfiltered := hspec.filtered hplaces
  refine hs.removed (i := i) (hspec.lawful hplaces) (shows_of_filtered hfiltered) ?_ fun j hj => ?_
  · rw [hrecord, if_pos rfl, hr]
  · rw [hrecord, if_neg hj.symm]

theorem press_messagesKept (s : State) : MessagesKept s s.press.state := fun hs => by
  by_cases h : ∀ c, s.messages.current = some c → c.acknowledgeable = false
  · rw [press_ignored h]; exact hs
  · push Not at h
    obtain ⟨c, hc, ha⟩ := h
    have ha : c.acknowledgeable = true := by simpa using ha
    have hplaces := press_places hc ha
    have hrecords : s.press.state.telltales.records = s.telltales.records.set c.telltale
        { s.telltales.records[c.telltale] with held := .none, acknowledged := true } := by
      simp only [State.press, hc, ha, if_true, removeRequest_telltales]
      rfl
    refine hs.removed (i := c.telltale) (press_lawful hs.places) (fun j => ?_) ?_ fun j hj => ?_
    · rw [Messages.shows, standing_of_places hplaces]
      exact shows_of_filtered ((removeCurrent_next _).filtered hs.places hc) j
    · rw [hrecords]; simp
    · rw [hrecords]
      exact Vector.getElem_set_ne _ _ fun heq => hj (Fin.ext heq.symm)

/-! ### The moves of a telltale (R81 to R84) -/

theorem choose_display (s : State) : s.choose.display = s.display := by
  simp only [State.display, choose_places, choose_telltales]

theorem removeRequest_display (s : State) (i : Fin 64) : (s.removeRequest i).display = s.display := by
  simp only [State.display, removeRequest_places, removeRequest_telltales]

theorem recomputeNamed_display (s : State) (l : Option (Fin 32)) : (s.recomputeNamed l).display = s.display := by
  simp only [State.display, recomputeNamed_messages, recomputeNamed_records]

theorem onChime_display (s : State) (i : Fin 64) : (s.onChime i).display = s.display := by
  unfold State.onChime
  split
  · rfl
  · exact choose_display _

theorem setCondition_messagesKept (s : State) (i : Fin 64) (c : Bool) : MessagesKept s (s.setCondition i c) := fun hs =>
  hs.setTelltale rfl (hs.shown i)

/-- A telltale that is shown offers only while it holds none (R83). -/
theorem MessageLaws.onOffer (hs : MessageLaws s) (hshown : (s.telltales.records[i]).state.shown = true) :
    MessageLaws (s.onOffer i).state := by
  unfold State.onOffer
  dsimp only
  split
  · next hnone =>
    split
    · exact hs.offerPresentation hnone hshown (by decide) _
    · split
      · exact hs.offerPresentation hnone hshown (by decide) _
      · exact hs
  · exact hs

theorem telltaleOn_messagesKept (s : State) (i : Fin 64) : MessagesKept s (s.telltaleOn i).state := fun hs => by
  obtain ⟨x, hx⟩ : ∃ x, x = (s.setTelltale i { s.telltales.records[i] with state := .on, debounce := none }).recomputeNamed
    (s.tables.telltale[i]).lamp := ⟨_, rfl⟩
  have hlaws : MessageLaws x := by
    rw [hx]
    exact messagesKept_of_display (recomputeNamed_display _ _) (hs.setTelltale rfl fun _ => rfl)
  have hon : (x.telltales.records[i]).state.shown = true := by
    rw [hx, recomputeNamed_records, setTelltale_record, if_pos rfl]; rfl
  unfold State.telltaleOn
  dsimp only
  rw [← hx]
  exact messagesKept_of_display (onChime_display _ _) (hlaws.onOffer hon)

theorem telltaleOff_messagesKept (s : State) (i : Fin 64) : MessagesKept s (s.telltaleOff i).state := fun hs => by
  unfold State.telltaleOff
  dsimp only
  refine messagesKept_of_display ((recomputeNamed_display _ _).trans (removeRequest_display _ _)) ?_
  split
  · next hnone => exact hs.setTelltale hnone.symm fun h => absurd rfl h
  · exact hs.withdrawn rfl

theorem telltaleFallen_messagesKept (s : State) (i : Fin 64) : MessagesKept s (s.telltaleFallen i).state := by
  unfold State.telltaleFallen
  split
  · exact fun hs => hs.setTelltale rfl fun _ => rfl
  · exact telltaleOff_messagesKept s i

/-- A telltale that is not shown holds none, so the moves between OFF and RISING leave nothing standing (R81). -/
theorem moveTelltale_messagesKept (s : State) (i : Fin 64) : MessagesKept s (s.moveTelltale i).state := fun hs => by
  have hshown := hs.shown i
  unfold State.moveTelltale
  dsimp only
  split
  · next hstate _ =>
    split
    · exact telltaleOn_messagesKept s i hs
    · exact hs.setTelltale rfl fun h => absurd (hshown h) (by rw [hstate]; decide)
  · next hstate _ => exact hs.setTelltale rfl fun h => absurd (hshown h) (by rw [hstate]; decide)
  · split
    · exact telltaleFallen_messagesKept s i hs
    · exact hs.setTelltale rfl fun _ => rfl
  · exact hs.setTelltale rfl fun _ => rfl
  · exact hs.setTelltale rfl fun _ => rfl
  all_goals exact hs

theorem evaluateTelltale_messagesKept (s : State) (i : Fin 64) : MessagesKept s (s.evaluateTelltale i).state :=
  (setCondition_messagesKept s i _).trans (moveTelltale_messagesKept _ i)

theorem evaluateFresh_messagesKept (s : State) (i : Fin 64) : MessagesKept s (s.evaluateFresh i).state :=
  (setCondition_messagesKept s i false).trans (evaluateTelltale_messagesKept _ i)

theorem telltaleCleared_messagesKept (s : State) (i : Fin 64) : MessagesKept s (s.telltaleCleared i).state := by
  unfold State.telltaleCleared
  split
  · exact setCondition_messagesKept s i false
  · exact (setCondition_messagesKept s i false).trans (telltaleOff_messagesKept _ i)

theorem telltaleStandby_messagesKept (s : State) (i : Fin 64) : MessagesKept s (s.telltaleStandby i).state := by
  unfold State.telltaleStandby
  split
  · split
    · exact telltaleOff_messagesKept s i
    · exact .refl s
  · exact telltaleCleared_messagesKept s i

end

/-- An event of a slot and all that its readers do moves telltales and takes presses, and leaves the rest as it stands (R80, R105). -/
theorem messagesKept_events : ClosedEvents MessagesKept where
  refl := .refl
  trans := .trans
  egress _ _ _ _ := messagesKept_of_display rfl
  record _ _ _ _ _ := messagesKept_of_display rfl
  choices _ _ := messagesKept_of_display rfl
  severe _ := messagesKept_of_display rfl
  target _ _ := messagesKept_of_display rfl
  evaluate s i _ := evaluateTelltale_messagesKept s i
  seen _ _ := messagesKept_of_display rfl
  press := press_messagesKept
  activity _ _ := messagesKept_of_display rfl
  token _ _ _ _ _ := messagesKept_of_display rfl
  tally _ _ _ _ := messagesKept_of_display rfl
  utc _ _ := messagesKept_of_display rfl
  selection _ _ := messagesKept_of_display rfl
  slot _ _ _ _ _ := messagesKept_of_display rfl

end Sys2Proof.Machine
end

section
/-! PROOFS. What the operations keep of the Message Unit's laws with the telltales (R79, R85, R99): the moves of the part, the channels'
work, expiries, frames, resets and the writes of entries. -/

namespace Sys2Proof.Machine

/-! ### Updates outside the part that the laws read -/

section
variable (s : State)

@[simp] theorem reportGauges_display : s.reportGauges.display = s.display := rfl
@[simp] theorem mapChannels_display (f : Channel → GaugeEntry → Channel) : (s.mapChannels f).display = s.display := by
  simp only [State.display, State.mapChannels]
@[simp] theorem setRing_display (r : PairRing) (a : ArbitrationState) : (s.setRing r a).display = s.display := rfl
@[simp] theorem setPlausibility_display (t : Timer) : (s.setPlausibility t).display = s.display := rfl
@[simp] theorem setSilence_display (x : Silence) : (s.setSilence x).display = s.display := rfl
@[simp] theorem timeHomingEntry_display : s.timeHomingEntry.display = s.display := rfl
@[simp] theorem timeStandbyEntry_display : s.timeStandbyEntry.display = s.display := rfl
@[simp] theorem setFilterTick_display (t : Timer) : (s.setFilterTick t).display = s.display := rfl
@[simp] theorem setBulbCheck_display (t : Timer) : (s.setBulbCheck t).display = s.display := rfl
@[simp] theorem reportBulbEnd_display : s.reportBulbEnd.display = s.display := rfl
@[simp] theorem startSettle_display : s.startSettle.display = s.display := rfl
@[simp] theorem setCrew_display (c : Crew) : (s.setCrew c).display = s.display := rfl
@[simp] theorem setSnapshotCounter_display (n : Nat) : (s.setSnapshotCounter n).display = s.display := rfl
@[simp] theorem mapLamps_display (f : LampState → LampState) : (s.mapLamps f).display = s.display := by
  simp only [State.display, State.mapLamps]

@[simp] theorem recomputeLamps_display : s.recomputeLamps.display = s.display := by
  rw [recomputeLamps_rest]
  generalize s.recomputeLamps.telltales.lamps = lamps
  rfl

@[simp] theorem startFilterTick_display : s.startFilterTick.display = s.display := by
  unfold State.startFilterTick
  split <;> simp

@[simp] theorem reportChanges_display (before : State) : (s.reportChanges before).display = s.display := by
  unfold State.reportChanges
  split <;> simp

@[simp] theorem startBulbCheck_display : s.startBulbCheck.display = s.display := by
  unfold State.startBulbCheck
  dsimp only
  split <;> simp

@[simp] theorem endBulbCheck_display : s.endBulbCheck.display = s.display := by simp [State.endBulbCheck]

@[simp] theorem matchedFrame_display (p : Port) : (s.matchedFrame p).display = s.display := by
  rw [matchedFrame_eq]
  rfl

@[simp] theorem sendDownstream_display : s.sendDownstream.display = s.display := by
  unfold State.sendDownstream
  split <;> rfl

@[simp] theorem sendReply_display : s.sendReply.display = s.display := by
  unfold State.sendReply
  split <;> rfl

@[simp] theorem replySent_display : s.replySent.display = s.display := by
  unfold State.replySent
  split
  · rfl
  · split <;> rfl

@[simp] theorem replyNotSent_display : s.replyNotSent.display = s.display := by
  unfold State.replyNotSent
  split <;> rfl

@[simp] theorem replyExpired_display (place : Nat) : (s.replyExpired place).display = s.display := by
  unfold State.replyExpired
  split
  · rfl
  · split <;> rfl

/-! ### Reactions -/

theorem raise_messagesKept (c : FaultClass) (d : FaultDetail) : MessagesKept s (raise c d s) := messagesKept_events.raise c d s

theorem offer_messagesKept (r : EgressRecord) : MessagesKept s (offer r s) := messagesKept_events.offer r s

theorem offerSnapshot_messagesKept : MessagesKept s (offerSnapshot s) := offer_messagesKept s _

theorem reply_messagesKept (code : Byte) (tag : Word16) (r : ReplyStatus) (data : List Byte) :
    MessagesKept s (reply code tag r data s) := offer_messagesKept s _

theorem refuse_messagesKept (code : Byte) (tag : Word16) (r : ReplyStatus) : MessagesKept s (refuse code tag r s) :=
  (raise_messagesKept s _ _).trans (reply_messagesKept _ code tag r [])

theorem publishSevere_messagesKept : MessagesKept s (publishSevere s) := messagesKept_events.publishSevere s

theorem decodedEvent_messagesKept (c : SlotChange) (k : Fin 120) : MessagesKept s (decodedEvent c k s) :=
  messagesKept_events.decodedEvent c k s

theorem writeSelection_messagesKept : MessagesKept s (writeSelection s) := messagesKept_events.writeSelection s

theorem writeRemaining_messagesKept : MessagesKept s (writeRemaining s) := messagesKept_events.writeRemaining s

theorem writeIgnition_messagesKept : MessagesKept s (writeIgnition s) :=
  (messagesKept_events.derivedEvent 126 (s.setSlot 126 s.ignitionContent)).after rfl

theorem whole_messagesKept {f : State → Change} (hf : ∀ s, MessagesKept s (f s).state) : MessagesKept s (whole f s) :=
  messagesKept_events.whole hf s

/-! ### Telltales and lamps (R80, R86, R87, R92, R94, R97) -/

theorem eachTelltale_messagesKept {f : State → Fin 64 → Change} (hf : ∀ s i, MessagesKept s (f s i).state) :
    MessagesKept s (eachTelltale f s) := messagesKept_foldl (fun s i => whole_messagesKept s fun s => hf s i) _ s

theorem freshTelltales_messagesKept (before : PartState) : MessagesKept s (freshTelltales before s) := by
  refine eachTelltale_messagesKept s fun s i => ?_
  split
  · exact evaluateFresh_messagesKept s i
  · exact .refl s

/-- A backup offer is made for a telltale that is ON and holds none (R92). -/
theorem lampFails_messagesKept (ch : Fin 32) (l : LampState) (c : FaultClass) : MessagesKept s (lampFails ch l c s) := by
  have hraised : MessagesKept s (raiseItem c ch.val (s.setLamp ch l)) := (raise_messagesKept (s.setLamp ch l) c _).after rfl
  refine hraised.trans (messagesKept_foldl (fun s i => ?_) _ _)
  dsimp only
  split
  · next h =>
    simp only [Bool.and_eq_true, beq_iff_eq] at h
    obtain ⟨⟨⟨-, hon⟩, hnone⟩, -⟩ := h
    exact fun hs => messagesKept_events.reported publishSevere_messagesKept _
      (hs.offerPresentation hnone (by rw [hon]; rfl) (by decide) _)
  · exact .refl s

theorem telltaleWritten_messagesKept (i : Fin 64) (lampBefore : Option (Fin 32)) :
    MessagesKept s (telltaleWritten i lampBefore s) := by
  have hoff : MessagesKept s (whole (fun s => ((s.setCondition i false).telltaleOff i).andThen fun s =>
      s.recomputeNamed lampBefore) s) := whole_messagesKept s fun s =>
    ((setCondition_messagesKept s i false).trans (telltaleOff_messagesKept _ i)).same (recomputeNamed_display _ _)
  unfold telltaleWritten
  dsimp only
  split
  · exact hoff.trans (whole_messagesKept _ fun s => evaluateFresh_messagesKept s i)
  · exact hoff

theorem resetTelltales_messagesKept : MessagesKept s (resetTelltales s) := by
  have hcleared : MessagesKept s ((eachTelltale State.telltaleCleared s).mapLamps LampState.clear) :=
    (eachTelltale_messagesKept s telltaleCleared_messagesKept).same (mapLamps_display _ _)
  unfold resetTelltales
  refine (hcleared.trans (eachTelltale_messagesKept _ fun s i => ?_)).same (recomputeLamps_display _)
  split
  · exact evaluateFresh_messagesKept s i
  · exact .refl s

/-! ### Events that empty the places (R96, R115 to R117) -/

theorem presentationCleared_messageLaws : MessageLaws s.presentationCleared :=
  messageLaws_emptied rfl fun i => by simp [State.presentationCleared, State.forgetHeld]

theorem resetPresentation_messagesKept : MessagesKept s (resetPresentation s) := fun _ => by
  unfold resetPresentation
  split
  · exact presentationCleared_messageLaws s
  · exact offer_messagesKept _ _ (presentationCleared_messageLaws s)

theorem Quieted.messageLaws {s t : State} (h : Quieted s t) : MessageLaws t :=
  messageLaws_emptied (by rw [h.messages]; rfl) fun i => by rw [h.records]

theorem warmStart_messagesKept : MessagesKept s s.warmStart := fun _ => (warmStart_spec s).toQuieted.messageLaws

theorem conclude_messagesKept : MessagesKept s (conclude s) := by
  have h := conclude_spec s
  unfold Concluded at h
  split at h
  · rw [h]; exact messagesKept_of_display rfl
  · split at h
    · exact fun _ => h.toQuieted.messageLaws
    · rw [h]; exact .refl s

theorem cold_messagesKept (keepAlive held raw : Bool) (n : Nat) (queue : List Instr) :
    MessagesKept s (State.cold keepAlive held raw n queue) := fun _ =>
  messageLaws_emptied rfl fun i => by simp [State.cold, Telltales.cold, Telltale.cold]

/-! ### Moves of the part (R152 to R157) -/

theorem homingEntry_messagesKept : MessagesKept s (homingEntry s) :=
  ((freshTelltales_messagesKept s.timeHomingEntry.gaugesHomingEntry.startBulbCheck s.time.part).after
    (by simp [State.gaugesHomingEntry])).same (setPlausibility_display _ _)

theorem standbyEntry_messagesKept : MessagesKept s (standbyEntry s) := by
  unfold standbyEntry telltalesStandbyEntry
  exact (((eachTelltale_messagesKept _ telltaleStandby_messagesKept).after
    (by simp [State.gaugesStandbyEntry, State.speedStandby])).trans (freshTelltales_messagesKept _ _)).same
      (endBulbCheck_display _)

theorem enterByLevel_messagesKept : MessagesKept s (enterByLevel s) := by
  unfold enterByLevel
  split
  · exact homingEntry_messagesKept s
  · exact standbyEntry_messagesKept s

theorem wakingEntry_messagesKept : MessagesKept s (wakingEntry s) := by
  have hcredit : MessagesKept s (wakeCredit (s.setPart .waking)) :=
    (writeRemaining_messagesKept _).after (setCrew_display (s.setPart .waking) _)
  exact (hcredit.trans (writeIgnition_messagesKept _)).same (startSettle_display _)

theorem startPart_messagesKept : MessagesKept s (startPart s) := by
  unfold startPart
  split
  · exact (enterByLevel_messagesKept _).after rfl
  · exact .refl s

theorem takeIgnitionOn_messagesKept : MessagesKept s (takeIgnitionOn s) := by
  unfold takeIgnitionOn
  split
  · exact .refl s
  · split
    · exact wakingEntry_messagesKept s
    · exact ((writeIgnition_messagesKept s).trans (homingEntry_messagesKept _)).trans (conclude_messagesKept _)
    all_goals exact writeIgnition_messagesKept s

theorem takeIgnitionOff_messagesKept : MessagesKept s (takeIgnitionOff s) := by
  unfold takeIgnitionOff
  split
  · exact .refl s
  · cases s.time.part with
    | homing | run =>
      exact ((writeIgnition_messagesKept s).trans (standbyEntry_messagesKept _)).trans (conclude_messagesKept _)
    | unconfigured | waking | standby => exact writeIgnition_messagesKept s
    | sleep => exact .refl s

end

end Sys2Proof.Machine
end

section
/-! PROOFS. Every step keeps the Message Unit's laws with the telltales (R79, R85, R99). -/

namespace Sys2Proof.Machine

section
variable (s : State)

/-! ### Signals, speed, gauges and crew -/

theorem goStale_messagesKept (k : Fin 120) : MessagesKept s (goStale k s) := by
  have hstale : MessagesKept s (decodedEvent .quality k ((s.setQuality k .stale).setSlotTimers k none none)) :=
    (decodedEvent_messagesKept _ _ k).after rfl
  unfold goStale
  dsimp only
  split
  · exact hstale.trans (raise_messagesKept _ _ _)
  · exact hstale

theorem goHeld_messagesKept (k : Fin 120) : MessagesKept s (goHeld k s) := by
  unfold goHeld
  dsimp only
  split
  · exact goStale_messagesKept s k
  · exact (decodedEvent_messagesKept _ _ k).after rfl

theorem runMapEntry_messagesKept (f : Frame) (m : Fin 192) : MessagesKept s (runMapEntry f m s) := by
  unfold runMapEntry codeUpdate valueUpdate
  dsimp only
  split
  · split
    · exact raise_messagesKept s _ _
    · split <;> exact (decodedEvent_messagesKept _ _ _).after rfl
  · exact .refl s

theorem runMapRange_messagesKept (f : Frame) (first count : Nat) : MessagesKept s (runMapRange f first count s) := by
  refine messagesKept_foldl (fun s m => ?_) _ s
  split
  · exact runMapEntry_messagesKept s f m
  · exact .refl s

theorem sampleSpeed_messagesKept : MessagesKept s (sampleSpeed s) := by
  unfold sampleSpeed
  dsimp only
  split
  · split
    · split
      · exact (raise_messagesKept _ _ _).after (setRing_display s _ _)
      · exact messagesKept_of_display (setRing_display s _ _)
    · exact messagesKept_of_display (setRing_display s _ _)
  · exact messagesKept_of_display (setRing_display s _ _)

theorem plausibilityTicked_messagesKept : MessagesKept s (plausibilityTicked s) :=
  ((sampleSpeed_messagesKept _).after (setPlausibility_display s _)).trans (writeSelection_messagesKept _)

theorem updateChannel_display (ch : Fin 6) (f : Channel → GaugeEntry → Channel) :
    (s.updateChannel ch f).display = s.display := rfl

theorem tickChannel_messagesKept (ch : Fin 6) : MessagesKept s (tickChannel ch s) := by
  unfold tickChannel
  split
  · unfold tickHoming
    dsimp only
    split
    · have hraised : MessagesKept s (raiseItem .gaugeHomingFail ch.val (s.updateChannel ch fun c _ => c.driveHome)) :=
        (raise_messagesKept _ _ _).after (updateChannel_display s ch _)
      exact hraised.same (updateChannel_display _ ch _)
    · exact messagesKept_of_display rfl
  · exact messagesKept_of_display rfl
  · exact messagesKept_of_display rfl
  all_goals exact .refl s

theorem filterTicked_messagesKept : MessagesKept s (filterTicked s) := by
  have hticked : MessagesKept s (tickChannels (s.setFilterTick (some Config.filterInterval))) :=
    (messagesKept_foldl (fun s ch => tickChannel_messagesKept s ch) _ _).after (setFilterTick_display s _)
  exact (hticked.same (reportChanges_display _ s)).trans (conclude_messagesKept _)

theorem stallReported_messagesKept (ch : Fin 6) : MessagesKept s (stallReported ch s) := by
  have htaken : MessagesKept s (takeStall ch s) := by
    unfold takeStall
    split
    · exact messagesKept_of_display rfl
    · exact (raise_messagesKept s _ _).same rfl
    · exact (raise_messagesKept s _ _).same rfl
    all_goals exact .refl s
  unfold stallReported
  split
  · exact htaken.same (reportGauges_display _)
  · exact .refl s

theorem accountingTick_messagesKept : MessagesKept s (accountingTick s) := by
  have hwritten : MessagesKept s (writeRemaining (s.setCrew (s.crew.accrue s.tables.crew s.time.mono))) :=
    (writeRemaining_messagesKept _).after (setCrew_display s _)
  refine hwritten.trans ?_
  unfold accountingTick advanceSnapshot
  dsimp only
  split
  · exact messagesKept_of_display (setSnapshotCounter_display _ _)
  · split
    · exact (offerSnapshot_messagesKept _).same (setSnapshotCounter_display _ _)
    · exact messagesKept_of_display (setSnapshotCounter_display _ _)

/-- The ms counter paces the telltales' debounce timers, and leaves what they show and hold (R146). -/
theorem advanceMs_messagesKept : MessagesKept s s.advanceMs := fun hs => by
  have hrecord : ∀ i : Fin 64, s.advanceMs.telltales.records[i] = (s.telltales.records[i]).tick := fun i =>
    Vector.getElem_ofFn _
  refine messageLaws_of (hs.places.of_places rfl) (fun i => ?_) (fun i => ?_)
  · rw [hrecord]; exact hs.shows_iff_held i
  · rw [hrecord]; exact hs.shown i

/-! ### The chime (R111, R114) -/

theorem chimeOnEnds_messagesKept : MessagesKept s s.chimeOnEnds := by
  unfold State.chimeOnEnds
  split <;> exact messagesKept_of_display rfl

theorem completeBurst_display (t : Fin 64) : (s.completeBurst t).display = s.display := by
  have hafresh : ∀ u : State, u.chooseAfresh.display = u.display := fun u => by
    simp only [State.display, chooseAfresh_places, chooseAfresh_telltales]
  unfold State.completeBurst
  split
  · exact hafresh s
  · exact hafresh _

theorem chimeOffEnds_messagesKept : MessagesKept s s.chimeOffEnds := by
  unfold State.chimeOffEnds
  split
  · exact messagesKept_of_display (completeBurst_display s _)
  all_goals exact .refl s

theorem chimeFails_messagesKept : MessagesKept s (chimeFails s) := by
  unfold chimeFails
  split
  · exact (raise_messagesKept (s.setLoad .open) _ _).after rfl
  all_goals exact .refl s

theorem chimeRecovers_messagesKept : MessagesKept s s.chimeRecovers := by
  unfold State.chimeRecovers
  split <;> exact messagesKept_of_display rfl

/-! ### Section resets and cleared faults -/

theorem resetCrewSection_messagesKept : MessagesKept s (resetCrewSection s) :=
  ((writeRemaining_messagesKept _).after (setCrew_display s _)).trans (offerSnapshot_messagesKept _)

theorem setFaults_display (f : Faults) : ({ s with faults := f } : State).display = s.display := rfl

theorem resetSection_messagesKept (x : Section) : MessagesKept s (resetSection x s) := by
  cases x with
  | intake =>
    simp only [resetSection, State.resetIntake]
    split <;> exact messagesKept_of_display rfl
  | signals => exact messagesKept_foldl (fun s k => (decodedEvent_messagesKept (s.setUnknown k 65535) .quality k).after rfl) _ s
  | speed => exact (writeSelection_messagesKept s.relearn).after rfl
  | gauges => exact messagesKept_of_display (by simp [resetSection, State.resetGauges])
  | telltales => exact resetTelltales_messagesKept s
  | presentation => exact resetPresentation_messagesKept s
  | crew => exact resetCrewSection_messagesKept s
  | faults => exact (publishSevere_messagesKept { s with faults := .cold }).after (setFaults_display s .cold)

theorem requestReset_messagesKept (tag : Word16) (x : Section) : MessagesKept s (requestReset tag x s) :=
  (resetSection_messagesKept s x).trans (reply_messagesKept _ 7 tag .ok [])

theorem clearFaultClasses_messagesKept (classes : Word16) (service : Bool) :
    MessagesKept s (clearFaultClasses classes service s) := by
  unfold clearFaultClasses
  dsimp only
  split
  · exact messagesKept_of_display (setFaults_display s _)
  · exact (publishSevere_messagesKept _).after (setFaults_display s _)

end

/-! ### Entry writes -/

@[simp] theorem setTables_display (s : State) (t : Tables) : (s.setTables t).display = s.display := rfl

theorem accept_messagesKept {α : Type} {o : Option α} {ok : α → Bool} {write : α → State} {s u : State}
    (h : accept o ok write = .ok u) (hw : ∀ e, MessagesKept s (write e)) : MessagesKept s u := by
  unfold accept at h
  split at h
  · cases h
  · split at h <;> cases h
    exact hw _

theorem acceptCurve_messagesKept {o : Option Curve} {write : Curve → State} {s u : State} (h : acceptCurve o write = .ok u)
    (hw : ∀ e, MessagesKept s (write e)) : MessagesKept s u := by
  unfold acceptCurve at h
  split at h
  · cases h
  · split at h
    · split at h <;> cases h
      exact hw _
    · cases h

theorem writeSystemConfig_messagesKept (s : State) (e : SystemConfig) (w : Written) :
    MessagesKept s (writeSystemConfig e w s) := by
  have hset : MessagesKept s (if w.covers 5 then (s.setTables { s.tables with system := e }).resetDetector
      else s.setTables { s.tables with system := e }) := by split <;> exact messagesKept_of_display rfl
  unfold writeSystemConfig
  dsimp only
  split
  · exact (hset.same (setRing_display _ _ _)).trans (writeSelection_messagesKept _)
  · exact hset

/-- A write of an entry keeps the laws: a telltale entry as its telltale goes OFF and is evaluated afresh, the others by the events they
make, if any. -/
theorem writeEntry_messagesKept {t : TableId} {k : Nat} {l : List Byte} {w : Written} {s u : State}
    (h : writeEntry t k l w s = .ok u) : MessagesKept s u := by
  have plain : ∀ {v : State}, v.display = s.display → MessagesKept s v := messagesKept_of_display
  unfold writeEntry at h
  cases t with
  | intake => dsimp only at h; split at h; exacts [(nomatch h), accept_messagesKept h fun _ => plain rfl]
  | map => dsimp only at h; split at h; exacts [(nomatch h), accept_messagesKept h fun _ => plain rfl]
  | slotConfig =>
    dsimp only at h; split at h
    exacts [(nomatch h), accept_messagesKept h fun _ => (decodedEvent_messagesKept _ .quality _).after rfl]
  | curve => dsimp only at h; split at h; exacts [(nomatch h), acceptCurve_messagesKept h fun _ => plain rfl]
  | gauge => dsimp only at h; split at h; exacts [(nomatch h), accept_messagesKept h fun _ => plain rfl]
  | telltale =>
    dsimp only at h; split at h
    exacts [(nomatch h), accept_messagesKept h fun _ => (telltaleWritten_messagesKept _ _ _).after rfl]
  | chime => dsimp only at h; split at h; exacts [(nomatch h), accept_messagesKept h fun _ => plain (choose_display _)]
  | crewConfig =>
    dsimp only at h; split at h
    exacts [(nomatch h), accept_messagesKept h fun _ => (writeRemaining_messagesKept _).after (setTables_display s _)]
  | systemConfig =>
    dsimp only at h; split at h
    exacts [(nomatch h), accept_messagesKept h fun e => writeSystemConfig_messagesKept s e w]
  | faultPolicy =>
    dsimp only at h; split at h
    exacts [(nomatch h), accept_messagesKept h fun _ => (publishSevere_messagesKept _).after (setTables_display s _)]

/-- `u` follows from `s` by one accepted write of an entry (R177, R178). -/
def EntryWritten (s u : State) : Prop := ∃ t k l w, writeEntry t k l w s = .ok u

theorem EntryWritten.messagesKept {s u : State} (h : EntryWritten s u) : MessagesKept s u := by
  obtain ⟨t, k, l, w, h⟩ := h
  exact writeEntry_messagesKept h

theorem loadEntry_written {table index : Byte} {entry : List Byte} {s u : State}
    (h : loadEntry table index entry s = .ok u) : EntryWritten s u := by
  unfold loadEntry at h
  split at h
  · cases h
  · split at h
    · cases h
    · split at h
      · cases h
      · exact ⟨_, _, _, _, h⟩

theorem namedField_written {f : NamedField} {value : Word32} {s u : State} (h : f.write value s = .ok u) :
    EntryWritten s u := by
  unfold NamedField.write at h
  split at h
  · exact ⟨_, _, _, _, h⟩
  · cases h

theorem serviceWrite_written {table index field : Byte} {value : Word32} {s u : State}
    (h : serviceWrite table index field value s = .ok u) : EntryWritten s u := by
  unfold serviceWrite at h
  split at h
  · cases h
  · split at h
    · split at h
      · exact namedField_written h
      · cases h
    · cases h

/-! ### Requests, frames and transfers -/

section
variable (s : State)

theorem answerWrite_messagesKept (code : Byte) (tag : Word16) {r : Except ReplyStatus State}
    (hr : ∀ u, r = .ok u → EntryWritten s u) : MessagesKept s (answerWrite code tag r s) := by
  cases r with
  | error e => exact refuse_messagesKept s code tag e
  | ok u => exact (hr u rfl).messagesKept.trans (reply_messagesKept u code tag .ok [])

theorem answerRead_messagesKept (code : Byte) (tag : Word16) (r : Except ReplyStatus (List Byte)) :
    MessagesKept s (answerRead code tag r s) := by
  cases r with
  | error e => exact refuse_messagesKept s code tag e
  | ok l => exact reply_messagesKept s code tag .ok l

theorem requestLoad_messagesKept (tag : Word16) (table index : Byte) (entry : List Byte) :
    MessagesKept s (requestLoad tag table index entry s) :=
  answerWrite_messagesKept s 1 tag fun _ => loadEntry_written

theorem requestSetField_messagesKept (tag : Word16) (table index field : Byte) (value : Word32) :
    MessagesKept s (requestSetField tag table index field value s) := by
  refine answerWrite_messagesKept s 3 tag fun u h => ?_
  split at h
  · cases h
  · exact namedField_written h

theorem requestClearFaults_messagesKept (tag classes : Word16) : MessagesKept s (requestClearFaults tag classes s) :=
  (clearFaultClasses_messagesKept s classes false).trans (reply_messagesKept _ 6 tag _ _)

theorem requestStart_messagesKept (tag : Word16) : MessagesKept s (requestStart tag s) :=
  (startPart_messagesKept s).trans (reply_messagesKept _ 8 tag .ok [])

theorem unlessBusy_messagesKept {handle : State → State} (h : MessagesKept s (handle s)) :
    MessagesKept s (unlessBusy s handle) := by
  unfold unlessBusy
  split
  · exact raise_messagesKept s _ _
  · exact h

theorem refuseService_messagesKept (a : ReplyAddress) (code : Byte) (r : ReplyStatus) :
    MessagesKept s (refuseService a code r s) := (raise_messagesKept s _ _).same rfl

theorem serviceSetField_messagesKept (a : ReplyAddress) (table index field : Byte) (value : Word32) :
    MessagesKept s (serviceSetField a table index field value s) := by
  refine unlessBusy_messagesKept s ?_
  split
  · exact refuseService_messagesKept s a 3 _
  · next hw => exact (serviceWrite_written hw).messagesKept.same rfl

theorem serviceReadField_messagesKept (a : ReplyAddress) (table index field : Byte) :
    MessagesKept s (serviceReadField a table index field s) := by
  refine unlessBusy_messagesKept s ?_
  split
  · exact refuseService_messagesKept s a 4 _
  · exact messagesKept_of_display rfl

theorem serviceClearFaults_messagesKept (a : ReplyAddress) (classes : Word16) :
    MessagesKept s (serviceClearFaults a classes s) :=
  unlessBusy_messagesKept s ((clearFaultClasses_messagesKept s classes true).same rfl)

theorem serviceReadFaults_messagesKept (a : ReplyAddress) : MessagesKept s (serviceReadFaults a s) :=
  unlessBusy_messagesKept s (messagesKept_of_display rfl)

theorem serviceFrame_messagesKept (a : ReplyAddress) (data : List Byte) : MessagesKept s (serviceFrame a data s) := by
  unfold serviceFrame
  split
  · exact serviceSetField_messagesKept s a _ _ _ _
  · exact serviceReadField_messagesKept s a _ _ _
  · exact serviceClearFaults_messagesKept s a _
  · exact serviceReadFaults_messagesKept s a
  all_goals exact unlessBusy_messagesKept s (refuseService_messagesKept s a _ _)

theorem forwardFrame_messagesKept (i : Fin 96) (f : Frame) : MessagesKept s (forwardFrame i f s) := by
  unfold forwardFrame
  split
  · split
    · exact .refl s
    · exact offer_messagesKept s _
    · split
      · exact .refl s
      · split
        · exact messagesKept_of_display rfl
        · exact offer_messagesKept s _
  · exact .refl s

theorem frameArrived_messagesKept (f : Frame) : MessagesKept s (frameArrived f s) := by
  have hseen : MessagesKept s (s.matchedFrame f.port) := messagesKept_of_display (matchedFrame_display s _)
  unfold frameArrived actOnFrame
  split
  · exact .refl s
  · split
    · exact .refl s
    · dsimp only
      split
      · exact (hseen.trans (runMapRange_messagesKept _ f _ _)).trans (forwardFrame_messagesKept _ _ f)
      · exact hseen.trans (serviceFrame_messagesKept _ _ _)

theorem dispatch_messagesKept (code : Byte) (tag : Word16) (args : List Byte) : MessagesKept s (dispatch code tag args s) := by
  unfold dispatch
  split
  · exact requestLoad_messagesKept s tag _ _ _
  · exact answerRead_messagesKept s 2 tag _
  · exact requestSetField_messagesKept s tag _ _ _ _
  · exact answerRead_messagesKept s 4 tag _
  · exact answerRead_messagesKept s 5 tag _
  · exact requestClearFaults_messagesKept s tag _
  · split
    · exact refuse_messagesKept s 7 tag .range
    · exact requestReset_messagesKept s tag _
  · exact requestStart_messagesKept s tag
  · exact MessagesKept.trans (reply_messagesKept s 9 tag .ok []) (warmStart_messagesKept _)
  · exact refuse_messagesKept s code tag .range

theorem transfer_messagesKept (u : List Byte) : MessagesKept s (transfer u s) := by
  have hsent : MessagesKept s s.sendDownstream := messagesKept_of_display (sendDownstream_display s)
  refine hsent.trans ?_
  unfold transfer handleUpstream handlePayload
  split
  · split
    · exact .refl _
    · split
      · exact dispatch_messagesKept _ _ _ _
      all_goals exact refuse_messagesKept _ _ _ _
  · exact raise_messagesKept _ _ _

end

/-! ### Every command -/

section
variable {f : State → State} {s t : State}

theorem onAwake_messagesKept (h : onAwake f s = .next t) (hf : MessagesKept s (f s)) : MessagesKept s t := by
  cases h
  split
  · exact hf
  · exact .refl s

/-- The same for one that acts only on a condition. -/
theorem onAwake_messagesKept_if {p : State → Bool} (h : onAwake (fun s => if p s = true then f s else s) s = .next t)
    (hf : MessagesKept s (f s)) : MessagesKept s t := onAwake_messagesKept h (by split; exacts [hf, .refl s])

end

/-- Every command keeps the laws: the moves of telltales, presses and resets one by one, every other command because the places and the
telltales' records stand. -/
theorem exec_messagesKept {c : Instr} {s t : State} (h : exec c s = .next t) : MessagesKept s t := by
  unfold exec at h
  cases c with
  | coldStart => cases h; exact (cold_messagesKept s _ _ _ _ _).trans (raise_messagesKept _ _ _)
  | keepAliveRemoval => cases h; exact cold_messagesKept s _ _ _ _ _
  | resetInputAssert => cases h; exact messagesKept_of_display rfl
  | resetInputRelease =>
    cases h
    split
    · split
      · exact (warmStart_messagesKept { s with resetHeld := false }).after rfl
      · exact messagesKept_of_display rfl
    · exact .refl s
  | ignitionSenseChange level => cases h; split <;> exact messagesKept_of_display rfl
  | ignitionOn => cases h; split; exacts [(takeIgnitionOn_messagesKept (s.setIgnition true)).after rfl, .refl s]
  | ignitionOff => cases h; split; exacts [(takeIgnitionOff_messagesKept (s.setIgnition false)).after rfl, .refl s]
  | portBFrameStart => cases h; split; exacts [wakingEntry_messagesKept s, .refl s]
  | monotonicAdvance =>
    cases h
    split
    · split
      · exact (accountingTick_messagesKept s.advanceSeconds).after rfl
      · exact messagesKept_of_display rfl
    · exact .refl s
  | linkTransfer u =>
    cases h
    split
    · split
      · exact (transfer_messagesKept s u).trans (conclude_messagesKept _)
      · exact messagesKept_of_display rfl
    · exact .refl s
  | frameArrival f => exact onAwake_messagesKept h ((frameArrived_messagesKept s f).trans (conclude_messagesKept _))
  | load tag table index entry =>
    exact onAwake_messagesKept h ((requestLoad_messagesKept s tag _ _ _).trans (conclude_messagesKept _))
  | setField tag table index field value =>
    exact onAwake_messagesKept h ((requestSetField_messagesKept s tag _ _ _ _).trans (conclude_messagesKept _))
  | read tag table index => exact onAwake_messagesKept h (answerRead_messagesKept s 2 tag _)
  | readField tag table index field => exact onAwake_messagesKept h (answerRead_messagesKept s 4 tag _)
  | state tag target index => exact onAwake_messagesKept h (answerRead_messagesKept s 5 tag _)
  | clearFaults tag classes => exact onAwake_messagesKept h (requestClearFaults_messagesKept s tag classes)
  | intakeSectionReset tag => exact onAwake_messagesKept h (requestReset_messagesKept s tag .intake)
  | signalsSectionReset tag => exact onAwake_messagesKept h (requestReset_messagesKept s tag .signals)
  | speedSectionReset tag => exact onAwake_messagesKept h (requestReset_messagesKept s tag .speed)
  | gaugesSectionReset tag =>
    exact onAwake_messagesKept h ((requestReset_messagesKept s tag .gauges).trans (conclude_messagesKept _))
  | telltalesSectionReset tag => exact onAwake_messagesKept h (requestReset_messagesKept s tag .telltales)
  | presentationSectionReset tag => exact onAwake_messagesKept h (requestReset_messagesKept s tag .presentation)
  | crewSectionReset tag => exact onAwake_messagesKept h (requestReset_messagesKept s tag .crew)
  | faultsSectionReset tag => exact onAwake_messagesKept h (requestReset_messagesKept s tag .faults)
  | start tag => exact onAwake_messagesKept h ((requestStart_messagesKept s tag).trans (conclude_messagesKept _))
  | warmReset tag =>
    exact onAwake_messagesKept h (.trans (reply_messagesKept s 9 tag .ok []) (warmStart_messagesKept _))
  | serviceSetField a table index field value => exact onAwake_messagesKept h (serviceSetField_messagesKept s a _ _ _ _)
  | serviceReadField a table index field => exact onAwake_messagesKept h (serviceReadField_messagesKept s a _ _ _)
  | serviceClearFaults a classes => exact onAwake_messagesKept h (serviceClearFaults_messagesKept s a classes)
  | readFaults a => exact onAwake_messagesKept h (serviceReadFaults_messagesKept s a)
  | silenceExpiry p =>
    exact onAwake_messagesKept_if h ((raise_messagesKept (s.openEpisode p) _ _).after (by cases p <;> rfl))
  | holdExpiry k => exact onAwake_messagesKept_if h (goHeld_messagesKept s k)
  | staleExpiry k => exact onAwake_messagesKept_if h (goStale_messagesKept s k)
  | plausibilityTick => exact onAwake_messagesKept_if h (plausibilityTicked_messagesKept s)
  | filterTick => exact onAwake_messagesKept_if h (filterTicked_messagesKept s)
  | stallReport ch => exact onAwake_messagesKept h ((stallReported_messagesKept s ch).trans (conclude_messagesKept _))
  | onDebounceExpiry i =>
    exact onAwake_messagesKept_if h (whole_messagesKept s fun s => telltaleOn_messagesKept s i)
  | offDebounceExpiry i =>
    exact onAwake_messagesKept_if h (whole_messagesKept s fun s => telltaleFallen_messagesKept s i)
  | lampNoCurrent ch => exact onAwake_messagesKept_if h (lampFails_messagesKept s ch _ _)
  | lampCurrentPresent ch => exact onAwake_messagesKept_if h (messagesKept_of_display rfl)
  | lampOverCurrent ch => exact onAwake_messagesKept_if h (lampFails_messagesKept s ch _ _)
  | bulbCheckExpiry =>
    exact onAwake_messagesKept_if h ((conclude_messagesKept s.endBulbCheck.reportBulbEnd).after (by simp))
  | chimeOnExpiry => exact onAwake_messagesKept h (chimeOnEnds_messagesKept s)
  | chimeOffExpiry => exact onAwake_messagesKept h (chimeOffEnds_messagesKept s)
  | chimeNoCurrent => exact onAwake_messagesKept h (chimeFails_messagesKept s)
  | chimeCurrentPresent => exact onAwake_messagesKept h (chimeRecovers_messagesKept s)
  | settleExpiry => exact onAwake_messagesKept_if h ((enterByLevel_messagesKept s).trans (conclude_messagesKept _))
  | quietExpiry => exact onAwake_messagesKept_if h ((conclude_messagesKept (s.setQuiet .elapsed)).after rfl)
  | replyFrameSend => exact onAwake_messagesKept h (messagesKept_of_display (sendReply_display s))
  | replyFrameSent => exact onAwake_messagesKept h (messagesKept_of_display (replySent_display s))
  | replyFrameNotSent => exact onAwake_messagesKept h (messagesKept_of_display (replyNotSent_display s))
  | replyExpiry place => exact onAwake_messagesKept h (messagesKept_of_display (replyExpired_display s _))
  | msCounterAdvance => exact onAwake_messagesKept h (advanceMs_messagesKept s)

/-- Settles O55: an idle step changes nothing, and a command keeps the laws by `exec_messagesKept`. -/
theorem stepsKeepThePresentationLaws : Obligations.StepsKeepThePresentationLaws := by
  intro s t hs h
  unfold step at h
  split at h
  · cases h; exact hs
  · exact exec_messagesKept h (messagesKept_of_display (s := s) rfl hs)

end Sys2Proof.Machine
end

section
/-! PROOFS. The chime arbiter: the winner, the choice, the phases, the sense reports and the output (R108, R110 to R114). -/

namespace Sys2Proof.Machine

/-! ### The winner (R110) -/

/-- A request does not give way to another: a higher pattern priority, or the same and no higher telltale index (R110). -/
def State.beats (s : State) (i : Fin 64) (p : Fin 8) (j : Fin 64) (q : Fin 8) : Prop :=
  s.patternPriority q < s.patternPriority p ∨ (s.patternPriority q = s.patternPriority p ∧ i ≤ j)

/-- A telltale wins among those of a list: it is ACTIVE there and gives way to none that is (R110). -/
def State.winsAmong (s : State) (l : List (Fin 64)) (w : Fin 64 × Fin 8) : Prop :=
  w.1 ∈ l ∧ s.activePattern w.1 = some w.2 ∧ ∀ j ∈ l, ∀ q, s.activePattern j = some q → s.beats w.1 w.2 j q

/-- The search's result over a list: the winner among its telltales, or none, and then none of them is ACTIVE. -/
def State.wonBy (s : State) (l : List (Fin 64)) (best : Option (Fin 64 × Fin 8)) : Prop :=
  match best with
  | none => ∀ j ∈ l, s.activePattern j = none
  | some w => s.winsAmong l w

/-- One telltale's turn in the search for the winner (R110). -/
def State.winnerStep (s : State) (best : Option (Fin 64 × Fin 8)) (i : Fin 64) : Option (Fin 64 × Fin 8) :=
  match s.activePattern i with
  | none => best
  | some p =>
    match best with
    | none => some (i, p)
    | some b => if s.patternPriority b.2 < s.patternPriority p then some (i, p) else some b

theorem chimeWinner_eq (s : State) : s.chimeWinner = (List.finRange 64).foldl s.winnerStep none := rfl

section
variable {s : State} {l : List (Fin 64)} {i : Fin 64}

/-- A request that comes after a list wins with it when it gives way to none of the list. -/
theorem winsAmong_last {p : Fin 8} (hp : s.activePattern i = some p)
    (h : ∀ j ∈ l, ∀ q, s.activePattern j = some q → s.beats i p j q) : s.winsAmong (l ++ [i]) (i, p) := by
  refine ⟨List.mem_append_right _ (List.mem_singleton_self i), hp, List.forall_mem_append.2 ⟨h, ?_⟩⟩
  refine List.forall_mem_singleton.2 fun q hq => ?_
  obtain rfl := Option.some.inj (hp.symm.trans hq)
  exact .inr ⟨rfl, le_rfl⟩

/-- The winner among a list wins on when it does not give way to the request after the list. -/
theorem winsAmong_append {w : Fin 64 × Fin 8} (hw : s.winsAmong l w)
    (h : ∀ q, s.activePattern i = some q → s.beats w.1 w.2 i q) : s.winsAmong (l ++ [i]) w := by
  obtain ⟨hmem, hactive, hbest⟩ := hw
  exact ⟨List.mem_append_left _ hmem, hactive, List.forall_mem_append.2 ⟨hbest, List.forall_mem_singleton.2 h⟩⟩

/-- A later telltale takes over with a strictly higher priority alone, so the lowest index of the highest priority stays. -/
theorem wonBy_winnerStep {best : Option (Fin 64 × Fin 8)} (h : s.wonBy l best) (hi : ∀ j ∈ l, j < i) :
    s.wonBy (l ++ [i]) (s.winnerStep best i) := by
  unfold State.winnerStep
  cases hp : s.activePattern i with
  | none =>
    cases best with
    | none => exact List.forall_mem_append.2 ⟨h, List.forall_mem_singleton.2 hp⟩
    | some w => exact winsAmong_append h fun q hq => by rw [hp] at hq; cases hq
  | some p =>
    cases best with
    | none => exact winsAmong_last hp fun j hj q hq => by rw [h j hj] at hq; cases hq
    | some w =>
      obtain ⟨hmem, hactive, hbest⟩ := h
      dsimp only
      split
      · next hlt =>
        refine winsAmong_last hp fun j hj q hq => ?_
        have hwj := hbest j hj q hq
        unfold State.beats at *
        omega
      · next hge =>
        refine winsAmong_append ⟨hmem, hactive, hbest⟩ fun q hq => ?_
        obtain rfl := Option.some.inj (hp.symm.trans hq)
        have hwi := hi w.1 hmem
        unfold State.beats
        omega

end

theorem wonBy_foldl (s : State) (l : List (Fin 64)) (hl : l.Pairwise (· < ·)) : s.wonBy l (l.foldl s.winnerStep none) := by
  induction l using List.reverseRecOn with
  | nil => exact fun _ hj => absurd hj List.not_mem_nil
  | append_singleton l i ih =>
    obtain ⟨hl, -, hi⟩ := List.pairwise_append.1 hl
    rw [List.foldl_append]
    exact wonBy_winnerStep (ih hl) fun j hj => hi j hj i (List.mem_singleton_self i)

theorem chimeWinner_wonBy (s : State) : s.wonBy (List.finRange 64) s.chimeWinner := by
  rw [chimeWinner_eq]
  exact wonBy_foldl s _ (List.pairwise_lt_finRange 64)

theorem chimeWinner_none_iff (s : State) : s.chimeWinner = none ↔ ∀ i, s.activePattern i = none := by
  have hwon := chimeWinner_wonBy s
  cases h : s.chimeWinner with
  | none => rw [h] at hwon; exact iff_of_true rfl fun i => hwon i (List.mem_finRange i)
  | some w =>
    rw [h] at hwon
    obtain ⟨-, hactive, -⟩ := hwon
    exact iff_of_false (by simp) fun hall => by rw [hall] at hactive; cases hactive

/-- The winner is the ACTIVE request that gives way to none (R110). -/
theorem chimeWinner_iff (s : State) (i : Fin 64) (p : Fin 8) : s.chimeWinner = some (i, p) ↔
    s.activePattern i = some p ∧ ∀ j q, s.activePattern j = some q → s.beats i p j q := by
  have hwon := chimeWinner_wonBy s
  cases h : s.chimeWinner with
  | none =>
    refine iff_of_false (by simp) fun ⟨hactive, _⟩ => ?_
    rw [(chimeWinner_none_iff s).1 h] at hactive
    cases hactive
  | some w =>
    rw [h] at hwon
    obtain ⟨-, hactive, hbest⟩ := hwon
    have hbest := fun j => hbest j (List.mem_finRange j)
    constructor
    · rintro ⟨⟩
      exact ⟨hactive, hbest⟩
    · rintro ⟨hi, hall⟩
      have hwi := hbest i p hi
      have hiw := hall w.1 w.2 hactive
      have heq : w.1 = i := by unfold State.beats at hwi hiw; omega
      rw [heq, hi] at hactive
      rw [← heq, Option.some.inj hactive]

/-! ### The choice (R110, R112) -/

section
variable {s : State}

/-- The arbiter set to the state it stands in. -/
theorem setArbiter_same {a : Arbiter} (h : s.messages.arbiter = a) : s.setArbiter a = s := by
  subst h
  rfl

theorem choose_idle (h : s.messages.arbiter = .idle) : s.choose = s.chooseAfresh := by
  unfold State.choose
  rw [h]

theorem chooseAfresh_winner {w : Fin 64 × Fin 8} (h : s.chimeWinner = some w) : s.chooseAfresh = s.startBurst w := by
  unfold State.chooseAfresh
  rw [h]

theorem chooseAfresh_none (h : s.chimeWinner = none) : s.chooseAfresh = s.setArbiter .idle := by
  unfold State.chooseAfresh
  rw [h]

section
variable {t : Fin 64} {phase : ChimePhase} {left tone : Nat} {r : ChimeRequest}
  (harbiter : s.messages.arbiter = .playing t phase left tone)
include harbiter

/-- Mid-burst, a winner of a strictly higher priority starts (R112). -/
theorem choose_preempts (hr : s.messages.requests[t] = some r) {w : Fin 64 × Fin 8} (hw : s.chimeWinner = some w)
    (hne : w.1 ≠ t) (hlt : s.patternPriority r.pattern < s.patternPriority w.2) : s.choose = s.startBurst w := by
  unfold State.choose
  simp only [harbiter, hw, hr, if_neg hne, if_pos hlt]

/-- Mid-burst, no other winner replaces the one that plays (R112). -/
theorem choose_plays_on (hr : s.messages.requests[t] = some r)
    (h : ∀ w, s.chimeWinner = some w → w.1 ≠ t → s.patternPriority w.2 ≤ s.patternPriority r.pattern) : s.choose = s := by
  unfold State.choose
  simp only [harbiter, hr]
  cases hw : s.chimeWinner with
  | none => rfl
  | some w =>
    dsimp only
    split
    · rfl
    · next hne => exact if_neg (not_lt.2 (h w hw hne))

end

end

/-- Settles O32: the winner by the search over the telltales, the choice case by case. -/
theorem chimeArbiterPlaysTheWinner : Obligations.ChimeArbiterPlaysTheWinner := by
  refine fun s => ⟨chimeWinner_iff s, chimeWinner_none_iff s, fun hidle i p hw => ?_, fun hidle hw => ?_,
    fun t phase left tone r harbiter hr => ⟨fun i p hw hne hlt => ?_, fun h => ?_⟩⟩
  · rw [choose_idle hidle, chooseAfresh_winner hw]; rfl
  · rw [choose_idle hidle, chooseAfresh_none hw, setArbiter_same hidle]
  · rw [choose_preempts harbiter hr hw hne hlt]; rfl
  · exact choose_plays_on harbiter hr fun w => h w.1 w.2

/-! ### The output (R108, R111) -/

theorem chimeOutput_iff (s : State) (hz : Nat) : s.chimeOutput = some hz ↔ s.awake = true ∧
    ∃ t left tone, s.messages.arbiter = .playing t .on left tone ∧ hz = 400 + 100 * tone := by
  unfold State.chimeOutput toneFrequency
  cases s.awake with
  | false => simp
  | true =>
    cases s.messages.arbiter with
    | idle => simp
    | playing t phase left tone => cases phase <;> simp [eq_comm]

/-- A tone that the table accepts (R108). -/
theorem tone_le {t : Tables} (h : Tables.ok t) (p : Fin 8) : (t.chime[p]).tone ≤ 15 := by
  obtain ⟨-, -, -, -, -, -, hchime, -⟩ := h
  have hok := hchime p
  simp only [ChimePattern.ok, Bool.and_eq_true, decide_eq_true_eq] at hok
  obtain ⟨⟨⟨⟨⟨⟨⟨⟨htone, -⟩, -⟩, -⟩, -⟩, -⟩, -⟩, -⟩, -⟩ := hok
  exact htone

theorem startBurst_chimeOutput {s : State} (hs : s.awake = true) (w : Fin 64 × Fin 8) :
    (s.startBurst w).chimeOutput = some (400 + 100 * (s.tables.chime[w.2]).tone) :=
  (chimeOutput_iff _ _).2 ⟨hs, _, _, _, rfl, rfl⟩

/-! ### Phases and sense reports (R111, R113, R114) -/

section
variable {s : State} {t : Fin 64} {tone : Nat} {r : ChimeRequest}

/-- A request after a burst of it is completed: a limited one loses a repeat, and is SPENT at 0 (R113). -/
def ChimeRequest.counted (r : ChimeRequest) : ChimeRequest :=
  match r.remaining with
  | none => r
  | some n => { r with remaining := some (n - 1), status := if n ≤ 1 then .spent else r.status }

theorem chimeOnEnds_due (h : s.messages.arbiter = .playing t .on 0 tone) (hr : s.messages.requests[t] = some r) :
    s.chimeOnEnds = s.setArbiter (.playing t .off (s.tables.chime[r.pattern]).offTime tone) := by
  unfold State.chimeOnEnds State.offTime
  simp only [h, hr]

theorem chimeOnEnds_early (h : ∀ t tone, s.messages.arbiter ≠ .playing t .on 0 tone) : s.chimeOnEnds = s := by
  unfold State.chimeOnEnds
  split
  · next harbiter => exact absurd harbiter (h _ _)
  all_goals rfl

theorem chimeOffEnds_due (h : s.messages.arbiter = .playing t .off 0 tone) (hr : s.messages.requests[t] = some r) :
    s.chimeOffEnds = (s.setRequest t (some r.counted)).chooseAfresh := by
  unfold State.chimeOffEnds State.completeBurst
  simp only [h, hr]
  rfl

theorem chimeOffEnds_early (h : ∀ t tone, s.messages.arbiter ≠ .playing t .off 0 tone) : s.chimeOffEnds = s := by
  unfold State.chimeOffEnds
  split
  · next harbiter => exact absurd harbiter (h _ _)
  all_goals rfl

theorem chimeFails_sounding {left : Nat} (h : s.messages.arbiter = .playing t .on left tone) (hl : s.messages.load = .normal) :
    chimeFails s = raiseItem .chimeFault t.val (s.setLoad .open) := by
  unfold chimeFails
  simp only [h, hl]

theorem chimeFails_ignored (h : (∀ t left tone, s.messages.arbiter ≠ .playing t .on left tone) ∨ s.messages.load = .open) :
    chimeFails s = s := by
  unfold chimeFails
  split
  · next harbiter hload =>
    rcases h with h | h
    · exact absurd harbiter (h _ _ _)
    · rw [h] at hload; cases hload
  all_goals rfl

theorem chimeRecovers_sounding {left : Nat} (h : s.messages.arbiter = .playing t .on left tone) (hl : s.messages.load = .open) :
    s.chimeRecovers = s.setLoad .normal := by
  unfold State.chimeRecovers
  simp only [h, hl]

theorem chimeRecovers_ignored (h : (∀ t left tone, s.messages.arbiter ≠ .playing t .on left tone) ∨ s.messages.load = .normal) :
    s.chimeRecovers = s := by
  unfold State.chimeRecovers
  split
  · next harbiter hload =>
    rcases h with h | h
    · exact absurd harbiter (h _ _ _)
    · rw [h] at hload; cases hload
  all_goals rfl

end

/-- Settles O33: the output by the arbiter's state, each expiry and each report by whether it is due. -/
theorem chimePhasesAndReports : Obligations.ChimePhasesAndReports := by
  refine ⟨fun s => ⟨chimeOutput_iff s, fun i p htables hs hidle hw => ?_⟩, fun s hs => ?_, fun s hs => ?_⟩
  · have htone := tone_le htables p
    rw [choose_idle hidle, chooseAfresh_winner hw]
    exact ⟨400 + 100 * (s.tables.chime[p]).tone, startBurst_chimeOutput hs (i, p), rfl, by omega, by omega⟩
  · have hon : exec .chimeOnExpiry s = .next s.chimeOnEnds := onAwake_of_awake hs
    have hoff : exec .chimeOffExpiry s = .next s.chimeOffEnds := onAwake_of_awake hs
    rw [hon, hoff]
    refine ⟨fun t tone r h hr => ?_, fun t tone r h hr => ?_, fun h => ?_, fun h => ?_⟩
    · rw [chimeOnEnds_due h hr]; rfl
    · rw [chimeOffEnds_due h hr]
      intro counted u
      cases hw : u.chimeWinner with
      | none => exact congrArg Host.Outcome.next (chooseAfresh_none hw)
      | some w => exact congrArg Host.Outcome.next (chooseAfresh_winner hw)
    · rw [chimeOnEnds_early h]
    · rw [chimeOffEnds_early h]
  · have hnone : exec .chimeNoCurrent s = .next (chimeFails s) := onAwake_of_awake hs
    have hpresent : exec .chimeCurrentPresent s = .next s.chimeRecovers := onAwake_of_awake hs
    rw [hnone, hpresent]
    refine ⟨fun t left tone h hl => ?_, fun t left tone h hl => ?_, fun h => ?_, fun h => ?_⟩
    · rw [chimeFails_sounding h hl]
      exact ⟨_, rfl, raise_spec _ _ _⟩
    · rw [chimeRecovers_sounding h hl]; rfl
    · rw [chimeFails_ignored h]
    · rw [chimeRecovers_ignored h]

end Sys2Proof.Machine
end

section
/-! PROOFS. The places of the Crew Table: finding a record, the laws of a table by itself, and what an update of attached records leaves
of each place (R120, R121). -/

namespace Sys2Proof.Machine

/-! ### One place -/

theorem setPlace_place (c : Crew) (p q : Fin 4) (r : Option CrewRecord) :
    (c.setPlace p r).places[q] = if p = q then r else c.places[q] := by
  simp only [Crew.setPlace, Fin.getElem_fin, Vector.getElem_set, Fin.ext_iff]

/-- The removal of expired records empties their places, and leaves the others (R128). -/
theorem removeExpired_place (c : Crew) (cfg : CrewConfig) (now : Word32) (p : Fin 4) :
    (c.removeExpired cfg now).places[p] = (c.places[p]).filter fun r => !r.expired cfg now := by
  simp only [Crew.removeExpired, Fin.getElem_fin, Vector.getElem_ofFn]
  cases c.places[p.val] with
  | none => rfl
  | some r => cases h : r.expired cfg now <;> simp [h, Option.filter]

/-! ### Finding a record -/

theorem crew_find_some {c : Crew} {test : CrewRecord → Bool} {p : Fin 4} (h : c.find test = some p) :
    ∃ r, c.places[p] = some r ∧ test r = true := by
  have hp := List.find?_some h
  split at hp
  · cases hp
  · next r hr => exact ⟨r, hr, hp⟩

theorem crew_find_none {c : Crew} {test : CrewRecord → Bool} (h : c.find test = none) {p : Fin 4} {r : CrewRecord}
    (hp : c.places[p] = some r) : test r = false := by
  have hno := List.find?_eq_none.1 h p (List.mem_finRange p)
  rw [hp] at hno
  simpa using hno

theorem attachedAt_iff (r : CrewRecord) (x : CrewPosition) : r.attachedAt x = true ↔ r.place = .attached x := beq_iff_eq

theorem attachedPlace_some {c : Crew} {x : CrewPosition} {p : Fin 4} (h : c.attachedPlace x = some p) :
    ∃ r, c.places[p] = some r ∧ r.place = .attached x := by
  obtain ⟨r, hp, hr⟩ := crew_find_some h
  exact ⟨r, hp, (attachedAt_iff r x).1 hr⟩

theorem attachedPlace_none {c : Crew} {x : CrewPosition} (h : c.attachedPlace x = none) {p : Fin 4} {r : CrewRecord}
    (hp : c.places[p] = some r) : r.place ≠ .attached x := fun hr =>
  absurd (crew_find_none h hp) (by rw [(attachedAt_iff r x).2 hr]; decide)

theorem attached_none_of {c : Crew} {x : CrewPosition}
    (h : ∀ (p : Fin 4) (r : CrewRecord), c.places[p] = some r → r.place ≠ .attached x) : c.attached x = none := by
  unfold Crew.attached
  cases hplace : c.attachedPlace x with
  | none => rfl
  | some p =>
    obtain ⟨r, hp, hr⟩ := attachedPlace_some hplace
    exact absurd hr (h p r hp)

theorem attached_some {c : Crew} {x : CrewPosition} {r : CrewRecord} (h : c.attached x = some r) :
    ∃ p : Fin 4, c.places[p] = some r ∧ r.place = .attached x := by
  unfold Crew.attached at h
  split at h
  · cases h
  · next p hplace =>
    obtain ⟨y, hp, hy⟩ := attachedPlace_some hplace
    rw [h] at hp
    cases hp
    exact ⟨p, h, hy⟩

theorem holder_some {c : Crew} {t : Word32} {p : Fin 4} (h : c.holder t = some p) :
    ∃ r, c.places[p] = some r ∧ r.token = t := by
  obtain ⟨r, hp, hr⟩ := crew_find_some h
  exact ⟨r, hp, beq_iff_eq.1 hr⟩

theorem holder_none {c : Crew} {t : Word32} (h : c.holder t = none) {p : Fin 4} {r : CrewRecord}
    (hp : c.places[p] = some r) : r.token ≠ t := fun hr => by
  have hno := crew_find_none h hp
  simp [hr] at hno

/-! ### The laws of a table by itself (R121) -/

/-- A record's own laws: its token is not 0, and its counters are in order (R121). -/
structure CrewRecord.Lawful (r : CrewRecord) : Prop where
  token : r.token ≠ 0
  order : r.continuous ≤ r.daily
  top : r.daily ≤ 86400

/-- Two records of one table have their own tokens and their own positions (R121). -/
structure CrewRecord.Apart (r x : CrewRecord) : Prop where
  token : r.token ≠ x.token
  place : ∀ y, r.place = .attached y → x.place ≠ .attached y

theorem CrewRecord.Apart.symm {r x : CrewRecord} (h : r.Apart x) : x.Apart r :=
  ⟨h.token.symm, fun y hx hr => h.place y hr hx⟩

/-- The laws of the Crew Table, record by record (R121). -/
structure Crew.Lawful (c : Crew) : Prop where
  record : ∀ (p : Fin 4) r, c.places[p] = some r → r.Lawful
  apart : ∀ (p q : Fin 4) r x, p ≠ q → c.places[p] = some r → c.places[q] = some x → r.Apart x

theorem crewLaws_iff (s : State) : CrewLaws s ↔ s.crew.Lawful := by
  constructor
  · intro h
    refine ⟨fun p r hp => ⟨h.token p r hp, (h.counters p r hp).1, (h.counters p r hp).2⟩, fun p q r x hne hp hq => ⟨?_, ?_⟩⟩
    · exact fun heq => hne (h.distinct p q r x hp hq heq)
    · exact fun y hr hx => hne (h.attached p q r x y hp hq hr hx)
  · intro h
    refine ⟨fun p r hp => (h.record p r hp).token, fun p q r x hp hq heq => ?_, fun p q r x y hp hq hr hx => ?_,
      fun p r hp => ⟨(h.record p r hp).order, (h.record p r hp).top⟩⟩
    · exact by_contra fun hne => (h.apart p q r x hne hp hq).token heq
    · exact by_contra fun hne => (h.apart p q r x hne hp hq).place y hr hx

theorem Crew.Lawful.of_places {c d : Crew} (hc : c.Lawful) (h : d.places = c.places) : d.Lawful :=
  ⟨fun p r hp => hc.record p r (by rwa [h] at hp), fun p q r x hne hp hq =>
    hc.apart p q r x hne (by rwa [h] at hp) (by rwa [h] at hq)⟩

theorem lawful_empty {c : Crew} (h : ∀ p : Fin 4, c.places[p] = none) : c.Lawful :=
  ⟨fun p r hp => (by rw [h] at hp; cases hp), fun p q r x _ hp => (by rw [h] at hp; cases hp)⟩

/-- The part of a record that the laws speak of: its token, its place and its counters. -/
def CrewRecord.card (r : CrewRecord) : Word32 × CardPlace × Nat × Nat := (r.token, r.place, r.continuous, r.daily)

/-- What a record may become without breaking the laws of its table: it keeps its token, is attached only where it was, and its
counters stay in order. -/
structure CrewRecord.Follows (r x : CrewRecord) : Prop where
  token : x.token = r.token
  place : ∀ y, x.place = .attached y → r.place = .attached y
  lawful : r.Lawful → x.Lawful

theorem CrewRecord.Follows.refl (r : CrewRecord) : r.Follows r := ⟨rfl, fun _ => id, id⟩

/-- Updates of the other items change nothing about it. -/
theorem CrewRecord.Follows.of_card {r x r' x' : CrewRecord} (h : r.Follows x) (hr : r'.card = r.card) (hx : x'.card = x.card) :
    r'.Follows x' := by
  simp only [CrewRecord.card, Prod.mk.injEq] at hr hx
  obtain ⟨htoken, hplace, hcontinuous, hdaily⟩ := hr
  obtain ⟨htoken', hplace', hcontinuous', hdaily'⟩ := hx
  refine ⟨by rw [htoken, htoken', h.token], by rw [hplace, hplace']; exact h.place, fun hl => ?_⟩
  have hlawful := h.lawful ⟨htoken ▸ hl.token, hcontinuous ▸ hdaily ▸ hl.order, hdaily ▸ hl.top⟩
  exact ⟨htoken' ▸ hlawful.token, hcontinuous' ▸ hdaily' ▸ hlawful.order, hdaily' ▸ hlawful.top⟩

theorem CrewRecord.Apart.follows {r x r' x' : CrewRecord} (h : r.Apart x) (hr : r.Follows r') (hx : x.Follows x') :
    r'.Apart x' :=
  ⟨by rw [hr.token, hx.token]; exact h.token, fun y hr' hx' => h.place y (hr.place y hr') (hx.place y hx')⟩

/-- A table whose records all follow from those of a lawful one is lawful. -/
theorem Crew.Lawful.follows {c d : Crew} (hc : c.Lawful)
    (h : ∀ (p : Fin 4) x, d.places[p] = some x → ∃ r, c.places[p] = some r ∧ r.Follows x) : d.Lawful where
  record p x hx := by
    obtain ⟨r, hr, hf⟩ := h p x hx
    exact hf.lawful (hc.record p r hr)
  apart p q x y hne hx hy := by
    obtain ⟨r, hr, hf⟩ := h p x hx
    obtain ⟨z, hz, hg⟩ := h q y hy
    exact (hc.apart p q r z hne hr hz).follows hf hg

theorem Crew.Lawful.removeExpired {c : Crew} (hc : c.Lawful) (cfg : CrewConfig) (now : Word32) :
    (c.removeExpired cfg now).Lawful := hc.follows fun p x hx => by
  rw [removeExpired_place, Option.filter_eq_some_iff] at hx
  exact ⟨x, hx.1, .refl x⟩

/-- A lawful record that is apart from all others takes a place. -/
theorem Crew.Lawful.setPlace {c : Crew} (hc : c.Lawful) {p : Fin 4} {r : CrewRecord} (hr : r.Lawful)
    (hapart : ∀ (q : Fin 4) x, q ≠ p → c.places[q] = some x → r.Apart x) : (c.setPlace p (some r)).Lawful where
  record q x hx := by
    rw [setPlace_place] at hx
    split at hx
    · cases hx; exact hr
    · exact hc.record q x hx
  apart q q' x y hne hx hy := by
    rw [setPlace_place] at hx hy
    split at hx <;> split at hy
    · next hq hq' => exact absurd (hq.symm.trans hq') hne
    · next hq' => cases hx; exact hapart q' y (Ne.symm hq') hy
    · next hq _ => cases hy; exact (hapart q x (Ne.symm hq) hx).symm
    · exact hc.apart q q' x y hne hx hy

/-! ### Updates of attached records -/

/-- A change made only where a record is attached at a position. -/
def CrewRecord.changedAt (x : CrewPosition) (f : CrewRecord → CrewRecord) (r : CrewRecord) : CrewRecord :=
  if r.place = .attached x then f r else r

/-- A change made only while a record is attached (R125, R134). -/
def CrewRecord.changedAttached (f : CrewRecord → CrewRecord) (r : CrewRecord) : CrewRecord :=
  match r.place with
  | .attached _ => f r
  | .detached _ => r

theorem changedAttached_attached {r : CrewRecord} {x : CrewPosition} (h : r.place = .attached x)
    (f : CrewRecord → CrewRecord) : r.changedAttached f = f r := by unfold CrewRecord.changedAttached; rw [h]

theorem changedAttached_detached {r : CrewRecord} {since : Word32} (h : r.place = .detached since)
    (f : CrewRecord → CrewRecord) : r.changedAttached f = r := by unfold CrewRecord.changedAttached; rw [h]

/-- R121 leaves one record to update at a position. -/
theorem updateAttached_places {c : Crew} (hc : c.Lawful) (x : CrewPosition) (f : CrewRecord → CrewRecord) (p : Fin 4) :
    (c.updateAttached x f).places[p] = (c.places[p]).map (CrewRecord.changedAt x f) := by
  have hother : (∀ r, c.places[p] = some r → r.place ≠ .attached x) →
      c.places[p] = (c.places[p]).map (CrewRecord.changedAt x f) := fun h => by
    cases hp : c.places[p] with
    | none => rfl
    | some r => rw [Option.map_some, CrewRecord.changedAt, if_neg (h r hp)]
  unfold Crew.updateAttached
  cases hplace : c.attachedPlace x with
  | none => exact hother fun r hp => attachedPlace_none hplace hp
  | some q =>
    obtain ⟨y, hq, hy⟩ := attachedPlace_some hplace
    dsimp only
    rw [setPlace_place]
    split
    · next heq => subst heq; rw [hq, Option.map_some, Option.map_some, CrewRecord.changedAt, if_pos hy]
    · next hne => exact hother fun r hp => (hc.apart q p y r hne hq hp).place x hy

theorem changedAt_follows {x : CrewPosition} {f : CrewRecord → CrewRecord} (hf : ∀ r : CrewRecord, r.Follows (f r)) (r : CrewRecord) :
    r.Follows (r.changedAt x f) := by
  unfold CrewRecord.changedAt
  split
  · exact hf r
  · exact .refl r

theorem Crew.Lawful.updateAttached {c : Crew} (hc : c.Lawful) {f : CrewRecord → CrewRecord} (hf : ∀ r : CrewRecord, r.Follows (f r))
    (x : CrewPosition) : (c.updateAttached x f).Lawful := hc.follows fun p y hy => by
  rw [updateAttached_places hc, Option.map_eq_some_iff] at hy
  obtain ⟨r, hr, rfl⟩ := hy
  exact ⟨r, hr, changedAt_follows hf r⟩

/-- A change that keeps where a record stands, made at both positions, is made once of each attached record. -/
theorem changedAt_both {f : CrewRecord → CrewRecord} (hplace : ∀ r, (f r).place = r.place) (r : CrewRecord) :
    (r.changedAt .driver f).changedAt .coDriver f = r.changedAttached f := by
  cases hr : r.place with
  | attached x => rw [changedAttached_attached hr]; cases x <;> simp [CrewRecord.changedAt, hr, hplace]
  | detached since => rw [changedAttached_detached hr]; simp [CrewRecord.changedAt, hr]

/-- The records attached at DRIVER and at CO_DRIVER each change on their own (R125, R134). -/
theorem updateBoth_places {c : Crew} (hc : c.Lawful) {f : CrewRecord → CrewRecord} (hf : ∀ r : CrewRecord, r.Follows (f r))
    (hplace : ∀ r, (f r).place = r.place) (p : Fin 4) :
    ((c.updateAttached .driver f).updateAttached .coDriver f).places[p] =
      (c.places[p]).map (CrewRecord.changedAttached f) := by
  rw [updateAttached_places (hc.updateAttached hf .driver), updateAttached_places hc, Option.map_map]
  exact congrArg (fun g => (c.places[p]).map g) (funext fun r => changedAt_both hplace r)

end Sys2Proof.Machine
end

section
/-! PROOFS. What the Crew Unit's operations make of one record: accrual, rest credit, activity, tallies and warm start keep its card and
its counters in order (R121, R124, R126, R127, R133, R137, R144). -/

namespace Sys2Proof.Machine

/-! ### The crossings (R127, R133) -/

/-- The three crossings of a rest run in turn, for either sense of reaching a length: just now (R127) or by a credit (R133). -/
def CrewRecord.crossings (reached : Nat → Nat → Prop) [DecidableRel reached] (cfg : CrewConfig) (r : CrewRecord) : CrewRecord :=
  let full := if reached cfg.breakFull r.run then r.takeBreak else r
  let second := if reached cfg.breakPartB full.run ∧ full.breakState = .partA then full.takeBreak else full
  if reached cfg.dailyRest second.run then second.takeDailyRest else second

section
variable (reached : Nat → Nat → Prop) [DecidableRel reached] (cfg : CrewConfig) (r : CrewRecord)

/-- The crossings come to one update: a second part at the run of a full break finds the break state already cleared. -/
theorem crossings_eq :
    let broken := reached cfg.breakFull r.run ∨ (reached cfg.breakPartB r.run ∧ r.breakState = .partA)
    r.crossings reached cfg =
      { r with
        continuous := if broken ∨ reached cfg.dailyRest r.run then 0 else r.continuous
        daily := if reached cfg.dailyRest r.run then 0 else r.daily
        breakState := if broken then .none else r.breakState } := by
  unfold CrewRecord.crossings CrewRecord.takeBreak CrewRecord.takeDailyRest
  by_cases hfull : reached cfg.breakFull r.run
  · by_cases hday : reached cfg.dailyRest r.run <;> simp [hfull, hday]
  · by_cases hsecond : reached cfg.breakPartB r.run ∧ r.breakState = .partA
    · by_cases hday : reached cfg.dailyRest r.run <;> simp [hfull, hsecond, hday]
    · by_cases hday : reached cfg.dailyRest r.run <;> simp [hfull, hsecond, hday]

theorem crossings_follows : r.Follows (r.crossings reached cfg) := by
  rw [crossings_eq]
  refine ⟨rfl, fun _ => id, fun h => ⟨h.token, ?_, ?_⟩⟩
  · by_cases hday : reached cfg.dailyRest r.run
    · simp [hday]
    · simp only [hday, or_false, if_false]
      split
      · exact Nat.zero_le _
      · exact h.order
  · dsimp only
    split
    · exact Nat.zero_le _
    · exact h.top

end

/-! ### Accrual (R126, R127) -/

section
variable (cfg : CrewConfig) (r : CrewRecord)

/-- A tick's longer rest run crosses the lengths that it just equals (R127). -/
theorem accrueRest_eq : r.accrueRest cfg =
    if r.run < 4294967295 then CrewRecord.crossings (fun length run => run = length) cfg { r with run := r.run + 1 } else r :=
  rfl

theorem accrue_eq : r.accrue cfg = tickedRecord cfg r := by
  unfold CrewRecord.accrue tickedRecord
  cases hactivity : r.activity with
  | drive => unfold CrewRecord.accrueDrive; rw [hactivity]
  | rest => rw [accrueRest_eq, crossings_eq]; simp only [hactivity, or_assoc]
  | available | work | unknown => rfl

theorem accrue_follows : r.Follows (r.accrue cfg) := by
  unfold CrewRecord.accrue
  split
  · unfold CrewRecord.accrueDrive
    split
    · next hbelow => exact ⟨rfl, fun _ => id, fun h => ⟨h.token, Nat.succ_le_succ h.order, hbelow⟩⟩
    · exact .refl r
  · rw [accrueRest_eq]
    split
    · exact (crossings_follows _ cfg { r with run := r.run + 1 }).of_card rfl rfl
    · exact .refl r
  all_goals exact .refl r

theorem accrue_place : (r.accrue cfg).place = r.place := by
  rw [accrue_eq]
  unfold tickedRecord
  split
  · split <;> rfl
  · split <;> rfl
  all_goals rfl

/-! ### Rest credit (R133) -/

/-- A credit's run crosses every length that it reaches (R133). -/
theorem credit_crossings (g : Nat) : r.credit cfg g = CrewRecord.makeProvisional
    { CrewRecord.crossings (fun length run => length ≤ run) cfg
        { r with run := if r.activity = .rest then min (r.run + g) 4294967295 else g } with activity := .rest } := rfl

theorem credit_eq (g : Nat) :
    let run := if r.activity = .rest then min (r.run + g) 4294967295 else g
    let broken := cfg.breakFull ≤ run ∨ (cfg.breakPartB ≤ run ∧ r.breakState = .partA)
    r.credit cfg g =
      { r with
        run := run
        continuous := if broken ∨ cfg.dailyRest ≤ run then 0 else r.continuous
        daily := if cfg.dailyRest ≤ run then 0 else r.daily
        breakState := if broken then .none else r.breakState
        activity := .rest, provisional := true, contSeen := false, daySeen := false } := by
  dsimp only
  rw [credit_crossings, crossings_eq]
  rfl

theorem credit_place (g : Nat) : (r.credit cfg g).place = r.place := by rw [credit_eq]

theorem credit_follows (g : Nat) : r.Follows (r.credit cfg g) := by
  rw [credit_crossings]
  exact (crossings_follows _ cfg { r with run := if r.activity = .rest then min (r.run + g) 4294967295 else g }).of_card rfl rfl

/-! ### Activity, tallies, detachment and warm start (R124, R132, R137, R144) -/

theorem setActivity_follows (a : Activity) : r.Follows (r.setActivity cfg a) := by
  unfold CrewRecord.setActivity CrewRecord.endRun
  split <;> exact ⟨rfl, fun _ => id, fun h => ⟨h.token, h.order, h.top⟩⟩

theorem tallySeconds_le (m : Word32) : tallySeconds m ≤ 86400 := Nat.min_le_right _ _

/-- An adopted tally stays within the top, and continuous is clamped to daily (R137). -/
theorem tally_follows (k : TallyCounter) {t : Nat} (ht : t ≤ 86400) : r.Follows (r.tally cfg k t) := by
  rw [tally_eq]
  refine ⟨rfl, fun _ => id, fun h => ⟨h.token, ?_, ?_⟩⟩
  · dsimp only
    split
    · exact Nat.min_le_right _ _
    · next hno => rw [if_neg fun hk => hno hk.1, if_neg fun hk => hno hk.1]; exact h.order
  · dsimp only
    split
    · exact ht
    · exact h.top

/-- A detached card (R132). -/
def CrewRecord.detachedAt (now : Word32) (r : CrewRecord) : CrewRecord := { r with place := .detached now }

theorem detachedAt_follows (now : Word32) : r.Follows (r.detachedAt now) :=
  ⟨rfl, fun _ h => (nomatch h), fun h => ⟨h.token, h.order, h.top⟩⟩

theorem warm_follows : r.Follows (r.warm cfg) := (setActivity_follows cfg r .unknown).of_card rfl rfl

end

end Sys2Proof.Machine
end

section
/-! PROOFS. Accounting ticks and rest credits, record by record (R125 to R128, R133, R134). -/

namespace Sys2Proof.Machine

section
variable {r : CrewRecord} (cfg : CrewConfig) (now : Word32)

theorem expired_attached {x : CrewPosition} (h : r.place = .attached x) : r.expired cfg now = false := by
  unfold CrewRecord.expired; rw [h]

theorem expired_detached {since : Word32} (h : r.place = .detached since) :
    r.expired cfg now = decide (cfg.detachedKeep < (now - since).toNat) := by
  unfold CrewRecord.expired; rw [h]; rfl

end

theorem accrue_places {c : Crew} (hc : c.Lawful) (cfg : CrewConfig) (now : Word32) (p : Fin 4) :
    (c.accrue cfg now).places[p] =
      ((c.places[p]).map (CrewRecord.changedAttached (CrewRecord.accrue cfg))).filter fun r => !r.expired cfg now := by
  unfold Crew.accrue
  rw [removeExpired_place, updateBoth_places hc (accrue_follows cfg) (accrue_place cfg)]

theorem creditCrew_places {s : State} (hs : s.crew.Lawful) (g : Nat) (p : Fin 4) :
    (s.creditCrew g).crew.places[p] =
      (s.crew.places[p]).map (CrewRecord.changedAttached (CrewRecord.credit s.tables.crew g)) :=
  updateBoth_places hs (fun r => credit_follows _ r g) (fun r => credit_place _ r g) p

/-- Settles O14: both positions accrue as `accrue_eq` says, and only a detached record can be past its keeping. -/
theorem accountingTickAccruesEachRecord : Obligations.AccountingTickAccruesEachRecord := by
  intro s now p hs
  rw [accrue_places ((crewLaws_iff s).1 hs)]
  cases s.crew.places[p] with
  | none => rfl
  | some r =>
    cases hr : r.place with
    | attached x =>
      rw [Option.map_some, changedAttached_attached hr, Option.filter_some,
        expired_attached _ _ ((accrue_place _ r).trans hr), accrue_eq]
      simp only [hr]
      rfl
    | detached since =>
      rw [Option.map_some, changedAttached_detached hr, Option.filter_some, expired_detached _ _ hr]
      simp only [hr]
      by_cases hold : s.tables.crew.detachedKeep < (now - since).toNat
      · rw [if_pos hold, decide_eq_true hold]; rfl
      · rw [if_neg hold, decide_eq_false hold]; rfl

/-- Settles O36: `credit_eq` for one record, `creditCrew_places` for a wake. -/
theorem restCreditExtendsTheRun : Obligations.RestCreditExtendsTheRun := by
  refine ⟨fun cfg g r => credit_eq cfg r g, fun s g p hs => ?_⟩
  rw [creditCrew_places ((crewLaws_iff s).1 hs)]
  rfl

end Sys2Proof.Machine
end

section
/-! PROOFS. Slots 122 to 125: what the Crew Unit writes into them (R138). -/

namespace Sys2Proof.Machine

/-- The readers of the four writes leave the four slots as written (R139). -/
theorem writeRemaining_slot (s : State) {k} (h : k ∈ remainingSlots) :
    (writeRemaining s).slot k.1 = s.remainingContent k.1 k.2.1 k.2.2 := by
  have hsevere : k.1 ≠ 127 := by
    simp only [remainingSlots, List.mem_cons, List.not_mem_nil, or_false] at h
    rcases h with rfl | rfl | rfl | rfl <;> decide
  rw [← storeRemaining_content s k h]
  exact (writeRemaining_reacted s).slots k.1 hsevere

/-- Minutes of at most a day fit a slot's range (R138). -/
theorem minutesLeft_le {limit : Nat} (h : limit ≤ 86400) (used : Nat) : (minutesLeft limit used).toNat ≤ 1440 := by
  unfold minutesLeft
  rw [BitVec.toNat_ofNat]
  omega

theorem crewConfig_limits {e : CrewConfig} (h : e.ok = true) : e.contLimit ≤ 86400 ∧ e.dayLimit ≤ 86400 := by
  simp only [CrewConfig.ok, Bool.and_eq_true, decide_eq_true_eq] at h
  omega

theorem remainingContent_attached {s : State} {x : CrewPosition} {r : CrewRecord} (h : s.crew.attached x = some r)
    (k : Fin 128) :
    s.remainingContent k x .continuous = ⟨minutesLeft s.tables.crew.contLimit r.continuous, .fresh, false, 0⟩ ∧
    s.remainingContent k x .daily = ⟨minutesLeft s.tables.crew.dayLimit r.daily, .fresh, false, 0⟩ := by
  unfold State.remainingContent
  rw [h]
  exact ⟨rfl, rfl⟩

theorem remainingContent_absent {s : State} {x : CrewPosition} (h : s.crew.attached x = none) (k : Fin 128)
    (c : TallyCounter) : s.remainingContent k x c = ⟨(s.slot k).value, .notAvailable, false, 0⟩ := by
  unfold State.remainingContent
  rw [h]

/-- The two slots of a position, with a record attached there and without (R138). -/
theorem writeRemaining_pair {s : State} (hok : s.tables.crew.ok = true) {x : CrewPosition} {a b : Fin 128}
    (ha : (a, x, TallyCounter.continuous) ∈ remainingSlots) (hb : (b, x, TallyCounter.daily) ∈ remainingSlots) :
    (∀ r, s.crew.attached x = some r →
      ((writeRemaining s).slot a = ⟨minutesLeft s.tables.crew.contLimit r.continuous, .fresh, false, 0⟩ ∧
        (writeRemaining s).slot b = ⟨minutesLeft s.tables.crew.dayLimit r.daily, .fresh, false, 0⟩) ∧
      ((writeRemaining s).slot a).value.toNat ≤ 1440 ∧ ((writeRemaining s).slot b).value.toNat ≤ 1440) ∧
    (s.crew.attached x = none → ∀ k ∈ [a, b], (writeRemaining s).slot k = ⟨(s.slot k).value, .notAvailable, false, 0⟩) := by
  obtain ⟨hcont, hday⟩ := crewConfig_limits hok
  refine ⟨fun r hr => ?_, fun hnone => ?_⟩
  · obtain ⟨hcontinuous, -⟩ := remainingContent_attached hr a
    obtain ⟨-, hdaily⟩ := remainingContent_attached hr b
    rw [writeRemaining_slot s ha, writeRemaining_slot s hb, hcontinuous, hdaily]
    exact ⟨⟨rfl, rfl⟩, minutesLeft_le hcont _, minutesLeft_le hday _⟩
  · rw [List.forall_mem_cons, List.forall_mem_singleton, writeRemaining_slot s ha, writeRemaining_slot s hb]
    exact ⟨remainingContent_absent hnone _ _, remainingContent_absent hnone _ _⟩

/-- Settles O37: `writeRemaining_pair` at each position. -/
theorem remainingTimeSlotsShowTheMinutesLeft : Obligations.RemainingTimeSlotsShowTheMinutesLeft := by
  intro s hok
  obtain ⟨hdriver, hnoDriver⟩ := writeRemaining_pair (s := s) hok (x := .driver) (a := 122) (b := 123) (by decide) (by decide)
  obtain ⟨hcoDriver, hnoCoDriver⟩ :=
    writeRemaining_pair (s := s) hok (x := .coDriver) (a := 124) (b := 125) (by decide) (by decide)
  exact ⟨hdriver, hcoDriver, hnoDriver, hnoCoDriver⟩

end Sys2Proof.Machine
end

section
/-! PROOFS. Where a new record is made: the lowest empty place, else the place of the longest detached record (R131). -/

namespace Sys2Proof.Machine

/-! ### The lowest empty place -/

theorem find?_finRange_some {n : Nat} {test : Fin n → Bool} {p : Fin n} (h : (List.finRange n).find? test = some p) :
    test p = true ∧ ∀ q, test q = true → p ≤ q := by
  obtain ⟨hp, i, hi, heq, hbefore⟩ := List.find?_eq_some_iff_getElem.1 h
  refine ⟨hp, fun q hq => ?_⟩
  by_contra hlt
  have hval : p.val = i := by rw [← heq]; simp
  have hno := hbefore q.val (by omega)
  simp [hq] at hno

section
variable {c : Crew}

theorem emptyPlace_some {p : Fin 4} (h : c.emptyPlace = some p) :
    c.places[p] = none ∧ ∀ q : Fin 4, c.places[q] = none → p ≤ q := by
  obtain ⟨hp, hfirst⟩ := find?_finRange_some h
  exact ⟨Option.isNone_iff_eq_none.1 hp, fun q hq => hfirst q (Option.isNone_iff_eq_none.2 hq)⟩

theorem emptyPlace_none (h : c.emptyPlace = none) (q : Fin 4) : c.places[q] ≠ none := fun hq =>
  List.find?_eq_none.1 h q (List.mem_finRange q) (Option.isNone_iff_eq_none.2 hq)

/-! ### The longest detached record -/

theorem ageAt_eq_some {now : Word32} {p : Fin 4} {a : Nat} : c.ageAt now p = some a ↔
    ∃ r since, c.places[p] = some r ∧ r.place = .detached since ∧ (now - since).toNat = a := by
  unfold Crew.ageAt detachAge
  cases hp : c.places[p] with
  | none => simp
  | some r => cases hr : r.place with
    | attached x => simp [hr]
    | detached since =>
      simp only [hr, Option.some.injEq]
      exact ⟨fun ha => ⟨r, since, rfl, hr, ha⟩, by rintro ⟨y, z, rfl, hz, ha⟩; cases hr.symm.trans hz; exact ha⟩

/-- One turn of the search for the longest detached record: a strictly greater age takes the lead (R131). -/
def leading (age : Fin 4 → Option Nat) (best : Option (Fin 4 × Nat)) (p : Fin 4) : Option (Fin 4 × Nat) :=
  match age p with
  | none => best
  | some a =>
    match best with
    | none => some (p, a)
    | some b => if b.2 < a then some (p, a) else some b

/-- The best of the places of a list: the greatest age, at the lowest place of that age; none if no place has one. -/
def Leads (age : Fin 4 → Option Nat) (l : List (Fin 4)) : Option (Fin 4 × Nat) → Prop
  | none => ∀ q ∈ l, age q = none
  | some (p, a) => p ∈ l ∧ age p = some a ∧ ∀ q ∈ l, ∀ b, age q = some b → b < a ∨ b = a ∧ p ≤ q

section
variable {age : Fin 4 → Option Nat} {l : List (Fin 4)} {p : Fin 4}

theorem leads_takes {a : Nat} (hp : age p = some a) (h : ∀ q ∈ l, ∀ b, age q = some b → b < a) :
    Leads age (l ++ [p]) (some (p, a)) := by
  refine ⟨by simp, hp, List.forall_mem_append.2 ⟨fun q hq b hb => .inl (h q hq b hb), ?_⟩⟩
  refine List.forall_mem_singleton.2 fun b hb => ?_
  cases hp.symm.trans hb
  exact .inr ⟨rfl, le_rfl⟩

theorem leads_keeps {best : Fin 4 × Nat} (h : Leads age l (some best)) (hlast : ∀ q ∈ l, q < p)
    (hp : ∀ a, age p = some a → a ≤ best.2) : Leads age (l ++ [p]) (some best) := by
  obtain ⟨hmem, hage, hbest⟩ := h
  refine ⟨List.mem_append_left _ hmem, hage, List.forall_mem_append.2 ⟨hbest, ?_⟩⟩
  exact List.forall_mem_singleton.2 fun b hb => (hp b hb).lt_or_eq.imp_right fun heq => ⟨heq, (hlast _ hmem).le⟩

theorem leads_leading {best : Option (Fin 4 × Nat)} (h : Leads age l best) (hlast : ∀ q ∈ l, q < p) :
    Leads age (l ++ [p]) (leading age best p) := by
  unfold leading
  cases hp : age p with
  | none =>
    cases best with
    | none => exact List.forall_mem_append.2 ⟨h, List.forall_mem_singleton.2 hp⟩
    | some best => exact leads_keeps h hlast fun a ha => by rw [hp] at ha; cases ha
  | some a =>
    cases best with
    | none => exact leads_takes hp fun q hq b hb => by rw [h q hq] at hb; cases hb
    | some best =>
      dsimp only
      split
      · next hlt =>
        obtain ⟨-, -, hbest⟩ := h
        exact leads_takes hp fun q hq b hb => by rcases hbest q hq b hb with hb | hb <;> omega
      · next hge => exact leads_keeps h hlast fun b hb => by cases hp.symm.trans hb; exact Nat.le_of_not_lt hge

end

theorem leads_foldl (age : Fin 4 → Option Nat) {l : List (Fin 4)} (h : l.Pairwise (· < ·)) :
    Leads age l (l.foldl (leading age) none) := by
  induction l using List.reverseRecOn with
  | nil => exact fun q hq => nomatch hq
  | append_singleton l p ih =>
    rw [List.pairwise_append] at h
    rw [List.foldl_concat]
    exact leads_leading (ih h.1) fun q hq => h.2.2 q hq p (List.mem_singleton_self p)

theorem oldestDetached_eq (c : Crew) (now : Word32) :
    c.oldestDetached now = ((List.finRange 4).foldl (leading (c.ageAt now)) none).map Prod.fst := rfl

theorem oldestDetached_some {now : Word32} {p : Fin 4} (h : c.oldestDetached now = some p) :
    ∃ a, c.ageAt now p = some a ∧ ∀ q b, c.ageAt now q = some b → b < a ∨ b = a ∧ p ≤ q := by
  have hleads := leads_foldl (c.ageAt now) (List.pairwise_lt_finRange 4)
  rw [oldestDetached_eq, Option.map_eq_some_iff] at h
  obtain ⟨⟨p, a⟩, hbest, rfl⟩ := h
  rw [hbest] at hleads
  obtain ⟨-, hage, hb⟩ := hleads
  exact ⟨a, hage, fun q => hb q (List.mem_finRange q)⟩

theorem oldestDetached_none {now : Word32} (h : c.oldestDetached now = none) (q : Fin 4) : c.ageAt now q = none := by
  have hleads := leads_foldl (c.ageAt now) (List.pairwise_lt_finRange 4)
  rw [oldestDetached_eq, Option.map_eq_none_iff] at h
  rw [h] at hleads
  exact hleads q (List.mem_finRange q)

end

end Sys2Proof.Machine
end

section
/-! PROOFS. Token updates: who stands at a position, the detachment, and the seat that a token's record takes (R121, R130 to R132). -/

namespace Sys2Proof.Machine

/-! ### The token that stands at a position -/

section
variable {c : Crew} {x : CrewPosition}

theorem tokenAt_attached (hc : c.Lawful) {p : Fin 4} {r : CrewRecord} (hp : c.places[p] = some r)
    (hr : r.place = .attached x) : c.tokenAt x = some r.token := by
  have hfirst : c.attachedPlace x = some p :=
    attachedPlace_first hp hr fun q y hlt hq hy => (hc.apart q p y r (Fin.ne_of_lt hlt) hq hp).place x hy hr
  exact congrArg (Option.map CrewRecord.token) (attached_place hfirst hp)

theorem tokenAt_absent (h : ∀ (p : Fin 4) (r : CrewRecord), c.places[p] = some r → r.place ≠ .attached x) :
    c.tokenAt x = none := congrArg (Option.map CrewRecord.token) (attached_none_of h)

theorem tokenAt_some {t : Word32} (h : c.tokenAt x = some t) :
    ∃ (p : Fin 4) (r : CrewRecord), c.places[p] = some r ∧ r.place = .attached x ∧ r.token = t := by
  obtain ⟨r, hr, ht⟩ := Option.map_eq_some_iff.1 h
  obtain ⟨p, hp, hplace⟩ := attached_some hr
  exact ⟨p, r, hp, hplace, ht⟩

/-! ### Detachment (R132) -/

variable (hc : c.Lawful) (now : Word32)
include hc

theorem detach_places (x : CrewPosition) (p : Fin 4) :
    (c.detach x now).places[p] = (c.places[p]).map (CrewRecord.changedAt x (CrewRecord.detachedAt now)) :=
  updateAttached_places hc x (CrewRecord.detachedAt now) p

theorem detach_lawful (x : CrewPosition) : (c.detach x now).Lawful :=
  hc.updateAttached (fun r => detachedAt_follows r now) x

/-- After the detachment a position is free. -/
theorem detach_free (p : Fin 4) (r : CrewRecord) (hp : (c.detach x now).places[p] = some r) : r.place ≠ .attached x := by
  rw [detach_places hc, Option.map_eq_some_iff] at hp
  obtain ⟨y, -, rfl⟩ := hp
  unfold CrewRecord.changedAt
  split
  · exact fun h => nomatch h
  · assumption

theorem detach_token {p : Fin 4} {r : CrewRecord} (hp : (c.detach x now).places[p] = some r) :
    ∃ y, c.places[p] = some y ∧ r.token = y.token := by
  rw [detach_places hc, Option.map_eq_some_iff] at hp
  obtain ⟨y, hy, rfl⟩ := hp
  exact ⟨y, hy, (changedAt_follows (fun r => detachedAt_follows r now) y).token⟩

theorem detach_none {p : Fin 4} : (c.detach x now).places[p] = none ↔ c.places[p] = none := by
  rw [detach_places hc, Option.map_eq_none_iff]

end

/-! ### The seat (R130, R131) -/

theorem newPlace_some {c : Crew} {now : Word32} {p : Fin 4} (h : c.newPlace now = some p) :
    c.emptyPlace = some p ∨ c.emptyPlace = none ∧ c.oldestDetached now = some p := by
  unfold Crew.newPlace at h
  cases hempty : c.emptyPlace with
  | none => rw [hempty] at h; exact .inr ⟨rfl, h⟩
  | some q => rw [hempty] at h; exact .inl h

theorem newPlace_none {c : Crew} {now : Word32} (h : c.newPlace now = none) :
    c.emptyPlace = none ∧ c.oldestDetached now = none := by
  unfold Crew.newPlace at h
  cases hempty : c.emptyPlace with
  | none => rw [hempty] at h; exact ⟨rfl, h⟩
  | some q => rw [hempty] at h; cases h

section
variable {c : Crew} {x : CrewPosition} (hc : c.Lawful) (now : Word32)
include hc


/-- A record with a token that no other place holds is seated where the position has been freed (R121). -/
theorem seated_lawful {p : Fin 4} {r : CrewRecord} (hr : r.Lawful) (hplace : r.place = .attached x)
    (htoken : ∀ (q : Fin 4) y, q ≠ p → c.places[q] = some y → y.token ≠ r.token) :
    ((c.detach x now).setPlace p (some r)).Lawful := by
  refine (detach_lawful hc now x).setPlace hr fun q y hne hy => ⟨?_, fun z hz hyz => ?_⟩
  · obtain ⟨w, hw, heq⟩ := detach_token hc now hy
    rw [heq]
    exact (htoken q w hne hw).symm
  · cases hplace.symm.trans hz
    exact detach_free hc now q y hy hyz

theorem seated_other {p q : Fin 4} (h : q ≠ p) (r : Option CrewRecord) : ((c.detach x now).setPlace p r).places[q] =
    (c.places[q]).map (CrewRecord.changedAt x (CrewRecord.detachedAt now)) := by
  rw [setPlace_place, if_neg h.symm, detach_places hc]

/-- At most one record is left attached, so a place is found (R121). -/
theorem newPlace_exists (x : CrewPosition) : ∃ p, (c.detach x now).newPlace now = some p := by
  refine Option.ne_none_iff_exists'.1 fun hnone => ?_
  obtain ⟨hempty, hold⟩ := newPlace_none hnone
  have hattached : ∀ q : Fin 4, ∃ r, (c.detach x now).places[q] = some r ∧ r.place = .attached x.other := fun q => by
    obtain ⟨r, hq⟩ := Option.ne_none_iff_exists'.1 (emptyPlace_none hempty q)
    refine ⟨r, hq, ?_⟩
    cases hr : r.place with
    | attached y =>
      have hy : y ≠ x := fun heq => detach_free hc now q r hq (heq ▸ hr)
      cases x <;> cases y <;> simp_all [CrewPosition.other]
    | detached since =>
      have hage := (ageAt_eq_some (now := now)).2 ⟨r, since, hq, hr, rfl⟩
      rw [oldestDetached_none hold q] at hage
      cases hage
  obtain ⟨r₀, h₀, hr₀⟩ := hattached 0
  obtain ⟨r₁, h₁, hr₁⟩ := hattached 1
  exact ((detach_lawful hc now x).apart 0 1 r₀ r₁ (by decide) h₀ h₁).place _ hr₀ hr₁

/-- The place of a new record: the lowest empty one; in a full table the longest detached record's, the one just detached among
them (R131). -/
theorem newPlace_detached {p : Fin 4} (h : (c.detach x now).newPlace now = some p) :
    ((∃ q : Fin 4, c.places[q] = none) → c.places[p] = none ∧ ∀ q : Fin 4, c.places[q] = none → p ≤ q) ∧
    ((∀ q : Fin 4, c.places[q] ≠ none) → ∃ r since, c.places[p] = some r ∧
      (r.changedAt x (CrewRecord.detachedAt now)).place = .detached since ∧
      ∀ (q : Fin 4) (y : CrewRecord) (z : Word32), c.places[q] = some y →
        (y.changedAt x (CrewRecord.detachedAt now)).place = .detached z →
        (now - z).toNat < (now - since).toNat ∨ ((now - z).toNat = (now - since).toNat ∧ p ≤ q)) := by
  rcases newPlace_some h with hempty | ⟨hfull, hold⟩
  · obtain ⟨hp, hfirst⟩ := emptyPlace_some hempty
    rw [detach_none hc] at hp
    exact ⟨fun _ => ⟨hp, fun q hq => hfirst q ((detach_none hc now).2 hq)⟩, fun hno => absurd hp (hno p)⟩
  · refine ⟨fun ⟨q, hq⟩ => absurd ((detach_none hc now).2 hq) (emptyPlace_none hfull q), fun _ => ?_⟩
    obtain ⟨a, hage, hbest⟩ := oldestDetached_some hold
    obtain ⟨r, since, hp, hr, rfl⟩ := ageAt_eq_some.1 hage
    rw [detach_places hc, Option.map_eq_some_iff] at hp
    obtain ⟨r, hp, rfl⟩ := hp
    refine ⟨r, since, hp, hr, fun q y z hq hy => hbest q _ (ageAt_eq_some.2 ⟨_, z, ?_, hy, rfl⟩)⟩
    rw [detach_places hc, hq, Option.map_some]

end

/-- A known record keeps its token and its laws, and is attached where the update names (R130, R133). -/
theorem comeTo_spec (cfg : CrewConfig) (now : Word32) (x : CrewPosition) (r : CrewRecord) :
    (r.comeTo cfg now x).token = r.token ∧ (r.comeTo cfg now x).place = .attached x ∧
      (r.Lawful → (r.comeTo cfg now x).Lawful) := by
  have hmoved : r.Lawful → ({ r with place := .attached x } : CrewRecord).Lawful := fun h => ⟨h.token, h.order, h.top⟩
  unfold CrewRecord.comeTo
  split
  · exact ⟨rfl, rfl, hmoved⟩
  · have hfollows := credit_follows cfg { r with place := .attached x } (detachAge now ‹_›)
    exact ⟨hfollows.token, credit_place .., hfollows.lawful ∘ hmoved⟩

/-- A token with a record is seated in that record's place (R130). -/
theorem seat_known {c : Crew} (hc : c.Lawful) {p : Fin 4} {r : CrewRecord} (hp : c.places[p] = some r) (cfg : CrewConfig)
    (now : Word32) (x : CrewPosition) :
    c.seat cfg now x r.token = (c.detach x now).setPlace p (some (r.comeTo cfg now x)) := by
  unfold Crew.seat
  cases hholder : c.holder r.token with
  | none => exact absurd rfl (holder_none hholder hp)
  | some q =>
    obtain ⟨y, hq, hy⟩ := holder_some hholder
    have heq : q = p := by_contra fun hne => (hc.apart q p y r hne hq hp).token hy
    subst heq
    dsimp only
    rw [hp, Option.map_some]

/-- A token without a record is seated where a new record is made (R131). -/
theorem seat_new {c : Crew} (hc : c.Lawful) {t : Word32}
    (ht : ∀ (p : Fin 4) (r : CrewRecord), c.places[p] = some r → r.token ≠ t) (cfg : CrewConfig) (now : Word32)
    (x : CrewPosition) : ∃ p, (c.detach x now).newPlace now = some p ∧
      c.seat cfg now x t = (c.detach x now).setPlace p (some (.fresh t x)) := by
  obtain ⟨p, hp⟩ := newPlace_exists hc now x
  refine ⟨p, hp, ?_⟩
  unfold Crew.seat Crew.seatNew
  cases hholder : c.holder t with
  | none => dsimp only; rw [hp]
  | some q =>
    obtain ⟨r, hq, hr⟩ := holder_some hholder
    exact absurd hr (ht q r hq)

theorem seat_lawful {c : Crew} (hc : c.Lawful) {t : Word32} (ht : t ≠ 0) (cfg : CrewConfig) (now : Word32)
    (x : CrewPosition) : (c.seat cfg now x t).Lawful := by
  by_cases hknown : ∃ (p : Fin 4) (r : CrewRecord), c.places[p] = some r ∧ r.token = t
  · obtain ⟨p, r, hp, rfl⟩ := hknown
    obtain ⟨htoken, hplace, hlawful⟩ := comeTo_spec cfg now x r
    rw [seat_known hc hp]
    refine seated_lawful hc now (hlawful (hc.record p r hp)) hplace fun q y hne hq => ?_
    rw [htoken]
    exact (hc.apart q p y r hne hq hp).token
  · have hno : ∀ (p : Fin 4) (r : CrewRecord), c.places[p] = some r → r.token ≠ t := fun p r hp hr => hknown ⟨p, r, hp, hr⟩
    obtain ⟨p, -, hseat⟩ := seat_new hc hno cfg now x
    rw [hseat]
    exact seated_lawful hc now ⟨ht, le_rfl, Nat.zero_le _⟩ rfl fun q y _ hq => hno q y hq

/-! ### The update (R130) -/

/-- A token update keeps the laws of the table (R121). -/
theorem tokenUpdate_lawful {c d : Crew} (hc : c.Lawful) {cfg : CrewConfig} {now : Word32} {x : CrewPosition} {t : Word32}
    (h : c.tokenUpdate cfg now x t = some d) : d.Lawful := by
  unfold Crew.tokenUpdate at h
  split at h
  · cases h
  · split at h
    · split at h <;> cases h
      exact detach_lawful hc now x
    · next ht => cases h; exact seat_lawful hc ht cfg now x

/-- Settles O34: the update by the token that stands at the position, and the seat by whether a record holds the token. -/
theorem tokenUpdatesMoveTheCards : Obligations.TokenUpdatesMoveTheCards := by
  intro s now x t hs
  have hc := (crewLaws_iff s).1 hs
  refine ⟨?_, fun ht habsent => ?_, ?_, fun ht hother => ⟨s.crew.seat s.tables.crew now x t, ?_, ?_, ?_, ?_⟩⟩
  · rintro ⟨p, r, hp, hr, rfl⟩
    exact if_pos (tokenAt_attached hc hp hr)
  · have hnone := tokenAt_absent habsent
    unfold Crew.tokenUpdate
    rw [hnone, if_neg (by simp), if_pos ht, if_pos rfl]
  · rintro rfl ⟨p, r, hp, hr⟩
    have hstands := tokenAt_attached hc hp hr
    refine ⟨s.crew.detach x now, ?_, detach_places hc now x⟩
    unfold Crew.tokenUpdate
    rw [hstands, if_neg (by simpa using (hc.record p r hp).token), if_pos rfl, if_neg (by simp)]
  · have hno : s.crew.tokenAt x ≠ some t := fun h => by
      obtain ⟨p, r, hp, hr, htoken⟩ := tokenAt_some h
      exact hother p r hp hr htoken
    unfold Crew.tokenUpdate
    rw [if_neg hno, if_neg ht]
  · exact (crewLaws_iff _).2 (seat_lawful hc ht s.tables.crew now x)
  · rintro p r hp rfl
    rw [seat_known hc hp]
    refine ⟨fun q hne => seated_other hc now hne _, ?_⟩
    rw [setPlace_place, if_pos rfl]
    rfl
  · intro hno
    obtain ⟨p, hp, hseat⟩ := seat_new hc hno s.tables.crew now x
    rw [hseat]
    refine ⟨p, fun q hne => seated_other hc now hne _, ?_, newPlace_detached hc now hp⟩
    rw [setPlace_place, if_pos rfl]
    rfl

end Sys2Proof.Machine
end

section
/-! PROOFS. What the operations keep of the Crew Table's laws (R121): events, the Crew Unit's own operations, and the operations of the
other blocks, which leave the records as they stand. -/

namespace Sys2Proof.Machine

/-! ### The laws from one state to the next -/

/-- An operation keeps the laws of the Crew Table. -/
def CrewKept (s t : State) : Prop := s.crew.Lawful → t.crew.Lawful

theorem CrewKept.refl (s : State) : CrewKept s s := id

theorem CrewKept.trans {s t u : State} (h : CrewKept s t) (g : CrewKept t u) : CrewKept s u := g ∘ h

theorem crewKept_of_places {s t : State} (h : t.crew.places = s.crew.places) : CrewKept s t := fun hs => hs.of_places h

/-- An operation followed by an update that leaves the records. -/
theorem CrewKept.same {s t u : State} (h : CrewKept s t) (hu : u.crew = t.crew) : CrewKept s u :=
  h.trans (crewKept_of_places (by rw [hu]))

/-- An operation after an update that leaves the records. -/
theorem CrewKept.after {s t u : State} (h : CrewKept u t) (hu : u.crew = s.crew) : CrewKept s t :=
  .trans (crewKept_of_places (by rw [hu])) h

theorem Reacted.crewKept {s t : State} (h : Reacted s t) : CrewKept s t := crewKept_of_places (by rw [h.crew])

theorem Presented.crewKept {s t : State} (h : Presented s t) : CrewKept s t := h.reacted.crewKept

theorem crewKept_foldl {α : Type} {f : State → α → State} (hf : ∀ s a, CrewKept s (f s a)) (l : List α) (s : State) :
    CrewKept s (l.foldl f s) := by
  induction l generalizing s with
  | nil => exact .refl s
  | cons a l ih => exact (hf s a).trans (ih _)

/-- The record at a position changes. -/
theorem crewKept_updateAttached (s : State) (x : CrewPosition) {f : CrewRecord → CrewRecord}
    (hf : ∀ r : CrewRecord, r.Follows (f r)) : CrewKept s (s.setCrew (s.crew.updateAttached x f)) :=
  fun hs => hs.updateAttached hf x

/-- An event of a slot reaches the records by derived activities, token updates and tallies alone (R122, R130, R137). -/
theorem crewKept_events : ClosedEvents CrewKept where
  refl := .refl
  trans := .trans
  egress _ _ _ _ := crewKept_of_places rfl
  record _ _ _ _ _ := crewKept_of_places rfl
  choices _ _ := crewKept_of_places rfl
  severe _ := crewKept_of_places rfl
  target _ _ := crewKept_of_places rfl
  evaluate s i _ := (presented_evaluateTelltale s i).crewKept
  seen _ _ := crewKept_of_places rfl
  press s := (presented_press s).crewKept
  activity s x := crewKept_updateAttached s x fun r => setActivity_follows _ r _
  token _ _ _ _ h := fun hs => tokenUpdate_lawful hs h
  tally s x k m := crewKept_updateAttached s x fun r => tally_follows _ r k (tallySeconds_le m)
  utc _ _ := crewKept_of_places rfl
  selection _ _ := crewKept_of_places rfl
  slot _ _ _ _ _ := crewKept_of_places rfl

section
variable (s : State)

theorem raise_crewKept (c : FaultClass) (d : FaultDetail) : CrewKept s (raise c d s) := crewKept_events.raise c d s

theorem offer_crewKept (r : EgressRecord) : CrewKept s (offer r s) := crewKept_events.offer r s

theorem reply_crewKept (code : Byte) (tag : Word16) (r : ReplyStatus) (data : List Byte) :
    CrewKept s (reply code tag r data s) := offer_crewKept s _

theorem refuse_crewKept (code : Byte) (tag : Word16) (r : ReplyStatus) : CrewKept s (refuse code tag r s) :=
  (raise_crewKept s _ _).trans (reply_crewKept _ code tag r [])

theorem decodedEvent_crewKept (c : SlotChange) (k : Fin 120) : CrewKept s (decodedEvent c k s) :=
  crewKept_events.decodedEvent c k s

theorem writeSelection_crewKept : CrewKept s (writeSelection s) := crewKept_events.writeSelection s

theorem publishSevere_crewKept : CrewKept s (publishSevere s) := crewKept_events.publishSevere s

theorem whole_crewKept {f : State → Change} (hf : ∀ s, Presented s (f s).state) : CrewKept s (whole f s) :=
  (reacted_whole hf s).crewKept

/-! ### The Crew Unit's own operations (R125, R134, R144, R145) -/

theorem accrue_lawful {c : Crew} (hc : c.Lawful) (cfg : CrewConfig) (now : Word32) : (c.accrue cfg now).Lawful :=
  ((hc.updateAttached (accrue_follows cfg) .driver).updateAttached (accrue_follows cfg) .coDriver).removeExpired cfg now

theorem creditCrew_crewKept (g : Nat) : CrewKept s (s.creditCrew g) := fun hs =>
  (hs.updateAttached (credit_follows _ · g) .driver).updateAttached (credit_follows _ · g) .coDriver

theorem writeRemaining_crewKept : CrewKept s (writeRemaining s) := crewKept_events.writeRemaining s

theorem wakeCredit_crewKept : CrewKept s (wakeCredit s) := (creditCrew_crewKept s _).trans (writeRemaining_crewKept _)

theorem advanceSnapshot_crewKept : CrewKept s (advanceSnapshot s) := by
  have hcounter : ∀ (u : State) n, CrewKept u (u.setSnapshotCounter n) := fun _ _ => crewKept_of_places rfl
  unfold advanceSnapshot
  dsimp only
  split
  · exact hcounter s 0
  · split
    · exact (offer_crewKept s s.snapshot).trans (hcounter _ 0)
    · exact hcounter s _

theorem accountingTick_crewKept : CrewKept s (accountingTick s) := by
  have haccrued : CrewKept s (s.setCrew (s.crew.accrue s.tables.crew s.time.mono)) := fun hs => accrue_lawful hs _ _
  exact (haccrued.trans (writeRemaining_crewKept _)).trans (advanceSnapshot_crewKept _)

theorem resetCrewSection_crewKept : CrewKept s (resetCrewSection s) := by
  have hemptied : CrewKept s (s.setCrew { places := Vector.replicate 4 none, snapshotCounter := 0 }) := fun _ =>
    lawful_empty fun p => Vector.getElem_replicate p.isLt
  rw [resetCrewSection_eq]
  exact (hemptied.trans (writeRemaining_crewKept s.crewEmptied)).trans (offer_crewKept _ _)

theorem cold_crewKept (keepAlive held raw : Bool) (n : Nat) (queue : List Instr) :
    CrewKept s (State.cold keepAlive held raw n queue) := fun _ => lawful_empty fun p => Vector.getElem_replicate p.isLt

/-! ### Moves of the part (R134, R144, R152 to R162) -/

theorem WarmStarted.crewKept {s t : State} (h : WarmStarted s t) : CrewKept s t := fun hs =>
  hs.follows fun p x hx => by
    rw [h.crew, Option.map_eq_some_iff] at hx
    obtain ⟨r, hr, rfl⟩ := hx
    exact ⟨r, hr, warm_follows _ r⟩

theorem warmStart_crewKept : CrewKept s s.warmStart := by
  refine .trans ?_ (warmStart_spec s).crewKept
  split
  · exact creditCrew_crewKept s _
  · exact .refl s

theorem conclude_crewKept : CrewKept s (conclude s) := by
  have h := conclude_spec s
  unfold Concluded at h
  split at h
  · rw [h]; exact crewKept_of_places rfl
  · split at h
    · exact crewKept_of_places h.crew
    · rw [h]; exact .refl s

theorem enterByLevel_crewKept : CrewKept s (enterByLevel s) := by
  have h := enterByLevel_entered s
  unfold EnteredByLevel at h
  split at h
  · exact h.1.crewKept.after rfl
  · exact h.1.crewKept.after rfl

theorem writeIgnition_crewKept : CrewKept s (writeIgnition s) := (writeIgnition_reacted s).crewKept.after rfl

theorem wakingEntry_crewKept : CrewKept s (wakingEntry s) := by
  have hcredit : CrewKept s (wakeCredit (s.setPart .waking)) := (wakeCredit_crewKept _).after (State.setPart_crew s _)
  exact (hcredit.trans (writeIgnition_crewKept _)).same (State.startSettle_crew _)

theorem startPart_crewKept : CrewKept s (startPart s) := by
  unfold startPart
  split
  · exact (enterByLevel_crewKept _).after rfl
  · exact .refl s

theorem takeIgnitionOn_crewKept : CrewKept s (takeIgnitionOn s) := by
  have hhoming : CrewKept s (homingEntry (writeIgnition s)) :=
    (writeIgnition_crewKept s).trans ((homingEntry_entered _).1.crewKept.after rfl)
  unfold takeIgnitionOn
  split
  · exact .refl s
  · split
    · exact wakingEntry_crewKept s
    · exact hhoming.trans (conclude_crewKept _)
    all_goals exact writeIgnition_crewKept s

theorem takeIgnitionOff_crewKept : CrewKept s (takeIgnitionOff s) := by
  have hstandby : CrewKept s (standbyEntry (writeIgnition s)) :=
    (writeIgnition_crewKept s).trans ((standbyEntry_entered _).1.crewKept.after rfl)
  unfold takeIgnitionOff
  split
  · exact .refl s
  · cases s.time.part with
    | homing | run => exact hstandby.trans (conclude_crewKept _)
    | unconfigured | waking | standby => exact writeIgnition_crewKept s
    | sleep => exact .refl s

/-! ### Slots and frames -/

theorem goStale_crewKept (k : Fin 120) : CrewKept s (goStale k s) := by
  have hstale : CrewKept s (decodedEvent .quality k ((s.setQuality k .stale).setSlotTimers k none none)) :=
    (decodedEvent_crewKept _ _ k).after rfl
  unfold goStale
  dsimp only
  split
  · exact hstale.trans (raise_crewKept _ _ _)
  · exact hstale

theorem goHeld_crewKept (k : Fin 120) : CrewKept s (goHeld k s) := by
  unfold goHeld
  dsimp only
  split
  · exact goStale_crewKept s k
  · exact (decodedEvent_crewKept _ _ k).after rfl

theorem runMapEntry_crewKept (f : Frame) (m : Fin 192) : CrewKept s (runMapEntry f m s) := by
  unfold runMapEntry codeUpdate valueUpdate
  dsimp only
  split
  · split
    · exact raise_crewKept s _ _
    · split <;> exact (decodedEvent_crewKept _ _ _).after rfl
  · exact .refl s

theorem runMapRange_crewKept (f : Frame) (first count : Nat) : CrewKept s (runMapRange f first count s) := by
  refine crewKept_foldl (fun s m => ?_) _ s
  split
  · exact runMapEntry_crewKept s f m
  · exact .refl s

theorem forwardFrame_crewKept (i : Fin 96) (f : Frame) : CrewKept s (forwardFrame i f s) := by
  unfold forwardFrame
  split
  · split
    · exact .refl s
    · exact offer_crewKept s _
    · split
      · exact .refl s
      · split
        · exact crewKept_of_places rfl
        · exact offer_crewKept s _
  · exact .refl s

/-! ### Speed, gauges, lamps and the chime -/

theorem sampleSpeed_crewKept : CrewKept s (sampleSpeed s) := by
  unfold sampleSpeed
  dsimp only
  split
  · split
    · split
      · exact (raise_crewKept _ _ _).after rfl
      · exact crewKept_of_places rfl
    · exact crewKept_of_places rfl
  · exact crewKept_of_places rfl

theorem plausibilityTicked_crewKept : CrewKept s (plausibilityTicked s) :=
  ((sampleSpeed_crewKept _).after (State.setPlausibility_crew s _)).trans (writeSelection_crewKept _)

theorem reportChanges_crewKept (before : State) : CrewKept s (s.reportChanges before) := by
  unfold State.reportChanges
  split <;> exact crewKept_of_places rfl

theorem ChannelsWorked.crewKept {s t : State} (h : ChannelsWorked s t) : CrewKept s t :=
  crewKept_of_places (by rw [h.rest.crew])

theorem filterTicked_crewKept : CrewKept s (filterTicked s) := by
  have hworked : CrewKept s (tickChannels (s.setFilterTick (some Config.filterInterval))) :=
    (tickChannels_worked _).crewKept.after (State.setFilterTick_crew s _)
  exact (hworked.trans (reportChanges_crewKept _ s)).trans (conclude_crewKept _)

theorem stallReported_crewKept (ch : Fin 6) : CrewKept s (stallReported ch s) := by
  have htaken : CrewKept s (takeStall ch s) := by
    unfold takeStall
    split
    · exact crewKept_of_places rfl
    · exact (raise_crewKept s _ _).same rfl
    · exact (raise_crewKept s _ _).same rfl
    all_goals exact .refl s
  unfold stallReported
  split
  · exact htaken.same rfl
  · exact .refl s

theorem lampFails_crewKept (ch : Fin 32) (l : LampState) (c : FaultClass) : CrewKept s (lampFails ch l c s) :=
  ((raise_crewKept (s.setLamp ch l) c _).after rfl).trans (reacted_backupOffers ch _).crewKept

theorem endBulbCheck_crewKept : CrewKept s s.endBulbCheck := (presented_recomputeLamps (s.setBulbCheck none)).crewKept.after rfl

theorem chimeOnEnds_crewKept : CrewKept s s.chimeOnEnds := by
  unfold State.chimeOnEnds
  split <;> exact crewKept_of_places rfl

theorem chimeOffEnds_crewKept : CrewKept s s.chimeOffEnds := by
  unfold State.chimeOffEnds
  split
  · exact (presented_completeBurst s _).crewKept
  all_goals exact .refl s

theorem chimeFails_crewKept : CrewKept s (chimeFails s) := by
  unfold chimeFails
  split
  · exact (raise_crewKept (s.setLoad .open) _ _).after rfl
  all_goals exact .refl s

theorem chimeRecovers_crewKept : CrewKept s s.chimeRecovers := by
  unfold State.chimeRecovers
  split <;> exact crewKept_of_places rfl

end

end Sys2Proof.Machine
end

section
/-! PROOFS. Every step keeps the laws of the Crew Table (R121). -/

namespace Sys2Proof.Machine

/-! ### Section resets, cleared faults and entry writes -/

section
variable (s : State)

theorem resetPresentation_crewKept : CrewKept s (resetPresentation s) := by
  have hcleared : CrewKept s s.presentationCleared := crewKept_of_places rfl
  unfold resetPresentation
  split
  · exact hcleared
  · exact hcleared.trans (offer_crewKept _ _)

theorem resetSection_crewKept (x : Section) : CrewKept s (resetSection x s) := by
  cases x with
  | intake => exact crewKept_of_places (by simp only [resetSection, resetIntake_eq])
  | signals => exact crewKept_foldl (fun s k => (decodedEvent_crewKept (s.setUnknown k 65535) .quality k).after rfl) _ s
  | speed => exact (writeSelection_crewKept s.relearn).after rfl
  | gauges => exact (reportChanges_crewKept _ s).after rfl
  | telltales => exact (reacted_resetTelltales s).crewKept
  | presentation => exact resetPresentation_crewKept s
  | crew => exact resetCrewSection_crewKept s
  | faults => exact (publishSevere_crewKept { s with faults := .cold }).after rfl

theorem requestReset_crewKept (tag : Word16) (x : Section) : CrewKept s (requestReset tag x s) :=
  (resetSection_crewKept s x).trans (reply_crewKept _ 7 tag .ok [])

theorem clearFaultClasses_crewKept (classes : Word16) (service : Bool) : CrewKept s (clearFaultClasses classes service s) := by
  unfold clearFaultClasses
  dsimp only
  split
  · exact crewKept_of_places rfl
  · exact (publishSevere_crewKept _).after rfl

theorem writeSystemConfig_crewKept (e : SystemConfig) (w : Written) : CrewKept s (writeSystemConfig e w s) := by
  have hset : CrewKept s (if w.covers 5 then (s.setTables { s.tables with system := e }).resetDetector
      else s.setTables { s.tables with system := e }) := by split <;> exact crewKept_of_places rfl
  unfold writeSystemConfig
  dsimp only
  split
  · exact (hset.same (State.setRing_crew _ _ _)).trans (writeSelection_crewKept _)
  · exact hset

end

theorem accept_crewKept {α : Type} {o : Option α} {ok : α → Bool} {write : α → State} {s u : State}
    (h : accept o ok write = .ok u) (hw : ∀ e, CrewKept s (write e)) : CrewKept s u := by
  unfold accept at h
  split at h
  · cases h
  · split at h <;> cases h
    exact hw _

theorem acceptCurve_crewKept {o : Option Curve} {write : Curve → State} {s u : State} (h : acceptCurve o write = .ok u)
    (hw : ∀ e, CrewKept s (write e)) : CrewKept s u := by
  unfold acceptCurve at h
  split at h
  · cases h
  · split at h
    · split at h <;> cases h
      exact hw _
    · cases h

/-- A write of an entry keeps the laws: Crew Config leaves the records as they stand (R119), and so do the others but for the events
they make. -/
theorem writeEntry_crewKept {t : TableId} {k : Nat} {l : List Byte} {w : Written} {s u : State}
    (h : writeEntry t k l w s = .ok u) : CrewKept s u := by
  unfold writeEntry at h
  cases t with
  | intake => dsimp only at h; split at h; exacts [(nomatch h), accept_crewKept h fun _ => crewKept_of_places rfl]
  | map => dsimp only at h; split at h; exacts [(nomatch h), accept_crewKept h fun _ => crewKept_of_places rfl]
  | slotConfig =>
    dsimp only at h; split at h
    exacts [(nomatch h), accept_crewKept h fun _ => (decodedEvent_crewKept _ .quality _).after rfl]
  | curve => dsimp only at h; split at h; exacts [(nomatch h), acceptCurve_crewKept h fun _ => crewKept_of_places rfl]
  | gauge => dsimp only at h; split at h; exacts [(nomatch h), accept_crewKept h fun _ => crewKept_of_places rfl]
  | telltale =>
    dsimp only at h; split at h
    exacts [(nomatch h), accept_crewKept h fun _ => (reacted_telltaleWritten _ _ _).crewKept.after rfl]
  | chime =>
    dsimp only at h; split at h
    exacts [(nomatch h), accept_crewKept h fun _ => (presented_choose _).crewKept.after rfl]
  | crewConfig =>
    dsimp only at h; split at h
    exacts [(nomatch h), accept_crewKept h fun _ => (writeRemaining_crewKept _).after rfl]
  | systemConfig =>
    dsimp only at h; split at h
    exacts [(nomatch h), accept_crewKept h fun e => writeSystemConfig_crewKept s e w]
  | faultPolicy =>
    dsimp only at h; split at h
    exacts [(nomatch h), accept_crewKept h fun _ => (publishSevere_crewKept _).after rfl]

theorem EntryWritten.crewKept {s u : State} (h : EntryWritten s u) : CrewKept s u := by
  obtain ⟨t, k, l, w, h⟩ := h
  exact writeEntry_crewKept h

/-! ### Requests, frames and transfers -/

section
variable (s : State)

theorem answerWrite_crewKept (code : Byte) (tag : Word16) {r : Except ReplyStatus State}
    (hr : ∀ u, r = .ok u → EntryWritten s u) : CrewKept s (answerWrite code tag r s) := by
  cases r with
  | error e => exact refuse_crewKept s code tag e
  | ok u => exact (hr u rfl).crewKept.trans (reply_crewKept u code tag .ok [])

theorem answerRead_crewKept (code : Byte) (tag : Word16) (r : Except ReplyStatus (List Byte)) :
    CrewKept s (answerRead code tag r s) := by
  cases r with
  | error e => exact refuse_crewKept s code tag e
  | ok l => exact reply_crewKept s code tag .ok l

theorem requestLoad_crewKept (tag : Word16) (table index : Byte) (entry : List Byte) :
    CrewKept s (requestLoad tag table index entry s) := answerWrite_crewKept s 1 tag fun _ => loadEntry_written

theorem requestSetField_crewKept (tag : Word16) (table index field : Byte) (value : Word32) :
    CrewKept s (requestSetField tag table index field value s) := by
  refine answerWrite_crewKept s 3 tag fun u h => ?_
  split at h
  · cases h
  · exact namedField_written h

theorem requestClearFaults_crewKept (tag classes : Word16) : CrewKept s (requestClearFaults tag classes s) :=
  (clearFaultClasses_crewKept s classes false).trans (reply_crewKept _ 6 tag _ _)

theorem requestStart_crewKept (tag : Word16) : CrewKept s (requestStart tag s) :=
  (startPart_crewKept s).trans (reply_crewKept _ 8 tag .ok [])

theorem requestWarmReset_crewKept (tag : Word16) : CrewKept s (requestWarmReset tag s) :=
  .trans (reply_crewKept s 9 tag .ok []) (warmStart_crewKept _)

theorem unlessBusy_crewKept {handle : State → State} (h : CrewKept s (handle s)) : CrewKept s (unlessBusy s handle) := by
  unfold unlessBusy
  split
  · exact raise_crewKept s _ _
  · exact h

theorem refuseService_crewKept (a : ReplyAddress) (code : Byte) (r : ReplyStatus) :
    CrewKept s (refuseService a code r s) := (raise_crewKept s _ _).same rfl

theorem serviceSetField_crewKept (a : ReplyAddress) (table index field : Byte) (value : Word32) :
    CrewKept s (serviceSetField a table index field value s) := by
  refine unlessBusy_crewKept s ?_
  split
  · exact refuseService_crewKept s a 3 _
  · next hw => exact (serviceWrite_written hw).crewKept.same rfl

theorem serviceReadField_crewKept (a : ReplyAddress) (table index field : Byte) :
    CrewKept s (serviceReadField a table index field s) := by
  refine unlessBusy_crewKept s ?_
  split
  · exact refuseService_crewKept s a 4 _
  · exact crewKept_of_places rfl

theorem serviceClearFaults_crewKept (a : ReplyAddress) (classes : Word16) : CrewKept s (serviceClearFaults a classes s) :=
  unlessBusy_crewKept s ((clearFaultClasses_crewKept s classes true).same rfl)

theorem serviceReadFaults_crewKept (a : ReplyAddress) : CrewKept s (serviceReadFaults a s) :=
  unlessBusy_crewKept s (crewKept_of_places rfl)

theorem serviceFrame_crewKept (a : ReplyAddress) (data : List Byte) : CrewKept s (serviceFrame a data s) := by
  unfold serviceFrame
  split
  · exact serviceSetField_crewKept s a _ _ _ _
  · exact serviceReadField_crewKept s a _ _ _
  · exact serviceClearFaults_crewKept s a _
  · exact serviceReadFaults_crewKept s a
  all_goals exact unlessBusy_crewKept s (refuseService_crewKept s a _ _)

theorem frameArrived_crewKept (f : Frame) : CrewKept s (frameArrived f s) := by
  have hseen : CrewKept s (s.matchedFrame f.port) := crewKept_of_places (by rw [matchedFrame_eq]; rfl)
  unfold frameArrived actOnFrame
  split
  · exact .refl s
  · split
    · exact .refl s
    · dsimp only
      split
      · exact (hseen.trans (runMapRange_crewKept _ f _ _)).trans (forwardFrame_crewKept _ _ f)
      · exact hseen.trans (serviceFrame_crewKept _ _ _)

theorem dispatch_crewKept (code : Byte) (tag : Word16) (args : List Byte) : CrewKept s (dispatch code tag args s) := by
  unfold dispatch
  split
  · exact requestLoad_crewKept s tag _ _ _
  · exact answerRead_crewKept s 2 tag _
  · exact requestSetField_crewKept s tag _ _ _ _
  · exact answerRead_crewKept s 4 tag _
  · exact answerRead_crewKept s 5 tag _
  · exact requestClearFaults_crewKept s tag _
  · split
    · exact refuse_crewKept s 7 tag .range
    · exact requestReset_crewKept s tag _
  · exact requestStart_crewKept s tag
  · exact requestWarmReset_crewKept s tag
  · exact refuse_crewKept s code tag .range

theorem transfer_crewKept (u : List Byte) : CrewKept s (transfer u s) := by
  have hsent : CrewKept s s.sendDownstream := crewKept_of_places (by unfold State.sendDownstream; split <;> rfl)
  refine hsent.trans ?_
  unfold transfer handleUpstream handlePayload
  split
  · split
    · exact .refl _
    · split
      · exact dispatch_crewKept _ _ _ _
      all_goals exact refuse_crewKept _ _ _ _
  · exact raise_crewKept _ _ _

/-! ### Port B (R184) -/

theorem sendReply_crewKept : CrewKept s s.sendReply := by
  unfold State.sendReply
  split <;> exact crewKept_of_places rfl

theorem replySent_crewKept : CrewKept s s.replySent := by
  unfold State.replySent
  split
  · exact .refl s
  · split <;> exact crewKept_of_places rfl

theorem replyNotSent_crewKept : CrewKept s s.replyNotSent := by
  unfold State.replyNotSent
  split <;> exact crewKept_of_places rfl

theorem replyExpired_crewKept (place : Nat) : CrewKept s (s.replyExpired place) := by
  unfold State.replyExpired
  split
  · exact .refl s
  · split <;> exact crewKept_of_places rfl

end

/-! ### Every command -/

section
variable {f : State → State} {s t : State}

theorem onAwake_crewKept (h : onAwake f s = .next t) (hf : CrewKept s (f s)) : CrewKept s t := by
  cases h
  split
  · exact hf
  · exact .refl s

/-- The same for one that acts only on a condition. -/
theorem onAwake_crewKept_if {p : State → Bool} (h : onAwake (fun s => if p s = true then f s else s) s = .next t)
    (hf : CrewKept s (f s)) : CrewKept s t := onAwake_crewKept h (by split; exacts [hf, .refl s])

end

/-- Every command keeps the laws: the Crew Unit's own operations one by one, every other command because it leaves the records but for
the events it makes. -/
theorem exec_crewKept {c : Instr} {s t : State} (h : exec c s = .next t) : CrewKept s t := by
  unfold exec at h
  cases c with
  | coldStart => cases h; exact (cold_crewKept s _ _ _ _ _).trans (raise_crewKept _ _ _)
  | keepAliveRemoval => cases h; exact cold_crewKept s _ _ _ _ _
  | resetInputAssert => cases h; exact crewKept_of_places rfl
  | resetInputRelease =>
    cases h
    split
    · split
      · exact (warmStart_crewKept { s with resetHeld := false }).after rfl
      · exact crewKept_of_places rfl
    · exact .refl s
  | ignitionSenseChange level => cases h; split <;> exact crewKept_of_places rfl
  | ignitionOn => cases h; split; exacts [(takeIgnitionOn_crewKept (s.setIgnition true)).after rfl, .refl s]
  | ignitionOff => cases h; split; exacts [(takeIgnitionOff_crewKept (s.setIgnition false)).after rfl, .refl s]
  | portBFrameStart => cases h; split; exacts [wakingEntry_crewKept s, .refl s]
  | monotonicAdvance =>
    cases h
    split
    · split
      · exact (accountingTick_crewKept s.advanceSeconds).after rfl
      · exact crewKept_of_places rfl
    · exact .refl s
  | linkTransfer u =>
    cases h
    split
    · split
      · exact (transfer_crewKept s u).trans (conclude_crewKept _)
      · exact crewKept_of_places rfl
    · exact .refl s
  | frameArrival f => exact onAwake_crewKept h ((frameArrived_crewKept s f).trans (conclude_crewKept _))
  | load tag table index entry =>
    exact onAwake_crewKept h ((requestLoad_crewKept s tag _ _ _).trans (conclude_crewKept _))
  | setField tag table index field value =>
    exact onAwake_crewKept h ((requestSetField_crewKept s tag _ _ _ _).trans (conclude_crewKept _))
  | read tag table index => exact onAwake_crewKept h (answerRead_crewKept s 2 tag _)
  | readField tag table index field => exact onAwake_crewKept h (answerRead_crewKept s 4 tag _)
  | state tag target index => exact onAwake_crewKept h (answerRead_crewKept s 5 tag _)
  | clearFaults tag classes => exact onAwake_crewKept h (requestClearFaults_crewKept s tag classes)
  | intakeSectionReset tag => exact onAwake_crewKept h (requestReset_crewKept s tag .intake)
  | signalsSectionReset tag => exact onAwake_crewKept h (requestReset_crewKept s tag .signals)
  | speedSectionReset tag => exact onAwake_crewKept h (requestReset_crewKept s tag .speed)
  | gaugesSectionReset tag =>
    exact onAwake_crewKept h ((requestReset_crewKept s tag .gauges).trans (conclude_crewKept _))
  | telltalesSectionReset tag => exact onAwake_crewKept h (requestReset_crewKept s tag .telltales)
  | presentationSectionReset tag => exact onAwake_crewKept h (requestReset_crewKept s tag .presentation)
  | crewSectionReset tag => exact onAwake_crewKept h (requestReset_crewKept s tag .crew)
  | faultsSectionReset tag => exact onAwake_crewKept h (requestReset_crewKept s tag .faults)
  | start tag => exact onAwake_crewKept h ((requestStart_crewKept s tag).trans (conclude_crewKept _))
  | warmReset tag => exact onAwake_crewKept h (requestWarmReset_crewKept s tag)
  | serviceSetField a table index field value => exact onAwake_crewKept h (serviceSetField_crewKept s a _ _ _ _)
  | serviceReadField a table index field => exact onAwake_crewKept h (serviceReadField_crewKept s a _ _ _)
  | serviceClearFaults a classes => exact onAwake_crewKept h (serviceClearFaults_crewKept s a classes)
  | readFaults a => exact onAwake_crewKept h (serviceReadFaults_crewKept s a)
  | silenceExpiry p => exact onAwake_crewKept_if h ((raise_crewKept (s.openEpisode p) _ _).after (by cases p <;> rfl))
  | holdExpiry k => exact onAwake_crewKept_if h (goHeld_crewKept s k)
  | staleExpiry k => exact onAwake_crewKept_if h (goStale_crewKept s k)
  | plausibilityTick => exact onAwake_crewKept_if h (plausibilityTicked_crewKept s)
  | filterTick => exact onAwake_crewKept_if h (filterTicked_crewKept s)
  | stallReport ch => exact onAwake_crewKept h ((stallReported_crewKept s ch).trans (conclude_crewKept _))
  | onDebounceExpiry i => exact onAwake_crewKept_if h (whole_crewKept s fun s => (moving_presented i).telltaleOn s)
  | offDebounceExpiry i => exact onAwake_crewKept_if h (whole_crewKept s fun s => (moving_presented i).telltaleFallen s)
  | lampNoCurrent ch => exact onAwake_crewKept_if h (lampFails_crewKept s ch _ _)
  | lampCurrentPresent ch => exact onAwake_crewKept_if h (crewKept_of_places rfl)
  | lampOverCurrent ch => exact onAwake_crewKept_if h (lampFails_crewKept s ch _ _)
  | bulbCheckExpiry =>
    exact onAwake_crewKept_if h (((endBulbCheck_crewKept s).same (State.reportBulbEnd_crew _)).trans (conclude_crewKept _))
  | chimeOnExpiry => exact onAwake_crewKept h (chimeOnEnds_crewKept s)
  | chimeOffExpiry => exact onAwake_crewKept h (chimeOffEnds_crewKept s)
  | chimeNoCurrent => exact onAwake_crewKept h (chimeFails_crewKept s)
  | chimeCurrentPresent => exact onAwake_crewKept h (chimeRecovers_crewKept s)
  | settleExpiry => exact onAwake_crewKept_if h ((enterByLevel_crewKept s).trans (conclude_crewKept _))
  | quietExpiry => exact onAwake_crewKept_if h ((conclude_crewKept (s.setQuiet .elapsed)).after rfl)
  | replyFrameSend => exact onAwake_crewKept h (sendReply_crewKept s)
  | replyFrameSent => exact onAwake_crewKept h (replySent_crewKept s)
  | replyFrameNotSent => exact onAwake_crewKept h (replyNotSent_crewKept s)
  | replyExpiry place => exact onAwake_crewKept h (replyExpired_crewKept s _)
  | msCounterAdvance => exact onAwake_crewKept h (crewKept_of_places rfl)

/-- Settles O56: an idle step changes nothing, and a command keeps the laws by `exec_crewKept`. -/
theorem stepsKeepTheCrewLaws : Obligations.StepsKeepTheCrewLaws := by
  intro s t hs h
  rw [crewLaws_iff] at hs ⊢
  unfold step at h
  split at h
  · cases h; exact hs
  · exact exec_crewKept h hs

end Sys2Proof.Machine
end

section
/-! PROOFS. A part that is not awake: in SLEEP, in a reset hold, or without keep-alive (R147 to R149, R159, R161, R162). -/

namespace Sys2Proof.Machine

/-! ### The commands that only an awake part takes -/

/-- The commands that a part may take while it is not awake: those at the supplies and pins, the ignition events, the wake by a frame,
the monotonic counter and the link's transfers (R147, R149, R153, R159, R161, R162). -/
def unawakeTaken : Instr → Bool
  | .coldStart | .keepAliveRemoval | .resetInputAssert | .resetInputRelease | .ignitionSenseChange _ | .ignitionOn | .ignitionOff
  | .portBFrameStart | .monotonicAdvance | .linkTransfer _ => true
  | _ => false

/-- Every other command is an event that only an awake part takes. -/
theorem exec_unawake {c : Instr} {s : State} (hs : s.awake = false) (h : unawakeTaken c = false) : exec c s = .next s := by
  cases c with
  | coldStart | keepAliveRemoval | resetInputAssert | resetInputRelease | ignitionSenseChange | ignitionOn | ignitionOff
  | portBFrameStart | monotonicAdvance | linkTransfer => cases h
  | _ => exact congrArg Host.Outcome.next (if_neg (Bool.eq_false_iff.1 hs))

/-! ### Without keep-alive (R161) -/

theorem unawake_of_unsupplied {s : State} (h : s.keepAlive = false) : s.awake = false := by simp [State.awake, h]

/-- Of the commands that an unawake part may take, the ignition events, the wake, the counter and the transfers need keep-alive. -/
theorem exec_unsupplied {c : Instr} {s : State} (hs : s.keepAlive = false)
    (hc : c ∉ [Instr.coldStart, .keepAliveRemoval, .resetInputAssert, .resetInputRelease, .ignitionSenseChange true,
      .ignitionSenseChange false]) : exec c s = .next s := by
  have hdue : ∀ level, s.filterDue level = false := by simp [State.filterDue, hs]
  cases htaken : unawakeTaken c with
  | false => exact exec_unawake (unawake_of_unsupplied hs) htaken
  | true =>
    cases c with
    | ignitionOn => rw [exec_ignitionOn, hdue]; rfl
    | ignitionOff => rw [exec_ignitionOff, hdue]; rfl
    | portBFrameStart => simp [exec, execPortBFrameStart, hs]
    | monotonicAdvance => simp [exec, execMonotonicAdvance, hs]
    | linkTransfer u => simp [exec, execLinkTransfer, hs]
    | coldStart | keepAliveRemoval | resetInputAssert | resetInputRelease => simp at hc
    | ignitionSenseChange level => cases level <;> simp at hc
    | _ => cases htaken

/-- Settles O4: the removal leaves the cold start values beside the pins, from which COLD_START starts in any case. -/
theorem keepAliveRemovalLosesEverything : Obligations.KeepAliveRemovalLosesEverything := by
  refine ⟨fun s => ⟨_, rfl, rfl, rfl⟩, fun s x hheld hraw hchoices hpending => ?_, fun c s hs hc => exec_unsupplied hs hc⟩
  simp only [exec, execKeepAliveRemoval, hheld, hraw, hchoices, hpending]

/-! ### In SLEEP and in a reset hold (R147 to R149, R159, R162) -/

theorem held_or_asleep {s : State} (hk : s.keepAlive = true) (hs : s.awake = false) :
    s.resetHeld = true ∨ s.time.part = .sleep := by
  by_contra h
  obtain ⟨hheld, hsleep⟩ := not_or.1 h
  exact absurd ((awake_iff s).2 ⟨hk, Bool.eq_false_iff.2 hheld, hsleep⟩) (by simp [hs])

theorem takeIgnitionOn_held {s : State} (h : s.resetHeld = true) : takeIgnitionOn s = s := if_pos h

/-- An ignition off event wakes nothing (R153). -/
theorem takeIgnitionOff_unawake {s : State} (h : s.resetHeld = true ∨ s.time.part = .sleep) : takeIgnitionOff s = s := by
  unfold takeIgnitionOff
  split
  · rfl
  · next hheld => rw [h.resolve_left hheld]

theorem exec_portBFrameStart_held {s : State} (h : s.resetHeld = true) : exec .portBFrameStart s = .next s := by
  simp [exec, execPortBFrameStart, h]

theorem exec_monotonicAdvance_unawake {s : State} (hk : s.keepAlive = true) (hs : s.awake = false) :
    exec .monotonicAdvance s = .next s.secondPassed := by
  simp only [exec, execMonotonicAdvance, hk, hs, Bool.false_and, if_true]
  rfl

theorem exec_linkTransfer_unawake (u : List Byte) {s : State} (hk : s.keepAlive = true) (hs : s.awake = false) :
    exec (.linkTransfer u) s = .next { s with link := { s.link with sent := some (linkRecord 0 []) } } := by
  have hrun : exec (.linkTransfer u) s = .next (if s.keepAlive then
      (if s.awake then conclude (transfer u s) else s.transferUnserved) else s) := rfl
  rw [hrun, if_pos hk, if_neg (Bool.eq_false_iff.1 hs)]
  rfl

theorem exec_ignitionOn_held {s : State} (hk : s.keepAlive = true) (hh : s.resetHeld = true) : exec .ignitionOn s = .next
    (if s.time.ignitionFilter = true ∧ s.rawIgnition = true then s.ignitionTaken true else s) := by
  have hstays : takeIgnitionOn (s.ignitionTaken true) = s.ignitionTaken true := takeIgnitionOn_held hh
  simp only [exec_ignitionOn, filterDue_iff, hk, hstays, true_and]

theorem exec_ignitionOff_unawake {s : State} (hk : s.keepAlive = true) (hs : s.awake = false) : exec .ignitionOff s = .next
    (if s.time.ignitionFilter = true ∧ s.rawIgnition = false then s.ignitionTaken false else s) := by
  have hstays : takeIgnitionOff (s.ignitionTaken false) = s.ignitionTaken false :=
    takeIgnitionOff_unawake (s := s.ignitionTaken false) (held_or_asleep hk hs)
  simp only [exec_ignitionOff, filterDue_iff, hk, hstays, true_and]

/-- Settles O5: `exec_unawake` for the commands without an effect, and the others one by one. -/
theorem asleepOrHeldPartOnlyKeepsTime : Obligations.AsleepOrHeldPartOnlyKeepsTime := by
  intro s hk hs
  refine ⟨fun c hlink hc => exec_unawake hs ?_, exec_monotonicAdvance_unawake hk hs,
    fun u => exec_linkTransfer_unawake u hk hs,
    fun hheld => ⟨exec_portBFrameStart_held hheld, exec_ignitionOn_held hk hheld⟩, exec_ignitionOff_unawake hk hs⟩
  cases c with
  | linkTransfer u => exact absurd rfl (hlink u)
  | ignitionSenseChange level => cases level <;> simp at hc
  | coldStart | keepAliveRemoval | resetInputAssert | resetInputRelease | ignitionOn | ignitionOff | portBFrameStart
  | monotonicAdvance => simp at hc
  | _ => rfl

end Sys2Proof.Machine
end

section
/-! PROOFS. What the operations keep of the pins, of the waiting commands and of all that the moves to RUN and SLEEP read (R149, R156,
R158, R161, R162): an operation that makes no move and reports no condition keeps all of it, every other one the pins and the waiting
commands. -/

namespace Sys2Proof.Machine

/-! ### Pins, standing and footing -/

/-- What stands outside the part: its pins, and the commands that wait. -/
structure Pins where
  keepAlive : Bool
  resetHeld : Bool
  rawIgnition : Bool
  pending : List Instr

/-- The pins of a state. -/
def State.pins (s : State) : Pins :=
  { keepAlive := s.keepAlive, resetHeld := s.resetHeld, rawIgnition := s.rawIgnition, pending := s.pending }

/-- What the moves to RUN and SLEEP read (R156, R158). -/
structure Standing where
  part : PartState
  quiet : QuietTimer
  homingDone : Bool
  bulbCheckEnded : Bool
  atRest : Bool

/-- The standing of a state. -/
def State.standing (s : State) : Standing :=
  { part := s.time.part, quiet := s.time.quiet, homingDone := s.time.homingDone, bulbCheckEnded := s.time.bulbCheckEnded
    atRest := s.time.atRest }

/-- The pins and the standing together. -/
def State.footing (s : State) : Pins × Standing := (s.pins, s.standing)

theorem pins_of_footing {s t : State} (h : t.footing = s.footing) : t.pins = s.pins := congrArg Prod.fst h

theorem Settled.of_footing {s t : State} (hs : Settled s) (h : t.footing = s.footing) : Settled t := by
  have hstanding : t.standing = s.standing := congrArg Prod.snd h
  obtain ⟨hpart, hquiet, hdone, hended, hrest⟩ := Standing.mk.inj hstanding
  constructor
  · rw [hpart, hdone, hended]; exact hs.homing
  · rw [hpart, hquiet, hrest]; exact hs.standby

/-- Only HOMING and STANDBY can be left with a move undone. -/
theorem settled_of_part {s : State} (hhoming : s.time.part ≠ .homing) (hstandby : s.time.part ≠ .standby) : Settled s :=
  ⟨fun h => absurd h hhoming, fun h => absurd h hstandby⟩

theorem Observed.footing {s t : State} (h : Observed s t) : t.footing = s.footing := by
  unfold State.footing State.pins State.standing
  rw [h.keepAlive, h.resetHeld, h.rawIgnition, h.pending, h.time]

theorem Reacted.footing {s t : State} (h : Reacted s t) : t.footing = s.footing := h.observed.footing

theorem Presented.footing {s t : State} (h : Presented s t) : t.footing = s.footing := h.reacted.footing

theorem Observed.pins {s t : State} (h : Observed s t) : t.pins = s.pins := pins_of_footing h.footing

theorem Reacted.pins {s t : State} (h : Reacted s t) : t.pins = s.pins := pins_of_footing h.footing

theorem foldl_footing {α : Type} {f : State → α → State} (hf : ∀ s a, (f s a).footing = s.footing) (l : List α) (s : State) :
    (l.foldl f s).footing = s.footing := by
  induction l generalizing s with
  | nil => rfl
  | cons a l ih => exact (ih _).trans (hf s a)

/-! ### Operations that keep the footing -/

section
variable (s : State)

theorem raiseRefused_footing (r : ReplyStatus) : (raiseRefused r s).footing = s.footing := (reacted_raise _ _ s).footing

theorem reply_footing (code : Byte) (tag : Word16) (r : ReplyStatus) (data : List Byte) :
    (reply code tag r data s).footing = s.footing := (reacted_offer _ s).footing

theorem refuse_footing (code : Byte) (tag : Word16) (r : ReplyStatus) : (refuse code tag r s).footing = s.footing :=
  (reply_footing _ code tag r []).trans (raiseRefused_footing s r)

theorem writeIgnition_footing : (writeIgnition s).footing = s.footing := (writeIgnition_reacted s).footing

theorem advanceSnapshot_footing : (advanceSnapshot s).footing = s.footing := by
  unfold advanceSnapshot
  dsimp only
  split
  · rfl
  · split
    · exact (observed_offerSnapshot s).footing
    · rfl

theorem accountingTick_footing : (accountingTick s).footing = s.footing :=
  (advanceSnapshot_footing _).trans (observed_writeRemaining (s.setCrew _)).footing

theorem goStale_footing (k : Fin 120) : (goStale k s).footing = s.footing := by
  have hstale : (decodedEvent .quality k ((s.setQuality k .stale).setSlotTimers k none none)).footing = s.footing :=
    (observed_decodedEvent .quality k _).footing
  unfold goStale
  dsimp only
  split
  · exact (reacted_raiseItem _ _ _).footing.trans hstale
  · exact hstale

theorem goHeld_footing (k : Fin 120) : (goHeld k s).footing = s.footing := by
  unfold goHeld
  dsimp only
  split
  · exact goStale_footing s k
  · exact (observed_decodedEvent .quality k _).footing

theorem runMapEntry_footing (f : Frame) (m : Fin 192) : (runMapEntry f m s).footing = s.footing := by
  unfold runMapEntry
  dsimp only
  split
  · split
    · exact (reacted_raise _ _ s).footing
    · split
      · exact (observed_decodedEvent .code _ _).footing
      · exact (observed_decodedEvent .code _ _).footing
      · exact (observed_decodedEvent .value _ _).footing
  · rfl

theorem runMapRange_footing (f : Frame) (first count : Nat) : (runMapRange f first count s).footing = s.footing := by
  refine foldl_footing (fun s m => ?_) _ s
  split
  · exact runMapEntry_footing s f m
  · rfl

theorem forwardFrame_footing (i : Fin 96) (f : Frame) : (forwardFrame i f s).footing = s.footing := by
  unfold forwardFrame
  split
  · split
    · rfl
    · exact (reacted_offer _ s).footing
    · split
      · rfl
      · split
        · rfl
        · exact (reacted_offer _ s).footing
  · rfl

theorem silenceExpired_footing (p : Port) : (silenceExpired p s).footing = s.footing :=
  (reacted_raiseItem _ _ (s.openEpisode p)).footing.trans (by cases p <;> rfl)

theorem sampleSpeed_footing : (sampleSpeed s).footing = s.footing := by
  unfold sampleSpeed
  dsimp only
  split
  · split
    · split
      · exact (reacted_raise _ _ _).footing
      · rfl
    · rfl
  · rfl

theorem plausibilityTicked_footing : (plausibilityTicked s).footing = s.footing :=
  (observed_writeSelection _).footing.trans (sampleSpeed_footing (s.setPlausibility _))

theorem whole_footing {f : State → Change} (hf : ∀ s, Presented s (f s).state) : (whole f s).footing = s.footing :=
  (reacted_whole hf s).footing

theorem lampFails_footing (ch : Fin 32) (l : LampState) (c : FaultClass) : (lampFails ch l c s).footing = s.footing :=
  (reacted_backupOffers ch _).footing.trans (reacted_raiseItem c ch.val (s.setLamp ch l)).footing

theorem chimeOnEnds_footing : s.chimeOnEnds.footing = s.footing := by
  unfold State.chimeOnEnds
  split <;> rfl

theorem chimeOffEnds_footing : s.chimeOffEnds.footing = s.footing := by
  unfold State.chimeOffEnds
  split
  · exact (presented_completeBurst s _).footing
  all_goals rfl

theorem chimeFails_footing : (chimeFails s).footing = s.footing := by
  unfold chimeFails
  split
  · exact (reacted_raiseItem _ _ (s.setLoad .open)).footing
  all_goals rfl

theorem chimeRecovers_footing : s.chimeRecovers.footing = s.footing := by
  unfold State.chimeRecovers
  split <;> rfl

/-! ### Section resets and cleared faults -/

theorem presentationCleared_footing : s.presentationCleared.footing = s.footing := by
  simp only [State.footing, State.pins, State.standing, State.presentationCleared, State.forgetHeld]

theorem resetPresentation_footing : (resetPresentation s).footing = s.footing := by
  unfold resetPresentation
  split
  · exact presentationCleared_footing s
  · exact (reacted_offer _ _).footing.trans (presentationCleared_footing s)

/-- The GAUGES section reset alone may report a condition (R71, R75). -/
theorem resetSection_footing {x : Section} (hx : x ≠ .gauges) : (resetSection x s).footing = s.footing := by
  cases x with
  | intake => rw [resetSection, resetIntake_eq]; rfl
  | signals => exact foldl_footing (fun s k => (observed_decodedEvent .quality k (s.setUnknown k 65535)).footing) _ s
  | speed => exact (observed_writeSelection s.relearn).footing
  | gauges => exact absurd rfl hx
  | telltales => exact (reacted_resetTelltales s).footing
  | presentation => exact resetPresentation_footing s
  | crew =>
    rw [resetSection, resetCrewSection_eq]
    exact (reacted_offer _ _).footing.trans (observed_writeRemaining s.crewEmptied).footing
  | faults => exact (reacted_publishSevere { s with faults := .cold }).footing

theorem requestReset_footing (tag : Word16) {x : Section} (hx : x ≠ .gauges) : (requestReset tag x s).footing = s.footing :=
  (reply_footing _ 7 tag .ok []).trans (resetSection_footing s hx)

theorem clearFaultClasses_footing (classes : Word16) (service : Bool) :
    (clearFaultClasses classes service s).footing = s.footing := by
  unfold clearFaultClasses
  dsimp only
  split
  · rfl
  · exact (reacted_publishSevere _).footing

theorem requestClearFaults_footing (tag classes : Word16) : (requestClearFaults tag classes s).footing = s.footing :=
  (reply_footing _ 6 tag _ _).trans (clearFaultClasses_footing s classes false)

theorem answerRead_footing (code : Byte) (tag : Word16) (r : Except ReplyStatus (List Byte)) :
    (answerRead code tag r s).footing = s.footing := by
  cases r with
  | error e => exact refuse_footing s code tag e
  | ok data => exact reply_footing s code tag .ok data

/-! ### Service requests and port B (R181 to R184) -/

theorem unlessBusy_footing {handle : State → State} (h : (handle s).footing = s.footing) :
    (unlessBusy s handle).footing = s.footing := by
  unfold unlessBusy
  split
  · exact raiseRefused_footing s .busy
  · exact h

theorem refuseService_footing (a : ReplyAddress) (code : Byte) (r : ReplyStatus) :
    (refuseService a code r s).footing = s.footing := raiseRefused_footing s r

theorem serviceReadField_footing (a : ReplyAddress) (table index field : Byte) :
    (serviceReadField a table index field s).footing = s.footing :=
  unlessBusy_footing s (by split; exacts [refuseService_footing s a 4 _, rfl])

theorem serviceClearFaults_footing (a : ReplyAddress) (classes : Word16) :
    (serviceClearFaults a classes s).footing = s.footing := unlessBusy_footing s (clearFaultClasses_footing s classes true)

theorem serviceReadFaults_footing (a : ReplyAddress) : (serviceReadFaults a s).footing = s.footing := unlessBusy_footing s rfl

theorem sendReply_footing : s.sendReply.footing = s.footing := by
  unfold State.sendReply
  split <;> rfl

theorem replySent_footing : s.replySent.footing = s.footing := by
  unfold State.replySent
  split
  · rfl
  · split <;> rfl

theorem replyNotSent_footing : s.replyNotSent.footing = s.footing := by
  unfold State.replyNotSent
  split <;> rfl

theorem replyExpired_footing (place : Nat) : (s.replyExpired place).footing = s.footing := by
  unfold State.replyExpired
  split
  · rfl
  · split <;> rfl

end

/-! ### Accepted writes -/

section
variable {β : Type} {part : State → β} {b : β} {u : State}

/-- What every write leaves of a part of the state is what an accepted entry's write leaves of it. -/
theorem of_accept {α : Type} {o : Option α} {ok : α → Bool} {write : α → State} (h : accept o ok write = .ok u)
    (hw : ∀ e, part (write e) = b) : part u = b := by
  unfold accept at h
  split at h
  · cases h
  · split at h <;> cases h
    exact hw _

theorem of_acceptCurve {o : Option Curve} {write : Curve → State} (h : acceptCurve o write = .ok u)
    (hw : ∀ e, part (write e) = b) : part u = b := by
  unfold acceptCurve at h
  split at h
  · cases h
  · split at h
    · split at h <;> cases h
      exact hw _
    · cases h

end

theorem writeSystemConfig_footing (e : SystemConfig) (w : Written) (s : State) :
    (writeSystemConfig e w s).footing = s.footing := by
  have hset : (if w.covers 5 then (s.setTables { s.tables with system := e }).resetDetector
      else s.setTables { s.tables with system := e }).footing = s.footing := by split <;> rfl
  unfold writeSystemConfig
  dsimp only
  split
  · exact (observed_writeSelection (State.relearn _)).footing.trans hset
  · exact hset

/-- A write of an entry, a gauge entry apart, keeps the footing. -/
theorem writeEntry_footing {t : TableId} {k : Nat} {l : List Byte} {w : Written} {s u : State} (ht : t ≠ .gauge)
    (h : writeEntry t k l w s = .ok u) : u.footing = s.footing := by
  unfold writeEntry at h
  cases t with
  | intake => dsimp only at h; split at h; exacts [(nomatch h), of_accept h fun _ => rfl]
  | map => dsimp only at h; split at h; exacts [(nomatch h), of_accept h fun _ => rfl]
  | slotConfig =>
    dsimp only at h; split at h
    exacts [(nomatch h), of_accept h fun _ => (observed_decodedEvent .quality _ _).footing]
  | curve => dsimp only at h; split at h; exacts [(nomatch h), of_acceptCurve h fun _ => rfl]
  | gauge => exact absurd rfl ht
  | telltale =>
    dsimp only at h; split at h
    exacts [(nomatch h), of_accept h fun _ => (reacted_telltaleWritten _ _ _).footing]
  | chime =>
    dsimp only at h; split at h
    exacts [(nomatch h), of_accept h fun _ => (presented_choose _).footing]
  | crewConfig =>
    dsimp only at h; split at h
    exacts [(nomatch h), of_accept h fun _ => (observed_writeRemaining _).footing]
  | systemConfig =>
    dsimp only at h; split at h
    exacts [(nomatch h), of_accept h fun e => writeSystemConfig_footing e w s]
  | faultPolicy =>
    dsimp only at h; split at h
    exacts [(nomatch h), of_accept h fun _ => (reacted_publishSevere _).footing]

/-- A gauge entry's write reports the gauges' conditions, which are no pins (R72). -/
theorem writeEntry_pins {t : TableId} {k : Nat} {l : List Byte} {w : Written} {s u : State}
    (h : writeEntry t k l w s = .ok u) : u.pins = s.pins := by
  by_cases ht : t = .gauge
  · subst ht
    unfold writeEntry at h
    dsimp only at h
    split at h
    exacts [(nomatch h), of_accept h fun _ => rfl]
  · exact pins_of_footing (writeEntry_footing ht h)

theorem EntryWritten.pins {s u : State} (h : EntryWritten s u) : u.pins = s.pins := by
  obtain ⟨t, k, l, w, h⟩ := h
  exact writeEntry_pins h

/-- SERVICE authority writes curves and map entries alone (R182). -/
theorem not_gauge_of_servicePermits {s : State} {f : NamedField} (h : s.servicePermits f = true) : f.table ≠ .gauge := by
  intro hf
  simp [State.servicePermits, hf] at h

theorem serviceWrite_footing {table index field : Byte} {value : Word32} {s u : State}
    (h : serviceWrite table index field value s = .ok u) : u.footing = s.footing := by
  unfold serviceWrite at h
  split at h
  · cases h
  · split at h
    · next hpermits =>
      split at h
      · unfold NamedField.write at h
        split at h
        · exact writeEntry_footing (not_gauge_of_servicePermits hpermits) h
        · cases h
      · cases h
    · cases h

section
variable (s : State)

theorem serviceSetField_footing (a : ReplyAddress) (table index field : Byte) (value : Word32) :
    (serviceSetField a table index field value s).footing = s.footing := by
  refine unlessBusy_footing s ?_
  split
  · exact refuseService_footing s a 3 _
  · next hw =>
    have hwritten := serviceWrite_footing hw
    exact hwritten

theorem serviceFrame_footing (a : ReplyAddress) (data : List Byte) : (serviceFrame a data s).footing = s.footing := by
  unfold serviceFrame
  split
  · exact serviceSetField_footing s a _ _ _ _
  · exact serviceReadField_footing s a _ _ _
  · exact serviceClearFaults_footing s a _
  · exact serviceReadFaults_footing s a
  all_goals exact unlessBusy_footing s (refuseService_footing s a _ _)

/-! ### Moves of the part, and reports of the conditions (R71, R93, R152 to R162) -/

theorem wakingEntry_pins : (wakingEntry s).pins = s.pins := by
  have hsettle : ∀ (u : State) x, (u.withSettle x).pins = u.pins := fun _ _ => rfl
  rw [wakingEntry_eq, hsettle, pins_of_footing (writeIgnition_footing _), (observed_writeRemaining s.awoken).pins]
  rfl

theorem wakingEntry_part : (wakingEntry s).time.part = .waking := by
  rw [(wakingEntry_entered s).1.time]; rfl

theorem homingEntry_pins : (homingEntry s).pins = s.pins := (homingEntry_entered s).1.pins

theorem standbyEntry_pins : (standbyEntry s).pins = s.pins := (standbyEntry_entered s).1.pins

theorem enterByLevel_pins : (enterByLevel s).pins = s.pins := by
  unfold enterByLevel
  split
  · exact homingEntry_pins s
  · exact standbyEntry_pins s

theorem startPart_pins : (startPart s).pins = s.pins := by
  unfold startPart
  split
  · exact enterByLevel_pins { s with time := { s.time with started := true } }
  · rfl

theorem requestStart_pins (tag : Word16) : (requestStart tag s).pins = s.pins :=
  (reacted_offer _ _).pins.trans (startPart_pins s)

end

theorem Quieted.pins {s t : State} (h : Quieted s t) : t.pins = s.pins := by
  unfold State.pins
  rw [h.keepAlive, h.resetHeld, h.rawIgnition, h.pending]

theorem ChannelsWorked.pins {s t : State} (h : ChannelsWorked s t) : t.pins = s.pins := h.rest.pins

section
variable (s : State)

theorem warmStart_pins : s.warmStart.pins = s.pins := by
  rw [(warmStart_spec s).pins]
  split <;> rfl

theorem warmStart_settled : Settled s.warmStart := by
  have hpart : s.warmStart.time.part = if s.time.started then .waking else .unconfigured := by
    rw [(warmStart_spec s).time]
    split <;> rfl
  refine settled_of_part ?_ ?_ <;> rw [hpart] <;> split <;> exact nofun

theorem conclude_pins : (conclude s).pins = s.pins := by
  have h := conclude_spec s
  unfold Concluded at h
  split at h
  · rw [h]; rfl
  · split at h
    · exact h.pins
    · rw [h]

/-- The end of an event leaves no move undone (R156, R158). -/
theorem conclude_settled : Settled (conclude s) := by
  have h := conclude_spec s
  unfold Concluded at h
  split at h
  · rw [h]; exact settled_of_part nofun nofun
  · next hrun =>
    split at h
    · exact settled_of_part (by rw [h.time]; exact nofun) (by rw [h.time]; exact nofun)
    · next hsleep =>
      rw [h]
      exact ⟨fun hp hmove => hrun ⟨hp, hmove⟩, fun hp hmove => hsleep ⟨hp, hmove⟩⟩

theorem reportChanges_pins (before : State) : (s.reportChanges before).pins = s.pins := by
  unfold State.reportChanges
  split <;> rfl

theorem requestReset_pins (tag : Word16) (x : Section) : (requestReset tag x s).pins = s.pins := by
  by_cases hx : x = .gauges
  · subst hx
    exact (reacted_offer _ _).pins.trans (reportChanges_pins _ s)
  · exact pins_of_footing (requestReset_footing s tag hx)

theorem bulbCheckEnded_pins : s.endBulbCheck.reportBulbEnd.pins = s.pins := by
  have hended : ∀ u : State, u.reportBulbEnd.pins = u.pins := fun _ => rfl
  rw [hended, State.endBulbCheck, (presented_recomputeLamps _).reacted.pins]
  rfl

theorem gaugesTicked_pins : ((tickChannels (s.setFilterTick (some Config.filterInterval))).reportChanges s).pins = s.pins := by
  rw [reportChanges_pins, (tickChannels_worked _).pins]
  rfl

theorem stallReported_pins (ch : Fin 6) : (stallReported ch s).pins = s.pins := by
  have htaken : (takeStall ch s).pins = s.pins := by
    unfold takeStall
    split
    · rfl
    · exact (reacted_raiseItem .gaugeStall ch.val s).pins
    · exact (reacted_raiseItem .gaugeStall ch.val s).pins
    all_goals rfl
  unfold stallReported
  split
  · exact htaken
  · rfl

/-! ### Requests that write, frames and transfers -/

theorem answerWrite_pins (code : Byte) (tag : Word16) {r : Except ReplyStatus State}
    (hr : ∀ u, r = .ok u → EntryWritten s u) : (answerWrite code tag r s).pins = s.pins := by
  cases r with
  | error e => exact pins_of_footing (refuse_footing s code tag e)
  | ok u => exact (reacted_offer _ u).pins.trans (hr u rfl).pins

theorem requestLoad_pins (tag : Word16) (table index : Byte) (entry : List Byte) :
    (requestLoad tag table index entry s).pins = s.pins := answerWrite_pins s 1 tag fun _ => loadEntry_written

theorem requestSetField_pins (tag : Word16) (table index field : Byte) (value : Word32) :
    (requestSetField tag table index field value s).pins = s.pins := by
  refine answerWrite_pins s 3 tag fun u h => ?_
  split at h
  · cases h
  · exact namedField_written h

theorem requestWarmReset_pins (tag : Word16) : (requestWarmReset tag s).pins = s.pins :=
  (warmStart_pins _).trans (pins_of_footing (reply_footing s 9 tag .ok []))

theorem frameArrived_pins (f : Frame) : (frameArrived f s).pins = s.pins := by
  have hseen : (s.matchedFrame f.port).pins = s.pins := by rw [matchedFrame_eq]; rfl
  unfold frameArrived actOnFrame
  split
  · rfl
  · split
    · rfl
    · dsimp only
      split
      · exact (pins_of_footing ((forwardFrame_footing _ _ f).trans (runMapRange_footing _ f _ _))).trans hseen
      · exact (pins_of_footing (serviceFrame_footing _ _ _)).trans hseen

theorem dispatch_pins (code : Byte) (tag : Word16) (args : List Byte) : (dispatch code tag args s).pins = s.pins := by
  unfold dispatch
  split
  · exact requestLoad_pins s tag _ _ _
  · exact pins_of_footing (answerRead_footing s 2 tag _)
  · exact requestSetField_pins s tag _ _ _ _
  · exact pins_of_footing (answerRead_footing s 4 tag _)
  · exact pins_of_footing (answerRead_footing s 5 tag _)
  · exact pins_of_footing (requestClearFaults_footing s tag _)
  · split
    · exact pins_of_footing (refuse_footing s 7 tag .range)
    · exact requestReset_pins s tag _
  · exact requestStart_pins s tag
  · exact requestWarmReset_pins s tag
  · exact pins_of_footing (refuse_footing s code tag .range)

theorem transfer_pins (u : List Byte) : (transfer u s).pins = s.pins := by
  have hsent : s.sendDownstream.pins = s.pins := by
    unfold State.sendDownstream
    split <;> rfl
  refine Eq.trans ?_ hsent
  unfold transfer handleUpstream handlePayload
  split
  · split
    · rfl
    · split
      · exact dispatch_pins _ _ _ _
      all_goals exact pins_of_footing (refuse_footing _ _ _ _)
  · exact (reacted_raise _ _ _).pins

end

end Sys2Proof.Machine
end

section
/-! PROOFS. Every command completes, keeps the pins but for its own, and leaves no move to RUN or SLEEP undone (R149, R156, R158, R161,
R162). -/

namespace Sys2Proof.Machine

/-! ### Events that the part has completed -/

/-- `t` follows from `s` by an event that the part has completed: the pins and the waiting commands stand, and no move is left undone. -/
structure Completed (s t : State) : Prop where
  pins : t.pins = s.pins
  settled : Settled s → Settled t

theorem completed_of_footing {s t : State} (h : t.footing = s.footing) : Completed s t :=
  ⟨pins_of_footing h, fun hs => hs.of_footing h⟩

theorem Completed.refl (s : State) : Completed s s := completed_of_footing rfl

/-- What follows from a state follows from every other with its footing. -/
theorem Completed.after {s t u : State} (h : Completed u t) (hu : u.footing = s.footing) : Completed s t :=
  ⟨h.pins.trans (pins_of_footing hu), fun hs => h.settled (hs.of_footing hu)⟩

/-- The end of an event makes the move that the event has left (R156, R158). -/
theorem completed_conclude {s u : State} (h : u.pins = s.pins) : Completed s (conclude u) :=
  ⟨(conclude_pins u).trans h, fun _ => conclude_settled u⟩

theorem Completed.ite {s t : State} {p : Prop} [Decidable p] (h : Completed s t) : Completed s (if p then t else s) := by
  split
  · exact h
  · exact .refl s

section
variable (s : State)

theorem completed_wakingEntry : Completed s (wakingEntry s) :=
  ⟨wakingEntry_pins s, fun _ =>
    settled_of_part (by rw [wakingEntry_part]; exact nofun) (by rw [wakingEntry_part]; exact nofun)⟩

theorem completed_warmReset (tag : Word16) : Completed s (requestWarmReset tag s) :=
  ⟨requestWarmReset_pins s tag, fun _ => warmStart_settled _⟩

theorem completed_takeIgnitionOn : Completed s (takeIgnitionOn s) := by
  unfold takeIgnitionOn
  split
  · exact .refl s
  · split
    · exact completed_wakingEntry s
    · exact completed_conclude ((homingEntry_pins _).trans (pins_of_footing (writeIgnition_footing s)))
    all_goals exact completed_of_footing (writeIgnition_footing s)

theorem completed_takeIgnitionOff : Completed s (takeIgnitionOff s) := by
  have hstandby : Completed s (conclude (standbyEntry (writeIgnition s))) :=
    completed_conclude ((standbyEntry_pins _).trans (pins_of_footing (writeIgnition_footing s)))
  unfold takeIgnitionOff
  split
  · exact .refl s
  · cases s.time.part with
    | homing | run => exact hstandby
    | unconfigured | waking | standby => exact completed_of_footing (writeIgnition_footing s)
    | sleep => exact .refl s

end

theorem quietTimer_tick_elapsed {q : QuietTimer} (h : q.tick = .elapsed) : q = .elapsed := by
  cases q with
  | stopped | running => cases h
  | elapsed => rfl

/-- One ms brings the quiet timer nearer its expiry, and only the expiry makes it ELAPSED (R146, R158). -/
theorem completed_advanceMs (s : State) : Completed s s.advanceMs :=
  ⟨rfl, fun hs => ⟨hs.homing, fun hp ⟨hquiet, hrest⟩ => hs.standby hp ⟨quietTimer_tick_elapsed hquiet, hrest⟩⟩⟩

/-! ### Every command -/

/-- The pins after a command: the commands at the pins change their own. -/
def Pins.after (p : Pins) (c : Instr) : Pins where
  keepAlive := match c with | .coldStart => true | .keepAliveRemoval => false | _ => p.keepAlive
  resetHeld := match c with | .resetInputAssert => true | .resetInputRelease => false | _ => p.resetHeld
  rawIgnition := match c with | .ignitionSenseChange level => level | _ => p.rawIgnition
  pending := p.pending

/-- A command answers with a next state that has the given pins and leaves no move undone. -/
def Answers (o : Host.Outcome State Fault Refusal) (p : Pins) (s : State) : Prop :=
  ∃ t, o = .next t ∧ t.pins = p ∧ (Settled s → Settled t)

section
variable {s : State}

theorem answers_completed {t : State} (h : Completed s t) : Answers (.next t) s.pins s := ⟨t, rfl, h.pins, h.settled⟩

theorem answers_awake {f : State → State} (h : Completed s (f s)) : Answers (onAwake f s) s.pins s := answers_completed h.ite

/-- An event of an awake part that keeps the footing. -/
theorem answers_footing {f : State → State} (h : (f s).footing = s.footing) : Answers (onAwake f s) s.pins s :=
  answers_awake (completed_of_footing h)

/-- An event of an awake part that is due only on a condition. -/
theorem answers_due {p : State → Bool} {f : State → State} (h : Completed s (f s)) :
    Answers (onAwake (fun s => if p s = true then f s else s) s) s.pins s := answers_awake h.ite

/-- An event of an awake part with the end of an event after it. -/
theorem answers_concluded {f : State → State} (h : (f s).pins = s.pins) :
    Answers (onAwake (fun s => conclude (f s)) s) s.pins s := answers_awake (completed_conclude h)

theorem answers_resetInputRelease : Answers (execResetInputRelease s) { s.pins with resetHeld := false } s := by
  refine ⟨_, rfl, ?_⟩
  split
  · split
    · exact ⟨warmStart_pins _, fun _ => warmStart_settled _⟩
    · exact ⟨rfl, fun hs => ⟨hs.homing, hs.standby⟩⟩
  · next hheld =>
    rw [← Bool.eq_false_iff.2 hheld]
    exact ⟨rfl, id⟩

end

/-- Every command, one by one: the supplies and pins on their own; a wake, a warm start and the entries by the state that they enter; the
events that can complete the condition of a move by the end of an event; every other command because the footing stands. -/
theorem exec_answers (c : Instr) (s : State) : Answers (exec c s) (s.pins.after c) s := by
  unfold exec
  cases c with
  | coldStart => exact ⟨_, exec_coldStart s, rfl, fun _ => settled_of_part nofun nofun⟩
  | keepAliveRemoval => exact ⟨_, rfl, rfl, fun _ => settled_of_part nofun nofun⟩
  | resetInputAssert => exact ⟨_, rfl, rfl, fun hs => ⟨hs.homing, hs.standby⟩⟩
  | resetInputRelease => exact answers_resetInputRelease
  | ignitionSenseChange level =>
    refine ⟨_, rfl, ?_⟩
    split <;> exact ⟨rfl, fun hs => ⟨hs.homing, hs.standby⟩⟩
  | ignitionOn => exact answers_completed (Completed.after (s := s) (completed_takeIgnitionOn (s.setIgnition true)) rfl).ite
  | ignitionOff => exact answers_completed (Completed.after (s := s) (completed_takeIgnitionOff (s.setIgnition false)) rfl).ite
  | portBFrameStart => exact answers_completed (completed_wakingEntry s).ite
  | monotonicAdvance =>
    refine answers_completed (Completed.ite ?_)
    split
    · exact completed_of_footing (accountingTick_footing s.advanceSeconds)
    · exact completed_of_footing rfl
  | linkTransfer u =>
    refine answers_completed (Completed.ite ?_)
    split
    · exact completed_conclude (transfer_pins s u)
    · exact completed_of_footing rfl
  | frameArrival f => exact answers_concluded (f := frameArrived f) (frameArrived_pins s f)
  | load tag table index entry =>
    exact answers_concluded (f := requestLoad tag table index entry) (requestLoad_pins s tag _ _ _)
  | setField tag table index field value =>
    exact answers_concluded (f := requestSetField tag table index field value) (requestSetField_pins s tag _ _ _ _)
  | read tag table index => exact answers_footing (answerRead_footing s 2 tag _)
  | readField tag table index field => exact answers_footing (answerRead_footing s 4 tag _)
  | state tag target index => exact answers_footing (answerRead_footing s 5 tag _)
  | clearFaults tag classes => exact answers_footing (requestClearFaults_footing s tag classes)
  | intakeSectionReset tag => exact answers_footing (requestReset_footing s tag (x := .intake) nofun)
  | signalsSectionReset tag => exact answers_footing (requestReset_footing s tag (x := .signals) nofun)
  | speedSectionReset tag => exact answers_footing (requestReset_footing s tag (x := .speed) nofun)
  | gaugesSectionReset tag => exact answers_concluded (f := requestReset tag .gauges) (requestReset_pins s tag .gauges)
  | telltalesSectionReset tag => exact answers_footing (requestReset_footing s tag (x := .telltales) nofun)
  | presentationSectionReset tag => exact answers_footing (requestReset_footing s tag (x := .presentation) nofun)
  | crewSectionReset tag => exact answers_footing (requestReset_footing s tag (x := .crew) nofun)
  | faultsSectionReset tag => exact answers_footing (requestReset_footing s tag (x := .faults) nofun)
  | start tag => exact answers_concluded (f := requestStart tag) (requestStart_pins s tag)
  | warmReset tag => exact answers_awake (completed_warmReset s tag)
  | serviceSetField a table index field value => exact answers_footing (serviceSetField_footing s a _ _ _ _)
  | serviceReadField a table index field => exact answers_footing (serviceReadField_footing s a _ _ _)
  | serviceClearFaults a classes => exact answers_footing (serviceClearFaults_footing s a classes)
  | readFaults a => exact answers_footing (serviceReadFaults_footing s a)
  | silenceExpiry p => exact answers_due (completed_of_footing (silenceExpired_footing s p))
  | holdExpiry k => exact answers_due (completed_of_footing (goHeld_footing s k))
  | staleExpiry k => exact answers_due (completed_of_footing (goStale_footing s k))
  | plausibilityTick => exact answers_due (completed_of_footing (plausibilityTicked_footing s))
  | filterTick => exact answers_due (f := filterTicked) (completed_conclude (gaugesTicked_pins s))
  | stallReport ch => exact answers_concluded (f := stallReported ch) (stallReported_pins s ch)
  | onDebounceExpiry i =>
    exact answers_due (completed_of_footing (whole_footing s fun s => (moving_presented i).telltaleOn s))
  | offDebounceExpiry i =>
    exact answers_due (completed_of_footing (whole_footing s fun s => (moving_presented i).telltaleFallen s))
  | lampNoCurrent ch => exact answers_due (completed_of_footing (lampFails_footing s ch _ _))
  | lampCurrentPresent ch => exact answers_due (completed_of_footing (presented_setLamp s ch .lit).footing)
  | lampOverCurrent ch => exact answers_due (completed_of_footing (lampFails_footing s ch _ _))
  | bulbCheckExpiry =>
    exact answers_due (f := fun s => conclude s.endBulbCheck.reportBulbEnd) (completed_conclude (bulbCheckEnded_pins s))
  | chimeOnExpiry => exact answers_footing (chimeOnEnds_footing s)
  | chimeOffExpiry => exact answers_footing (chimeOffEnds_footing s)
  | chimeNoCurrent => exact answers_footing (chimeFails_footing s)
  | chimeCurrentPresent => exact answers_footing (chimeRecovers_footing s)
  | settleExpiry => exact answers_due (completed_conclude (enterByLevel_pins s))
  | quietExpiry => exact answers_due (completed_conclude (u := s.setQuiet .elapsed) rfl)
  | replyFrameSend => exact answers_footing (sendReply_footing s)
  | replyFrameSent => exact answers_footing (replySent_footing s)
  | replyFrameNotSent => exact answers_footing (replyNotSent_footing s)
  | replyExpiry place => exact answers_footing (f := fun s => s.replyExpired place.val) (replyExpired_footing s _)
  | msCounterAdvance => exact answers_awake (completed_advanceMs s)

/-- Settles O2 by `exec_answers`, pin by pin. -/
theorem everyCommandCompletesAndKeepsTheQueue : Obligations.EveryCommandCompletesAndKeepsTheQueue := by
  intro c s
  obtain ⟨t, h, hpins, -⟩ := exec_answers c s
  obtain ⟨hkeepAlive, hheld, hraw, hpending⟩ := Pins.mk.inj hpins
  exact ⟨t, h, hpending, hkeepAlive, hheld, hraw⟩

/-- Settles O59: an idle step changes nothing, and taking a command from the queue moves nothing before `exec_answers`. -/
theorem stepsLeaveNoMoveUndone : Obligations.StepsLeaveNoMoveUndone := by
  intro s t hs h
  unfold step at h
  split at h
  · cases h; exact hs
  · next c rest _ =>
    obtain ⟨u, hu, -, hsettled⟩ := exec_answers c { s with pending := rest }
    cases h.symm.trans hu
    exact hsettled ⟨hs.homing, hs.standby⟩

end Sys2Proof.Machine
end

section
/-! PROOFS. What the Fault Unit's own operations keep of its laws (R165 to R171): occurrences, offers, writes of slot 127 and clears. -/

namespace Sys2Proof.Machine

/-! ### The laws of the capture (R167) -/

/-- The laws of the capture alone: its class is set, and without a capture the overflow flag is clear (R167). -/
structure Faults.Lawful (f : Faults) : Prop where
  captured : ∀ k, f.capture = some k → f.status[k.faultClass.number] = true
  overflow : f.capture = none → f.overflow = false

theorem Faults.lawful_of_empty {f : Faults} (hcapture : f.capture = none) (hoverflow : f.overflow = false) : f.Lawful :=
  ⟨fun _ hk => absurd (hcapture.symm.trans hk) nofun, fun _ => hoverflow⟩

theorem getElem_set_true {n : Nat} (v : Vector Bool n) (i j : Fin n) (h : v[j] = true) : (v.set i true)[j] = true := by
  simp only [Fin.getElem_fin, Vector.getElem_set] at h ⊢
  split
  · rfl
  · exact h

/-- Steps 1 and 2 of an occurrence set its class before its capture is filled (R166, R167). -/
theorem Faults.Lawful.record {f : Faults} (hf : f.Lawful) (c : FaultClass) (d : FaultDetail) (st : Stamp) (m : Bool) :
    (f.record c d st m).Lawful := by
  unfold Faults.record
  dsimp only
  split
  · exact ⟨fun k hk => getElem_set_true _ _ _ (hf.captured k hk), hf.overflow⟩
  · split
    · next hnone => exact ⟨fun k hk => by cases hk; exact Vector.getElem_set_self .., nofun⟩
    · next k hsome =>
      refine ⟨fun k hk => getElem_set_true _ _ _ (hf.captured k hk), fun hnone => ?_⟩
      rw [hsome] at hnone
      cases hnone

/-- A clear takes the capture with it: the captured class is set and among those that are cleared (R167, R170). -/
def Faults.releases (f : Faults) (p : Fin 16 → Bool) : Bool :=
  match f.capture with
  | none => false
  | some k => f.status[k.faultClass.number] && p k.faultClass.number

theorem clear_eq (f : Faults) (p : Fin 16 → Bool) : f.clear p =
    { status := Vector.ofFn fun c : Fin 16 => f.status[c] && !p c
      capture := if f.releases p then none else f.capture
      overflow := f.overflow && !f.releases p } := by
  unfold Faults.clear Faults.releases
  cases f.capture with
  | none => simp
  | some k =>
    dsimp only
    split
    · next htaken => simp only [htaken, Bool.not_true, Bool.and_false]
    · next hkept => simp only [Bool.eq_false_iff.2 hkept, Bool.not_false, Bool.and_true]

theorem clear_status (f : Faults) (p : Fin 16 → Bool) (c : Fin 16) : (f.clear p).status[c] = (f.status[c] && !p c) := by
  simp [clear_eq]

theorem releases_some {f : Faults} {k : Capture} (h : f.capture = some k) (p : Fin 16 → Bool) :
    f.releases p = (f.status[k.faultClass.number] && p k.faultClass.number) := by
  unfold Faults.releases
  rw [h]

/-- A capture that stays is one whose class stays set (R170). -/
theorem Faults.Lawful.clear {f : Faults} (hf : f.Lawful) (p : Fin 16 → Bool) : (f.clear p).Lawful := by
  refine ⟨fun k hk => ?_, fun hnone => ?_⟩
  all_goals cases hreleases : f.releases p
  · simp only [clear_eq, hreleases, Bool.false_eq_true, if_false] at hk
    rw [releases_some hk, hf.captured k hk, Bool.true_and] at hreleases
    rw [clear_status, hf.captured k hk, hreleases]
    rfl
  · simp [clear_eq, hreleases] at hk
  · simp only [clear_eq, hreleases, Bool.false_eq_true, if_false] at hnone
    simp [clear_eq, hf.overflow hnone]
  · simp [clear_eq, hreleases]

/-! ### The count in slot 127 (R169) -/

/-- Slot 127 holds the number of set, unmasked SEVERE classes, whatever its quality (R169). -/
def State.severeCounted (s : State) : Prop := (s.slot 127).value.toNat = s.severeCount

theorem faultLaws_iff (s : State) : FaultLaws s ↔ s.faults.Lawful ∧ s.severeCounted :=
  ⟨fun h => ⟨⟨h.captured, h.overflow⟩, h.severe⟩, fun ⟨hf, hcounted⟩ => ⟨hf.captured, hf.overflow, hcounted⟩⟩

theorem severeCount_lt (s : State) : s.severeCount < 2 ^ 32 := by
  have hle : s.severeCount ≤ (List.finRange 16).length := List.countP_le_length
  rw [List.length_finRange] at hle
  omega

theorem severeCounted_of_value {s : State} (h : (s.slot 127).value = BitVec.ofNat 32 s.severeCount) : s.severeCounted := by
  unfold State.severeCounted
  rw [h, BitVec.toNat_ofNat, Nat.mod_eq_of_lt (severeCount_lt s)]

theorem severeCounted_of_held {s : State} (h : s.severeHeld) : s.severeCounted := severeCounted_of_value (congrArg Slot.value h)

theorem SevereTold.counted {s t : State} (h : SevereTold s t) : t.severeCounted := by
  obtain ⟨-, hheld⟩ := h
  exact severeCounted_of_held hheld

/-- What the count in slot 127 rests on: the statuses, the policies and the slot's value. -/
def State.severity (s : State) : Vector Bool 16 × Vector FaultPolicy 16 × Word32 :=
  (s.faults.status, s.tables.policy, (s.slot 127).value)

theorem State.severeCounted.of_severity {s t : State} (hs : s.severeCounted) (h : t.severity = s.severity) : t.severeCounted := by
  simp only [State.severity, Prod.mk.injEq] at h
  obtain ⟨hstatus, hpolicy, hvalue⟩ := h
  have hcount : t.countsSevere = s.countsSevere := by
    funext c
    unfold State.countsSevere
    rw [hstatus, hpolicy]
  unfold State.severeCounted State.severeCount at hs ⊢
  rw [hvalue, hcount]
  exact hs

/-! ### The laws from one state to the next -/

/-- An operation keeps the Fault Unit's laws. -/
def FaultsKept (s t : State) : Prop := FaultLaws s → FaultLaws t

/-- The part of the state that the laws read. -/
def State.faultPart (s : State) : Faults × Vector FaultPolicy 16 × Word32 := (s.faults, s.tables.policy, (s.slot 127).value)

theorem FaultsKept.refl (s : State) : FaultsKept s s := id

theorem FaultsKept.trans {s t u : State} (h : FaultsKept s t) (g : FaultsKept t u) : FaultsKept s u := g ∘ h

theorem faultsKept_of_part {s t : State} (h : t.faultPart = s.faultPart) : FaultsKept s t := fun hs => by
  rw [faultLaws_iff] at hs ⊢
  simp only [State.faultPart, Prod.mk.injEq] at h
  obtain ⟨hfaults, hpolicy, hvalue⟩ := h
  exact ⟨hfaults ▸ hs.1, hs.2.of_severity (by simp only [State.severity, hfaults, hpolicy, hvalue])⟩

/-- An operation followed by an update outside that part. -/
theorem FaultsKept.same {s t u : State} (h : FaultsKept s t) (hu : u.faultPart = t.faultPart) : FaultsKept s u :=
  h.trans (faultsKept_of_part hu)

/-- An operation after an update outside that part. -/
theorem FaultsKept.after {s t u : State} (h : FaultsKept u t) (hu : u.faultPart = s.faultPart) : FaultsKept s t :=
  .trans (faultsKept_of_part hu) h

theorem faultsKept_foldl {α : Type} {f : State → α → State} (hf : ∀ s a, FaultsKept s (f s a)) (l : List α) (s : State) :
    FaultsKept s (l.foldl f s) := by
  induction l generalizing s with
  | nil => exact .refl s
  | cons a l ih => exact (hf s a).trans (ih _)

theorem Presented.faultPart {s t : State} (h : Presented s t) : t.faultPart = s.faultPart := by
  rw [h.rest]
  rfl

theorem Presented.faultsKept {s t : State} (h : Presented s t) : FaultsKept s t := faultsKept_of_part h.faultPart

/-- Every slot but slot 127 is outside that part. -/
theorem setSlot_faultPart (s : State) {k : Fin 128} (hk : k ≠ 127) (x : Slot) : (s.setSlot k x).faultPart = s.faultPart := by
  simp only [State.faultPart, State.setSlot_faults, State.setSlot_tables, slot_setSlot, if_neg hk]

theorem decodedSlot_ne_severe (k : Fin 120) : decodedSlot k ≠ 127 := fun h => by
  have := congrArg Fin.val h
  simp only [decodedSlot] at this
  omega

/-! ### Occurrences, offers and writes of slot 127 -/

/-- A reaction keeps the laws of the capture at every elementary change: occurrences alone touch the Fault Unit (R166). -/
theorem faultsLawful_closed : Closed fun s t => s.faults.Lawful → t.faults.Lawful where
  refl _ := id
  trans h g := g ∘ h
  egress _ _ _ _ := id
  record _ c d st m := fun hf => hf.record c d st m
  choices _ _ := id
  severe _ := id
  target _ _ := id
  evaluate s i _ := by rw [(presented_evaluateTelltale s i).rest]; exact id
  seen _ _ := id
  press s := by rw [(presented_press s).rest]; exact id

/-- An occurrence ends with a write of slot 127, or its class was set and the statuses stand (R166, R168). -/
theorem Occurred.severeCounted {s t : State} {c : FaultClass} {d : FaultDetail} (h : Occurred SevereTold s c d t)
    (hs : s.severeCounted) : t.severeCounted := by
  cases h with
  | again hset =>
    refine hs.of_severity ?_
    simp only [State.severity, State.recorded, set_true_of_getElem _ _ hset]
    rfl
  | masked _ _ htold => exact htold.counted
  | noticed _ _ _ htold => exact htold.counted
  | dropped _ _ _ _ htold => exact htold.counted

/-- After a write of slot 127 only the capture's laws are left to ask of the state before it (R169). -/
theorem publishSevere_faultLaws {s : State} (hf : s.faults.Lawful) : FaultLaws (publishSevere s) :=
  (faultLaws_iff _).2 ⟨faultsLawful_closed.publishSevere s hf, (publishSevere_spec s).counted⟩

section
variable (s : State)

theorem raise_faultsKept (c : FaultClass) (d : FaultDetail) : FaultsKept s (raise c d s) := fun hs => by
  rw [faultLaws_iff] at hs ⊢
  obtain ⟨hf, hcounted⟩ := hs
  exact ⟨faultsLawful_closed.raise c d s hf, (raise_spec c d s).occurred.severeCounted hcounted⟩

theorem offer_faultsKept (r : EgressRecord) : FaultsKept s (offer r s) := by
  unfold offer offerWith
  split
  · exact faultsKept_of_part rfl
  · exact raise_faultsKept s _ _

/-- A clear that changes no status leaves the count; any other has it written (R170). -/
theorem clearFaultClasses_faultsKept (classes : Word16) (service : Bool) :
    FaultsKept s (clearFaultClasses classes service s) := fun hs => by
  obtain ⟨hf, hcounted⟩ := (faultLaws_iff s).1 hs
  unfold clearFaultClasses
  dsimp only
  split
  · next hsame =>
    refine (faultLaws_iff _).2 ⟨hf.clear _, hcounted.of_severity ?_⟩
    simp only [State.severity, hsame]
    rfl
  · exact publishSevere_faultLaws (hf.clear _)

theorem resetFaults_faultsKept : FaultsKept s (resetFaults s) := fun _ =>
  publishSevere_faultLaws (Faults.lawful_of_empty rfl rfl)

theorem writePolicy_faultsKept (i : Fin 16) (e : FaultPolicy) : FaultsKept s (writePolicy i e s) := fun hs => by
  obtain ⟨hf, -⟩ := (faultLaws_iff s).1 hs
  exact publishSevere_faultLaws hf

theorem cold_faultsKept (keepAlive held raw : Bool) (n : Nat) (queue : List Instr) :
    FaultsKept s (State.cold keepAlive held raw n queue) := fun _ => by
  refine (faultLaws_iff _).2 ⟨Faults.lawful_of_empty rfl rfl, severeCounted_of_value ?_⟩
  rw [severeCount_cleared rfl]
  rfl

end

/-! ### Events of slots (R18, R37) -/

section
variable (s : State)

theorem reported_faultsKept (c : Change) : FaultsKept c.state (c.reported publishSevere) := by
  refine faultsKept_foldl (fun s r => ?_) c.reports c.state
  cases r with
  | dropped i => exact raise_faultsKept s _ _
  | present => exact offer_faultsKept s _

theorem whole_faultsKept {f : State → Change} (hf : ∀ s, Presented s (f s).state) : FaultsKept s (whole f s) :=
  (hf s).faultsKept.trans (reported_faultsKept (f s))

theorem evaluateReaders_faultsKept (k : Fin 128) : FaultsKept s (evaluateReaders publishSevere k s) := by
  refine faultsKept_foldl (fun s i => ?_) _ s
  split
  · exact whole_faultsKept s (f := fun s => s.evaluateTelltale i) fun s => presented_evaluateTelltale s i
  · exact .refl s

theorem observeAck_faultsKept (k : Fin 128) : FaultsKept s (observeAck publishSevere k s) := by
  have hseen : FaultsKept s (s.setSeen (s.slot k).seen) := faultsKept_of_part rfl
  unfold observeAck
  dsimp only
  split
  · exact hseen.trans (whole_faultsKept _ presented_press)
  · exact hseen

theorem gaugesObserve_faultsKept (k : Fin 128) : FaultsKept s (s.gaugesObserve k) := by
  rw [gaugesObserve_eq]
  exact faultsKept_of_part rfl

theorem deriveFromRoad_faultsKept : FaultsKept s s.deriveFromRoad := by
  refine faultsKept_foldl (fun s x => ?_) _ s
  split <;> exact faultsKept_of_part rfl

theorem runDerived_faultsKept (k : Fin 128) (r : Reader) : FaultsKept s (runDerived publishSevere k r s) := by
  cases r with
  | telltales => exact evaluateReaders_faultsKept s k
  | ack => exact observeAck_faultsKept s k
  | road => exact deriveFromRoad_faultsKept s
  | speed | activity | token | tally | time => exact .refl s

theorem observe_faultsKept {run : Reader → State → State} (hr : ∀ r s, FaultsKept s (run r s)) (readers : List Reader) :
    FaultsKept s (observe run readers s) :=
  observe_induction .refl (fun _ _ _ => .trans) (fun _ _ => faultsKept_of_part rfl) readers s fun r _ s => hr r s

theorem derivedEvent_faultsKept (k : Fin 128) : FaultsKept s (derivedEvent publishSevere k s) :=
  (gaugesObserve_faultsKept s k).trans (observe_faultsKept _ (fun r s => runDerived_faultsKept s k r) _)

/-- The owners of slots 120 to 126 write their own slots, never slot 127 (R37). -/
theorem writeDerived_faultsKept {k : Fin 128} (hk : k ≠ 127) (x : Slot) : FaultsKept s (writeDerived k x s) :=
  (derivedEvent_faultsKept (s.setSlot k x) k).after (setSlot_faultPart s hk x)

theorem writeIgnition_faultsKept : FaultsKept s (writeIgnition s) := writeDerived_faultsKept s (by decide) _

theorem writeSelection_faultsKept : FaultsKept s (writeSelection s) := by
  have hroad : FaultsKept s (writeDerived 120 (s.roadContent s.selectSpeed) (s.setSelection s.selectSpeed)) :=
    (writeDerived_faultsKept (s.setSelection _) (by decide) _).after rfl
  exact hroad.trans (writeDerived_faultsKept _ (by decide) _)

theorem writeRemaining_faultsKept : FaultsKept s (writeRemaining s) := by
  unfold writeRemaining remainingSlots
  simp only [List.foldl_cons, List.foldl_nil]
  exact (((writeDerived_faultsKept s (by decide) _).trans (writeDerived_faultsKept _ (by decide) _)).trans
    (writeDerived_faultsKept _ (by decide) _)).trans (writeDerived_faultsKept _ (by decide) _)

theorem activityEvent_faultsKept (x : CrewPosition) : FaultsKept s (activityEvent x s) := by
  have hderived : FaultsKept s (s.deriveActivity x) := faultsKept_of_part rfl
  unfold activityEvent
  split
  · split
    · exact hderived
    · exact hderived.trans (raise_faultsKept _ _ _)
  · exact .refl s

theorem tokenEvent_faultsKept (x : CrewPosition) (t : Word32) : FaultsKept s (tokenEvent x t s) := by
  unfold tokenEvent
  split
  · exact .refl s
  · next c _ =>
    have hwritten : FaultsKept s (writeRemaining (s.setCrew c)) := (writeRemaining_faultsKept _).after rfl
    exact hwritten.trans (offer_faultsKept _ _)

theorem tallyEvent_faultsKept (x : CrewPosition) (k : TallyCounter) (m : Word32) : FaultsKept s (tallyEvent x k m s) := by
  unfold tallyEvent
  split
  · exact .refl s
  · have hset : FaultsKept s (s.setCrew (s.crew.updateAttached x (CrewRecord.tally s.tables.crew k (tallySeconds m)))) :=
      faultsKept_of_part rfl
    dsimp only
    split
    · refine (hset.trans ?_).trans (writeRemaining_faultsKept _)
      split
      · exact .refl _
      · exact raise_faultsKept _ _ _
    · exact hset

theorem runDecoded_faultsKept (k : Fin 120) (r : Reader) : FaultsKept s (runDecoded k r s) := by
  cases r with
  | telltales => exact evaluateReaders_faultsKept s _
  | ack => exact observeAck_faultsKept s _
  | road => exact .refl s
  | speed => exact writeSelection_faultsKept s
  | activity x => exact activityEvent_faultsKept s x
  | token x => exact tokenEvent_faultsKept s x _
  | tally x c => exact tallyEvent_faultsKept s x c _
  | time => exact faultsKept_of_part rfl

theorem decodedEvent_faultsKept (c : SlotChange) (k : Fin 120) : FaultsKept s (decodedEvent c k s) :=
  (gaugesObserve_faultsKept s _).trans (observe_faultsKept _ (fun r s => runDecoded_faultsKept s k r) _)

/-- An event of a decoded slot after the slot and its timers have changed (R18). -/
theorem slotChanged_faultsKept (c : SlotChange) (k : Fin 120) (x : Slot) (hold stale : Timer) :
    FaultsKept s (decodedEvent c k ((s.setSlot (decodedSlot k) x).setSlotTimers k hold stale)) :=
  (decodedEvent_faultsKept ((s.setSlot (decodedSlot k) x).setSlotTimers k hold stale) c k).after
    (setSlot_faultPart s (decodedSlot_ne_severe k) x)

end

end Sys2Proof.Machine
end

section
/-! PROOFS. What the operations of the other blocks keep of the Fault Unit's laws (R167, R169): the moves of the part, the channels' work,
expiries, frames, resets and the writes of entries. Each leaves the faults, the policies and slot 127 as they stand, but for the
occurrences, offers and slot events that it makes. -/

namespace Sys2Proof.Machine

section
variable (s : State)

/-! ### Updates outside the part that the laws read -/

@[simp] theorem setLamp_faultPart (ch : Fin 32) (l : LampState) : (s.setLamp ch l).faultPart = s.faultPart := rfl
@[simp] theorem setBulbCheck_faultPart (t : Timer) : (s.setBulbCheck t).faultPart = s.faultPart := rfl
@[simp] theorem reportBulbEnd_faultPart : s.reportBulbEnd.faultPart = s.faultPart := rfl
@[simp] theorem setRing_faultPart (r : PairRing) (a : ArbitrationState) : (s.setRing r a).faultPart = s.faultPart := rfl
@[simp] theorem setPlausibility_faultPart (t : Timer) : (s.setPlausibility t).faultPart = s.faultPart := rfl
@[simp] theorem setSilence_faultPart (x : Silence) : (s.setSilence x).faultPart = s.faultPart := rfl
@[simp] theorem timeHomingEntry_faultPart : s.timeHomingEntry.faultPart = s.faultPart := rfl
@[simp] theorem timeStandbyEntry_faultPart : s.timeStandbyEntry.faultPart = s.faultPart := rfl
@[simp] theorem setPart_faultPart (p : PartState) : (s.setPart p).faultPart = s.faultPart := rfl
@[simp] theorem startSettle_faultPart : s.startSettle.faultPart = s.faultPart := rfl
@[simp] theorem setCrew_faultPart (c : Crew) : (s.setCrew c).faultPart = s.faultPart := rfl
@[simp] theorem setSnapshotCounter_faultPart (n : Nat) : (s.setSnapshotCounter n).faultPart = s.faultPart := rfl
@[simp] theorem setChannel_faultPart (ch : Fin 6) (c : Channel) : (s.setChannel ch c).faultPart = s.faultPart := rfl
@[simp] theorem mapChannels_faultPart (f : Channel → GaugeEntry → Channel) : (s.mapChannels f).faultPart = s.faultPart := rfl
@[simp] theorem setFilterTick_faultPart (t : Timer) : (s.setFilterTick t).faultPart = s.faultPart := rfl
@[simp] theorem reportGauges_faultPart : s.reportGauges.faultPart = s.faultPart := rfl

@[simp] theorem startFilterTick_faultPart : s.startFilterTick.faultPart = s.faultPart := by
  unfold State.startFilterTick
  split
  · exact setFilterTick_faultPart s _
  · rfl

@[simp] theorem reportChanges_faultPart (before : State) : (s.reportChanges before).faultPart = s.faultPart := by
  unfold State.reportChanges
  split
  · rfl
  · exact reportGauges_faultPart s

/-! ### Telltales and lamps (R80, R86, R87, R92, R94, R97) -/

theorem eachTelltale_faultsKept {f : State → Fin 64 → Change} (hf : ∀ s i, Presented s (f s i).state) :
    FaultsKept s (eachTelltale f s) := faultsKept_foldl (fun s i => whole_faultsKept s fun s => hf s i) _ s

theorem freshTelltales_faultsKept (before : PartState) : FaultsKept s (freshTelltales before s) := by
  refine eachTelltale_faultsKept s fun s i => ?_
  split
  · exact presented_evaluateFresh s i
  · exact .refl s

theorem backupOffers_faultsKept (ch : Fin 32) : FaultsKept s (backupOffers ch s) := by
  refine faultsKept_foldl (fun s i => ?_) _ s
  dsimp only
  split
  · exact whole_faultsKept s fun s => (moving_presented i).offerPresentation s i .backup _
  · exact .refl s

theorem lampFails_faultsKept (ch : Fin 32) (l : LampState) (c : FaultClass) : FaultsKept s (lampFails ch l c s) :=
  ((raise_faultsKept _ c _).after (setLamp_faultPart s ch l)).trans (backupOffers_faultsKept _ ch)

theorem telltaleWritten_faultsKept (i : Fin 64) (lampBefore : Option (Fin 32)) :
    FaultsKept s (telltaleWritten i lampBefore s) := by
  have hoff : FaultsKept s (whole (fun s => ((s.setCondition i false).telltaleOff i).andThen fun s =>
      s.recomputeNamed lampBefore) s) := whole_faultsKept s fun s =>
    ((presented_setCondition s i false).trans ((moving_presented i).telltaleOff _)).trans (presented_recomputeNamed _ _)
  unfold telltaleWritten
  dsimp only
  split
  · exact hoff.trans (whole_faultsKept _ fun s => presented_evaluateFresh s i)
  · exact hoff

theorem resetTelltales_faultsKept : FaultsKept s (resetTelltales s) := by
  have hcleared : FaultsKept s ((eachTelltale State.telltaleCleared s).mapLamps LampState.clear) :=
    (eachTelltale_faultsKept s presented_telltaleCleared).trans (presented_mapLamps _ _).faultsKept
  unfold resetTelltales
  refine (hcleared.trans (eachTelltale_faultsKept _ fun s i => ?_)).trans (presented_recomputeLamps _).faultsKept
  split
  · exact presented_evaluateFresh s i
  · exact .refl s

theorem endBulbCheck_faultsKept : FaultsKept s s.endBulbCheck :=
  (presented_recomputeLamps _).faultsKept.after (setBulbCheck_faultPart s none)

theorem startBulbCheck_faultsKept : FaultsKept s s.startBulbCheck := by
  have hlamps : ∀ x : Timer, FaultsKept s (((s.mapLamps LampState.release).setBulbCheck x).recomputeLamps) := fun x =>
    (presented_mapLamps s _).faultsKept.trans ((presented_recomputeLamps _).faultsKept.after (setBulbCheck_faultPart _ x))
  unfold State.startBulbCheck
  dsimp only
  split
  · exact (hlamps none).same (reportBulbEnd_faultPart _)
  · exact hlamps _

/-! ### Speed, gauges and crew -/

theorem sampleSpeed_faultsKept : FaultsKept s (sampleSpeed s) := by
  unfold sampleSpeed
  dsimp only
  split
  · split
    · split
      · exact (raise_faultsKept _ _ _).after (setRing_faultPart s _ _)
      · exact faultsKept_of_part rfl
    · exact faultsKept_of_part rfl
  · exact faultsKept_of_part rfl

theorem plausibilityTicked_faultsKept : FaultsKept s (plausibilityTicked s) :=
  ((sampleSpeed_faultsKept _).after (setPlausibility_faultPart s _)).trans (writeSelection_faultsKept _)

theorem tickChannel_faultsKept (ch : Fin 6) : FaultsKept s (tickChannel ch s) := by
  unfold tickChannel
  split
  · unfold tickHoming
    dsimp only
    split
    · exact ((raise_faultsKept _ _ _).after (setChannel_faultPart s ch _)).same (setChannel_faultPart _ ch _)
    · exact faultsKept_of_part rfl
  · exact faultsKept_of_part rfl
  · exact faultsKept_of_part rfl
  all_goals exact .refl s

theorem tickChannels_faultsKept : FaultsKept s (tickChannels s) :=
  faultsKept_foldl (fun s ch => tickChannel_faultsKept s ch) _ s

theorem stallReported_faultsKept (ch : Fin 6) : FaultsKept s (stallReported ch s) := by
  have htaken : FaultsKept s (takeStall ch s) := by
    unfold takeStall
    split
    · exact faultsKept_of_part rfl
    · exact (raise_faultsKept s _ _).same (setChannel_faultPart _ ch _)
    · exact (raise_faultsKept s _ _).same (setChannel_faultPart _ ch _)
    all_goals exact .refl s
  unfold stallReported
  split
  · exact htaken.same (reportGauges_faultPart _)
  · exact .refl s

theorem advanceSnapshot_faultsKept : FaultsKept s (advanceSnapshot s) := by
  unfold advanceSnapshot
  dsimp only
  split
  · exact faultsKept_of_part rfl
  · split
    · exact (offer_faultsKept s s.snapshot).same (setSnapshotCounter_faultPart _ 0)
    · exact faultsKept_of_part rfl

theorem accountingTick_faultsKept : FaultsKept s (accountingTick s) :=
  ((writeRemaining_faultsKept _).after (setCrew_faultPart s _)).trans (advanceSnapshot_faultsKept _)

/-! ### Moves of the part (R152 to R162) -/

/-- Warm start and SLEEP entry write slot 127 with the count that stands (R172). -/
theorem Quieted.faultsKept {s t : State} (h : Quieted s t) : FaultsKept s t := fun hs => by
  obtain ⟨hf, -⟩ := (faultLaws_iff s).1 hs
  refine (faultLaws_iff t).2 ⟨by rw [h.faults]; exact hf, severeCounted_of_value ?_⟩
  rw [h.severe, severeCount_congr h.faults h.tables]

theorem warmStart_faultsKept : FaultsKept s s.warmStart := by
  refine .trans ?_ (warmStart_spec s).toQuieted.faultsKept
  split <;> exact faultsKept_of_part rfl

theorem conclude_faultsKept : FaultsKept s (conclude s) := by
  have h := conclude_spec s
  unfold Concluded at h
  split at h
  · rw [h]; exact faultsKept_of_part rfl
  · split at h
    · exact h.toQuieted.faultsKept
    · rw [h]; exact .refl s

theorem homingEntry_faultsKept : FaultsKept s (homingEntry s) := by
  have hbegun : FaultsKept s s.timeHomingEntry.gaugesHomingEntry :=
    faultsKept_of_part (by simp [State.gaugesHomingEntry])
  exact ((hbegun.trans (startBulbCheck_faultsKept _)).trans (freshTelltales_faultsKept _ _)).same
    (setPlausibility_faultPart _ _)

theorem standbyEntry_faultsKept : FaultsKept s (standbyEntry s) := by
  have hbegun : FaultsKept s ((s.timeStandbyEntry.setSilence .cold).speedStandby).gaugesStandbyEntry :=
    faultsKept_of_part (by simp [State.gaugesStandbyEntry, State.speedStandby])
  unfold standbyEntry telltalesStandbyEntry
  exact ((hbegun.trans (eachTelltale_faultsKept _ presented_telltaleStandby)).trans
    (freshTelltales_faultsKept _ _)).trans (endBulbCheck_faultsKept _)

theorem enterByLevel_faultsKept : FaultsKept s (enterByLevel s) := by
  unfold enterByLevel
  split
  · exact homingEntry_faultsKept s
  · exact standbyEntry_faultsKept s

theorem wakingEntry_faultsKept : FaultsKept s (wakingEntry s) := by
  have hcredit : FaultsKept s (wakeCredit (s.setPart .waking)) :=
    (writeRemaining_faultsKept _).after ((setCrew_faultPart _ _).trans (setPart_faultPart s _))
  exact (hcredit.trans (writeIgnition_faultsKept _)).same (startSettle_faultPart _)

theorem startPart_faultsKept : FaultsKept s (startPart s) := by
  unfold startPart
  split
  · exact (enterByLevel_faultsKept _).after rfl
  · exact .refl s

theorem takeIgnitionOn_faultsKept : FaultsKept s (takeIgnitionOn s) := by
  unfold takeIgnitionOn
  split
  · exact .refl s
  · split
    · exact wakingEntry_faultsKept s
    · exact ((writeIgnition_faultsKept s).trans (homingEntry_faultsKept _)).trans (conclude_faultsKept _)
    all_goals exact writeIgnition_faultsKept s

theorem takeIgnitionOff_faultsKept : FaultsKept s (takeIgnitionOff s) := by
  unfold takeIgnitionOff
  split
  · exact .refl s
  · cases s.time.part with
    | homing | run =>
      exact ((writeIgnition_faultsKept s).trans (standbyEntry_faultsKept _)).trans (conclude_faultsKept _)
    | unconfigured | waking | standby => exact writeIgnition_faultsKept s
    | sleep => exact .refl s

/-- A filter tick: the channels' work, the report of their changes, the end of the event (R56, R71). -/
theorem filterTicked_faultsKept : FaultsKept s (filterTicked s) := by
  have hworked : FaultsKept s (tickChannels (s.setFilterTick (some Config.filterInterval))) :=
    (tickChannels_faultsKept _).after (setFilterTick_faultPart s _)
  exact (hworked.same (reportChanges_faultPart _ s)).trans (conclude_faultsKept _)

/-! ### Slots and frames -/

theorem goStale_faultsKept (k : Fin 120) : FaultsKept s (goStale k s) := by
  have hstale := slotChanged_faultsKept s .quality k { s.slot (decodedSlot k) with quality := .stale } none none
  unfold goStale
  dsimp only
  split
  · exact hstale.trans (raise_faultsKept _ _ _)
  · exact hstale

theorem goHeld_faultsKept (k : Fin 120) : FaultsKept s (goHeld k s) := by
  unfold goHeld
  dsimp only
  split
  · exact goStale_faultsKept s k
  · exact slotChanged_faultsKept s .quality k _ _ _

theorem runMapEntry_faultsKept (f : Frame) (m : Fin 192) : FaultsKept s (runMapEntry f m s) := by
  unfold runMapEntry codeUpdate valueUpdate
  dsimp only
  split
  · split
    · exact raise_faultsKept s _ _
    · split <;> exact slotChanged_faultsKept s _ _ _ _ _
  · exact .refl s

theorem runMapRange_faultsKept (f : Frame) (first count : Nat) : FaultsKept s (runMapRange f first count s) := by
  refine faultsKept_foldl (fun s m => ?_) _ s
  split
  · exact runMapEntry_faultsKept s f m
  · exact .refl s

theorem forwardFrame_faultsKept (i : Fin 96) (f : Frame) : FaultsKept s (forwardFrame i f s) := by
  unfold forwardFrame
  split
  · split
    · exact .refl s
    · exact offer_faultsKept s _
    · split
      · exact .refl s
      · split
        · exact faultsKept_of_part rfl
        · exact offer_faultsKept s _
  · exact .refl s

/-- One ms ages every slot and keeps its value (R35). -/
theorem advanceMs_faultsKept : FaultsKept s s.advanceMs := by
  refine faultsKept_of_part ?_
  have hvalue : (s.advanceMs.slot 127).value = (s.slot 127).value := by
    simp [State.advanceMs, State.slot, Store.tick, Slot.age1]
  simp only [State.faultPart, hvalue]
  rfl

/-! ### The chime -/

theorem chimeOnEnds_faultsKept : FaultsKept s s.chimeOnEnds := by
  unfold State.chimeOnEnds
  split <;> exact faultsKept_of_part rfl

theorem chimeOffEnds_faultsKept : FaultsKept s s.chimeOffEnds := by
  unfold State.chimeOffEnds
  split
  · exact (presented_completeBurst s _).faultsKept
  all_goals exact .refl s

theorem chimeFails_faultsKept : FaultsKept s (chimeFails s) := by
  unfold chimeFails
  split
  · exact (raise_faultsKept (s.setLoad .open) _ _).after rfl
  all_goals exact .refl s

theorem chimeRecovers_faultsKept : FaultsKept s s.chimeRecovers := by
  unfold State.chimeRecovers
  split <;> exact faultsKept_of_part rfl

/-! ### Section resets -/

theorem resetPresentation_faultsKept : FaultsKept s (resetPresentation s) := by
  have hcleared : FaultsKept s s.presentationCleared := faultsKept_of_part (by
    simp only [State.faultPart, State.presentationCleared, State.forgetHeld, State.slot])
  unfold resetPresentation
  split
  · exact hcleared
  · exact hcleared.trans (offer_faultsKept _ _)

theorem resetSection_faultsKept (x : Section) : FaultsKept s (resetSection x s) := by
  cases x with
  | intake => rw [resetSection, resetIntake_eq]; exact faultsKept_of_part rfl
  | signals => exact faultsKept_foldl (fun s k => slotChanged_faultsKept s .quality k _ none none) _ s
  | speed => exact (writeSelection_faultsKept s.relearn).after rfl
  | gauges => exact faultsKept_of_part ((reportChanges_faultPart _ s).trans (mapChannels_faultPart s _))
  | telltales => exact resetTelltales_faultsKept s
  | presentation => exact resetPresentation_faultsKept s
  | crew =>
    have hwritten : FaultsKept s (writeRemaining s.crewEmptied) := (writeRemaining_faultsKept _).after rfl
    rw [resetSection, resetCrewSection_eq]
    exact hwritten.trans (offer_faultsKept _ _)
  | faults => exact resetFaults_faultsKept s

/-! ### Port B (R184) -/

theorem sendReply_faultsKept : FaultsKept s s.sendReply := by
  unfold State.sendReply
  split <;> exact faultsKept_of_part rfl

theorem replySent_faultsKept : FaultsKept s s.replySent := by
  unfold State.replySent
  split
  · exact .refl s
  · split <;> exact faultsKept_of_part rfl

theorem replyNotSent_faultsKept : FaultsKept s s.replyNotSent := by
  unfold State.replyNotSent
  split <;> exact faultsKept_of_part rfl

theorem replyExpired_faultsKept (place : Nat) : FaultsKept s (s.replyExpired place) := by
  unfold State.replyExpired
  split
  · exact .refl s
  · split <;> exact faultsKept_of_part rfl

end

/-! ### Entry writes -/

theorem writeSystemConfig_faultsKept (s : State) (e : SystemConfig) (w : Written) :
    FaultsKept s (writeSystemConfig e w s) := by
  have hset : FaultsKept s (if w.covers 5 then (s.setTables { s.tables with system := e }).resetDetector
      else s.setTables { s.tables with system := e }) := by split <;> exact faultsKept_of_part rfl
  unfold writeSystemConfig
  dsimp only
  split
  · exact hset.trans ((writeSelection_faultsKept (State.relearn _)).after rfl)
  · exact hset

theorem accept_faultsKept {α : Type} {o : Option α} {ok : α → Bool} {write : α → State} {s u : State}
    (h : accept o ok write = .ok u) (hw : ∀ e, FaultsKept s (write e)) : FaultsKept s u := by
  unfold accept at h
  split at h
  · cases h
  · split at h <;> cases h
    exact hw _

/-- A write of an entry keeps the laws: Fault Policy writes slot 127 anew (R164), and no other entry is one that the laws read. -/
theorem writeEntry_faultsKept {t : TableId} {k : Nat} {l : List Byte} {w : Written} {s u : State}
    (h : writeEntry t k l w s = .ok u) : FaultsKept s u := by
  unfold writeEntry at h
  cases t with
  | intake => dsimp only at h; split at h; exacts [(nomatch h), accept_faultsKept h fun _ => faultsKept_of_part rfl]
  | map => dsimp only at h; split at h; exacts [(nomatch h), accept_faultsKept h fun _ => faultsKept_of_part rfl]
  | slotConfig =>
    dsimp only at h; split at h
    exacts [(nomatch h), accept_faultsKept h fun _ => (slotChanged_faultsKept (s.setTables _) .quality _ _ none none).after rfl]
  | curve =>
    dsimp only at h; split at h
    exacts [(nomatch h), faultsKept_of_part (of_acceptCurve h fun _ => rfl)]
  | gauge => dsimp only at h; split at h; exacts [(nomatch h), accept_faultsKept h fun _ => faultsKept_of_part rfl]
  | telltale =>
    dsimp only at h; split at h
    exacts [(nomatch h), accept_faultsKept h fun _ => (telltaleWritten_faultsKept (s.setTables _) _ _).after rfl]
  | chime =>
    dsimp only at h; split at h
    exacts [(nomatch h), accept_faultsKept h fun _ => (presented_choose _).faultsKept.after rfl]
  | crewConfig =>
    dsimp only at h; split at h
    exacts [(nomatch h), accept_faultsKept h fun _ => (writeRemaining_faultsKept _).after rfl]
  | systemConfig =>
    dsimp only at h; split at h
    exacts [(nomatch h), accept_faultsKept h fun e => writeSystemConfig_faultsKept s e w]
  | faultPolicy =>
    dsimp only at h; split at h
    exacts [(nomatch h), accept_faultsKept h fun e => writePolicy_faultsKept s _ e]

theorem EntryWritten.faultsKept {s u : State} (h : EntryWritten s u) : FaultsKept s u := by
  obtain ⟨t, k, l, w, h⟩ := h
  exact writeEntry_faultsKept h

end Sys2Proof.Machine
end

section
/-! PROOFS. Every step keeps the Fault Unit's laws (R167, R169). -/

namespace Sys2Proof.Machine

/-! ### Requests, frames and transfers -/

section
variable (s : State)

theorem reply_faultsKept (code : Byte) (tag : Word16) (r : ReplyStatus) (data : List Byte) :
    FaultsKept s (reply code tag r data s) := offer_faultsKept s _

theorem refuse_faultsKept (code : Byte) (tag : Word16) (r : ReplyStatus) : FaultsKept s (refuse code tag r s) :=
  (raise_faultsKept s _ _).trans (reply_faultsKept _ code tag r [])

theorem answerWrite_faultsKept (code : Byte) (tag : Word16) {r : Except ReplyStatus State}
    (hr : ∀ u, r = .ok u → EntryWritten s u) : FaultsKept s (answerWrite code tag r s) := by
  cases r with
  | error e => exact refuse_faultsKept s code tag e
  | ok u => exact (hr u rfl).faultsKept.trans (reply_faultsKept u code tag .ok [])

theorem answerRead_faultsKept (code : Byte) (tag : Word16) (r : Except ReplyStatus (List Byte)) :
    FaultsKept s (answerRead code tag r s) := by
  cases r with
  | error e => exact refuse_faultsKept s code tag e
  | ok l => exact reply_faultsKept s code tag .ok l

theorem requestLoad_faultsKept (tag : Word16) (table index : Byte) (entry : List Byte) :
    FaultsKept s (requestLoad tag table index entry s) := answerWrite_faultsKept s 1 tag fun _ => loadEntry_written

theorem requestSetField_faultsKept (tag : Word16) (table index field : Byte) (value : Word32) :
    FaultsKept s (requestSetField tag table index field value s) := by
  refine answerWrite_faultsKept s 3 tag fun u h => ?_
  split at h
  · cases h
  · exact namedField_written h

theorem requestReset_faultsKept (tag : Word16) (x : Section) : FaultsKept s (requestReset tag x s) :=
  (resetSection_faultsKept s x).trans (reply_faultsKept _ 7 tag .ok [])

theorem requestClearFaults_faultsKept (tag classes : Word16) : FaultsKept s (requestClearFaults tag classes s) :=
  (clearFaultClasses_faultsKept s classes false).trans (reply_faultsKept _ 6 tag _ _)

theorem requestStart_faultsKept (tag : Word16) : FaultsKept s (requestStart tag s) :=
  (startPart_faultsKept s).trans (reply_faultsKept _ 8 tag .ok [])

theorem requestWarmReset_faultsKept (tag : Word16) : FaultsKept s (requestWarmReset tag s) :=
  .trans (reply_faultsKept s 9 tag .ok []) (warmStart_faultsKept _)

theorem unlessBusy_faultsKept {handle : State → State} (h : FaultsKept s (handle s)) :
    FaultsKept s (unlessBusy s handle) := by
  unfold unlessBusy
  split
  · exact raise_faultsKept s _ _
  · exact h

theorem refuseService_faultsKept (a : ReplyAddress) (code : Byte) (r : ReplyStatus) :
    FaultsKept s (refuseService a code r s) := (raise_faultsKept s _ _).same rfl

theorem serviceSetField_faultsKept (a : ReplyAddress) (table index field : Byte) (value : Word32) :
    FaultsKept s (serviceSetField a table index field value s) := by
  refine unlessBusy_faultsKept s ?_
  split
  · exact refuseService_faultsKept s a 3 _
  · next hw => exact (serviceWrite_written hw).faultsKept.same rfl

theorem serviceReadField_faultsKept (a : ReplyAddress) (table index field : Byte) :
    FaultsKept s (serviceReadField a table index field s) := by
  refine unlessBusy_faultsKept s ?_
  split
  · exact refuseService_faultsKept s a 4 _
  · exact faultsKept_of_part rfl

theorem serviceClearFaults_faultsKept (a : ReplyAddress) (classes : Word16) :
    FaultsKept s (serviceClearFaults a classes s) :=
  unlessBusy_faultsKept s ((clearFaultClasses_faultsKept s classes true).same rfl)

theorem serviceReadFaults_faultsKept (a : ReplyAddress) : FaultsKept s (serviceReadFaults a s) :=
  unlessBusy_faultsKept s (faultsKept_of_part rfl)

theorem serviceFrame_faultsKept (a : ReplyAddress) (data : List Byte) : FaultsKept s (serviceFrame a data s) := by
  unfold serviceFrame
  split
  · exact serviceSetField_faultsKept s a _ _ _ _
  · exact serviceReadField_faultsKept s a _ _ _
  · exact serviceClearFaults_faultsKept s a _
  · exact serviceReadFaults_faultsKept s a
  all_goals exact unlessBusy_faultsKept s (refuseService_faultsKept s a _ _)

theorem frameArrived_faultsKept (f : Frame) : FaultsKept s (frameArrived f s) := by
  have hseen : FaultsKept s (s.matchedFrame f.port) := faultsKept_of_part (by rw [matchedFrame_eq]; rfl)
  unfold frameArrived actOnFrame
  split
  · exact .refl s
  · split
    · exact .refl s
    · dsimp only
      split
      · exact (hseen.trans (runMapRange_faultsKept _ f _ _)).trans (forwardFrame_faultsKept _ _ f)
      · exact hseen.trans (serviceFrame_faultsKept _ _ _)

theorem dispatch_faultsKept (code : Byte) (tag : Word16) (args : List Byte) : FaultsKept s (dispatch code tag args s) := by
  unfold dispatch
  split
  · exact requestLoad_faultsKept s tag _ _ _
  · exact answerRead_faultsKept s 2 tag _
  · exact requestSetField_faultsKept s tag _ _ _ _
  · exact answerRead_faultsKept s 4 tag _
  · exact answerRead_faultsKept s 5 tag _
  · exact requestClearFaults_faultsKept s tag _
  · split
    · exact refuse_faultsKept s 7 tag .range
    · exact requestReset_faultsKept s tag _
  · exact requestStart_faultsKept s tag
  · exact requestWarmReset_faultsKept s tag
  · exact refuse_faultsKept s code tag .range

theorem transfer_faultsKept (u : List Byte) : FaultsKept s (transfer u s) := by
  have hsent : FaultsKept s s.sendDownstream := faultsKept_of_part (by unfold State.sendDownstream; split <;> rfl)
  refine hsent.trans ?_
  unfold transfer handleUpstream handlePayload
  split
  · split
    · exact .refl _
    · split
      · exact dispatch_faultsKept _ _ _ _
      all_goals exact refuse_faultsKept _ _ _ _
  · exact raise_faultsKept _ _ _

end

/-! ### Every command -/

section
variable {f : State → State} {s t : State}

theorem onAwake_faultsKept (h : onAwake f s = .next t) (hf : FaultsKept s (f s)) : FaultsKept s t := by
  cases h
  split
  · exact hf
  · exact .refl s

/-- The same for one that acts only on a condition. -/
theorem onAwake_faultsKept_if {p : State → Bool} (h : onAwake (fun s => if p s = true then f s else s) s = .next t)
    (hf : FaultsKept s (f s)) : FaultsKept s t := onAwake_faultsKept h (by split; exacts [hf, .refl s])

end

/-- Every command keeps the laws: a clear, a reset of the faults and a policy write by the write of slot 127 that follows them, every
other command because it reaches the Fault Unit by occurrences alone. -/
theorem exec_faultsKept {c : Instr} {s t : State} (h : exec c s = .next t) : FaultsKept s t := by
  unfold exec at h
  cases c with
  | coldStart => cases h; exact (cold_faultsKept s _ _ _ _ _).trans (raise_faultsKept _ _ _)
  | keepAliveRemoval => cases h; exact cold_faultsKept s _ _ _ _ _
  | resetInputAssert => cases h; exact faultsKept_of_part rfl
  | resetInputRelease =>
    cases h
    split
    · split
      · exact (warmStart_faultsKept { s with resetHeld := false }).after rfl
      · exact faultsKept_of_part rfl
    · exact .refl s
  | ignitionSenseChange level => cases h; split <;> exact faultsKept_of_part rfl
  | ignitionOn => cases h; split; exacts [(takeIgnitionOn_faultsKept (s.setIgnition true)).after rfl, .refl s]
  | ignitionOff => cases h; split; exacts [(takeIgnitionOff_faultsKept (s.setIgnition false)).after rfl, .refl s]
  | portBFrameStart => cases h; split; exacts [wakingEntry_faultsKept s, .refl s]
  | monotonicAdvance =>
    cases h
    split
    · split
      · exact (accountingTick_faultsKept s.advanceSeconds).after rfl
      · exact faultsKept_of_part rfl
    · exact .refl s
  | linkTransfer u =>
    cases h
    split
    · split
      · exact (transfer_faultsKept s u).trans (conclude_faultsKept _)
      · exact faultsKept_of_part rfl
    · exact .refl s
  | frameArrival f => exact onAwake_faultsKept h ((frameArrived_faultsKept s f).trans (conclude_faultsKept _))
  | load tag table index entry =>
    exact onAwake_faultsKept h ((requestLoad_faultsKept s tag _ _ _).trans (conclude_faultsKept _))
  | setField tag table index field value =>
    exact onAwake_faultsKept h ((requestSetField_faultsKept s tag _ _ _ _).trans (conclude_faultsKept _))
  | read tag table index => exact onAwake_faultsKept h (answerRead_faultsKept s 2 tag _)
  | readField tag table index field => exact onAwake_faultsKept h (answerRead_faultsKept s 4 tag _)
  | state tag target index => exact onAwake_faultsKept h (answerRead_faultsKept s 5 tag _)
  | clearFaults tag classes => exact onAwake_faultsKept h (requestClearFaults_faultsKept s tag classes)
  | intakeSectionReset tag => exact onAwake_faultsKept h (requestReset_faultsKept s tag .intake)
  | signalsSectionReset tag => exact onAwake_faultsKept h (requestReset_faultsKept s tag .signals)
  | speedSectionReset tag => exact onAwake_faultsKept h (requestReset_faultsKept s tag .speed)
  | gaugesSectionReset tag =>
    exact onAwake_faultsKept h ((requestReset_faultsKept s tag .gauges).trans (conclude_faultsKept _))
  | telltalesSectionReset tag => exact onAwake_faultsKept h (requestReset_faultsKept s tag .telltales)
  | presentationSectionReset tag => exact onAwake_faultsKept h (requestReset_faultsKept s tag .presentation)
  | crewSectionReset tag => exact onAwake_faultsKept h (requestReset_faultsKept s tag .crew)
  | faultsSectionReset tag => exact onAwake_faultsKept h (requestReset_faultsKept s tag .faults)
  | start tag => exact onAwake_faultsKept h ((requestStart_faultsKept s tag).trans (conclude_faultsKept _))
  | warmReset tag => exact onAwake_faultsKept h (requestWarmReset_faultsKept s tag)
  | serviceSetField a table index field value => exact onAwake_faultsKept h (serviceSetField_faultsKept s a _ _ _ _)
  | serviceReadField a table index field => exact onAwake_faultsKept h (serviceReadField_faultsKept s a _ _ _)
  | serviceClearFaults a classes => exact onAwake_faultsKept h (serviceClearFaults_faultsKept s a classes)
  | readFaults a => exact onAwake_faultsKept h (serviceReadFaults_faultsKept s a)
  | silenceExpiry p =>
    exact onAwake_faultsKept_if h ((raise_faultsKept (s.openEpisode p) _ _).after (by cases p <;> rfl))
  | holdExpiry k => exact onAwake_faultsKept_if h (goHeld_faultsKept s k)
  | staleExpiry k => exact onAwake_faultsKept_if h (goStale_faultsKept s k)
  | plausibilityTick => exact onAwake_faultsKept_if h (plausibilityTicked_faultsKept s)
  | filterTick => exact onAwake_faultsKept_if h (filterTicked_faultsKept s)
  | stallReport ch => exact onAwake_faultsKept h ((stallReported_faultsKept s ch).trans (conclude_faultsKept _))
  | onDebounceExpiry i => exact onAwake_faultsKept_if h (whole_faultsKept s fun s => (moving_presented i).telltaleOn s)
  | offDebounceExpiry i =>
    exact onAwake_faultsKept_if h (whole_faultsKept s fun s => (moving_presented i).telltaleFallen s)
  | lampNoCurrent ch => exact onAwake_faultsKept_if h (lampFails_faultsKept s ch _ _)
  | lampCurrentPresent ch => exact onAwake_faultsKept_if h (faultsKept_of_part rfl)
  | lampOverCurrent ch => exact onAwake_faultsKept_if h (lampFails_faultsKept s ch _ _)
  | bulbCheckExpiry =>
    exact onAwake_faultsKept_if h (((endBulbCheck_faultsKept s).same (reportBulbEnd_faultPart _)).trans (conclude_faultsKept _))
  | chimeOnExpiry => exact onAwake_faultsKept h (chimeOnEnds_faultsKept s)
  | chimeOffExpiry => exact onAwake_faultsKept h (chimeOffEnds_faultsKept s)
  | chimeNoCurrent => exact onAwake_faultsKept h (chimeFails_faultsKept s)
  | chimeCurrentPresent => exact onAwake_faultsKept h (chimeRecovers_faultsKept s)
  | settleExpiry => exact onAwake_faultsKept_if h ((enterByLevel_faultsKept s).trans (conclude_faultsKept _))
  | quietExpiry => exact onAwake_faultsKept_if h ((conclude_faultsKept (s.setQuiet .elapsed)).after rfl)
  | replyFrameSend => exact onAwake_faultsKept h (sendReply_faultsKept s)
  | replyFrameSent => exact onAwake_faultsKept h (replySent_faultsKept s)
  | replyFrameNotSent => exact onAwake_faultsKept h (replyNotSent_faultsKept s)
  | replyExpiry place => exact onAwake_faultsKept h (replyExpired_faultsKept s _)
  | msCounterAdvance => exact onAwake_faultsKept h (advanceMs_faultsKept s)

/-- Settles O54: an idle step changes nothing, and a command keeps the laws by `exec_faultsKept`. -/
theorem stepsKeepTheFaultLaws : Obligations.StepsKeepTheFaultLaws := by
  intro s t hs h
  unfold step at h
  split at h
  · cases h; exact hs
  · exact exec_faultsKept h (faultsKept_of_part (s := s) rfl hs)

end Sys2Proof.Machine
end

section
/-! PROOFS. CLEAR_FAULTS under either authority (R170, R180, R183; log entry 21): what is cleared, the write of slot 127, the reply. -/

namespace Sys2Proof.Machine

/-! ### The clear and the write of slot 127 (R170) -/

/-- `s` after the clear itself, slot 127 not yet written. -/
def State.faultsCleared (s : State) (p : Fin 16 → Bool) : State := { s with faults := s.faults.clear p }

/-- A clear names the classes that it clears: the set ones among those named and permitted, the captured one with its capture (R170). -/
theorem clear_named (f : Faults) {named permitted : Fin 16 → Bool} {captured : Bool}
    (h : captured = f.releases fun c => named c && permitted c) :
    { status := Vector.ofFn fun c : Fin 16 => f.status[c] && !(named c && permitted c && f.status[c])
      capture := if captured then none else f.capture
      overflow := f.overflow && !captured } = f.clear fun c => named c && permitted c := by
  have hgone : ∀ set gone : Bool, (set && !(gone && set)) = (set && !gone) := by decide
  rw [clear_eq, h]
  simp only [hgone]

/-- Slot 127 is written, and its readers take the event, exactly when a status has changed (R170). -/
structure ClearTold (s a u : State) : Prop where
  reacted : Reacted a u
  same : a.faults.status = s.faults.status → u = a
  changed : a.faults.status ≠ s.faults.status → SevereTold a u

theorem clearFaultClasses_told (classes : Word16) (service : Bool) (s : State) :
    ClearTold s (s.faultsCleared (s.clears classes service)) (clearFaultClasses classes service s) := by
  unfold clearFaultClasses State.faultsCleared
  dsimp only
  split
  · next hsame => exact ⟨.refl _, fun _ => rfl, fun h => absurd hsame h⟩
  · next hchanged => exact ⟨reacted_publishSevere _, fun h => absurd h hchanged, fun _ => publishSevere_spec _⟩

/-! ### The reply (R170, R180, R183, R190) -/

theorem leaves_iff (f : Faults) (classes : Word16) :
    f.leaves classes = true ↔ ∃ c : Fin 16, classes.getLsbD c.val = true ∧ f.status[c] = true := by
  simp [Faults.leaves]

theorem clearReply_partial {s : State} {classes : Word16} {service : Bool}
    (h : (s.faults.clear (s.clears classes service)).leaves classes = true) : s.clearReply classes service =
      (.partialClear, statusBytes (s.faults.clear (s.clears classes service)).status) := by
  unfold State.clearReply
  dsimp only
  rw [if_pos h]

theorem clearReply_whole {s : State} {classes : Word16} {service : Bool}
    (h : ¬ (s.faults.clear (s.clears classes service)).leaves classes = true) : s.clearReply classes service =
      (.ok, statusBytes (s.faults.clear (s.clears classes service)).status) := by
  unfold State.clearReply
  dsimp only
  rw [if_neg h]

/-- CLUSTER authority leaves no named class set (R170). -/
theorem cluster_leaves_nothing (s : State) (classes : Word16) :
    ¬ (s.faults.clear (s.clears classes false)).leaves classes = true := by
  rw [leaves_iff]
  rintro ⟨c, hnamed, hset⟩
  rw [clear_status, State.clears, hnamed] at hset
  simp at hset

/-- A reply frame carries its head, then its data (R190). -/
theorem placeReply_data (reply : ReplyAddress) (code : Byte) (r : ReplyStatus) (data : List Byte) (s : State) :
    s.placeReply (replyFrame reply code r data) = s.replyPlaced reply (replyHead code r :: data) := by
  cases r <;> rfl

theorem unlessBusy_free {s : State} (h : s.portB.queue.length < 4) (handle : State → State) : unlessBusy s handle = handle s := by
  unfold unlessBusy
  exact if_neg (not_le.2 h)

theorem requestClearFaults_offered (tag classes : Word16) (s : State) :
    Offered (clearFaultClasses classes false s)
      (.reply 6 tag .ok (statusBytes (s.faults.clear (s.clears classes false)).status)) (requestClearFaults tag classes s) := by
  unfold requestClearFaults
  dsimp only
  rw [clearReply_whole (cluster_leaves_nothing s classes)]
  exact offer_spec _ _

theorem serviceClearFaults_placed {s : State} (h : s.portB.queue.length < 4) (reply : ReplyAddress) (classes : Word16) :
    serviceClearFaults reply classes s = (clearFaultClasses classes true s).replyPlaced reply
      (replyHead 6 (s.clearReply classes true).1 :: (s.clearReply classes true).2) := by
  unfold serviceClearFaults
  rw [unlessBusy_free h]
  exact placeReply_data ..

/-- Settles O38: the clear as the statement spells it out is `State.faultsCleared`; then slot 127 by `clearFaultClasses_told`, and the
reply by the classes that the clear has left. -/
theorem clearFaultsClearsTheNamedClasses : Obligations.ClearFaultsClearsTheNamedClasses := by
  intro classes s hs cleared cluster service partly
  have hcleared : ∀ permitted, cleared permitted = s.faultsCleared fun c => classes.getLsbD c.val && permitted c := by
    intro permitted
    refine congrArg (fun f => { s with faults := f }) (clear_named s.faults ?_)
    unfold Faults.releases
    cases s.faults.capture with
    | none => rfl
    | some k => exact Bool.and_comm _ _
  have hcluster : cluster = s.faultsCleared (s.clears classes false) := hcleared _
  have hservice : service = s.faultsCleared (s.clears classes true) := hcleared _
  have hpartly : (s.faults.clear (s.clears classes true)).leaves classes = true ↔ partly := by
    rw [leaves_iff]
    simp only [partly, hservice, State.faultsCleared]
  rw [hcluster, hservice]
  refine ⟨fun tag => ?_, fun reply hfree => ?_⟩
  · obtain ⟨hreacted, hsame, hchanged⟩ := clearFaultClasses_told classes false s
    exact ⟨_, _, onAwake_of_awake hs, hreacted, hsame, hchanged, requestClearFaults_offered tag classes s⟩
  · obtain ⟨hreacted, hsame, hchanged⟩ := clearFaultClasses_told classes true s
    refine ⟨_, _, onAwake_of_awake hs, hreacted, hsame, hchanged, fun h => ?_, fun h => ?_⟩
    · rw [serviceClearFaults_placed hfree, clearReply_partial (hpartly.2 h)]
      rfl
    · rw [serviceClearFaults_placed hfree, clearReply_whole (mt hpartly.1 h)]
      rfl

end Sys2Proof.Machine
end

section
/-! PROOFS. What the operations keep of the bounds of the two queues (R176, R184): a record is queued only by an accepted offer, and but for
a placed reply frame no operation lengthens the reply queue. -/

namespace Sys2Proof.Machine

/-! ### The bounds of each queue -/

/-- At most 32 records, at most 24 of them FORWARD (R176). -/
def EgressBounded (q : List EgressRecord) : Prop := q.length ≤ 32 ∧ q.countP EgressRecord.isForward ≤ 24

/-- At most 4 reply frames, none with more than 250 ms left (R184). -/
def RepliesBounded (q : List QueuedReply) : Prop := q.length ≤ 4 ∧ ∀ x ∈ q, x.left ≤ 250

theorem queueLaws_iff (s : State) : QueueLaws s ↔ EgressBounded s.link.egress ∧ RepliesBounded s.portB.queue :=
  ⟨fun h => ⟨⟨h.egress, h.forward⟩, h.replies, h.lifetime⟩,
    fun ⟨⟨hlength, hforward⟩, hreplies, hlifetime⟩ => ⟨hlength, hforward, hreplies, hlifetime⟩⟩

theorem EgressBounded.sublist {q l : List EgressRecord} (h : EgressBounded q) (hl : l.Sublist q) : EgressBounded l :=
  ⟨hl.length_le.trans h.1, hl.countP_le.trans h.2⟩

theorem RepliesBounded.sublist {q l : List QueuedReply} (h : RepliesBounded q) (hl : l.Sublist q) : RepliesBounded l :=
  ⟨hl.length_le.trans h.1, fun x hx => h.2 x (hl.subset hx)⟩

/-- No kind that replaces its like is FORWARD (R176). -/
theorem not_isForward_of_replaces {r : EgressRecord} (h : r.kind.replaces = true) : r.isForward = false := by
  cases r with
  | forward | notice | reply => cases h
  | present | crewSnapshot => rfl

/-- An accepted record finds a place, and a FORWARD record one of the 24; or it takes the place of one of its kind (R176). -/
theorem egressAccept_bounded {q l : List EgressRecord} {r : EgressRecord} (hq : EgressBounded q)
    (h : egressAccept q r = some l) : EgressBounded l := by
  obtain ⟨hlength, hforward⟩ := hq
  unfold egressAccept at h
  split at h
  · next hroom =>
    obtain ⟨hplace, hplaces⟩ := hroom
    cases h
    refine ⟨by simpa using hplace, ?_⟩
    rw [List.countP_append, List.countP_singleton]
    split
    · next hr => exact hplaces hr
    · exact hforward
  · split at h
    · next hreplaced =>
      obtain ⟨hreplaces, hlike⟩ := hreplaced
      cases h
      have hpositive : 0 < q.length := by
        obtain ⟨x, hx, -⟩ := List.any_eq_true.1 hlike
        exact List.length_pos_of_mem hx
      have herased := (List.eraseP_sublist (p := fun x : EgressRecord => x.kind == r.kind) (l := q)).countP_le (p := EgressRecord.isForward)
      refine ⟨?_, ?_⟩
      · rw [List.length_append, List.length_eraseP, if_pos hlike, List.length_singleton]
        omega
      · rw [List.countP_append, List.countP_singleton, not_isForward_of_replaces hreplaces]
        simpa using herased.trans hforward
    · cases h

/-! ### The bounds from one state to the next -/

/-- An operation keeps the egress queue's bounds and places no reply frame. -/
structure QueuesKept (s t : State) : Prop where
  egress : EgressBounded s.link.egress → EgressBounded t.link.egress
  replies : t.portB.queue.Sublist s.portB.queue

/-- The part of the state that the bounds speak of. -/
def State.queues (s : State) : List EgressRecord × List QueuedReply := (s.link.egress, s.portB.queue)

theorem queuesKept_of_queues {s t : State} (h : t.queues = s.queues) : QueuesKept s t := by
  obtain ⟨hegress, hreplies⟩ := Prod.mk.inj h
  exact ⟨fun hs => hegress ▸ hs, by rw [hreplies]⟩

theorem QueuesKept.refl (s : State) : QueuesKept s s := queuesKept_of_queues rfl

theorem QueuesKept.trans {s t u : State} (h : QueuesKept s t) (g : QueuesKept t u) : QueuesKept s u :=
  ⟨g.egress ∘ h.egress, g.replies.trans h.replies⟩

/-- An operation followed by an update outside the queues. -/
theorem QueuesKept.same {s t u : State} (h : QueuesKept s t) (hu : u.queues = t.queues) : QueuesKept s u :=
  h.trans (queuesKept_of_queues hu)

/-- An operation after an update outside the queues. -/
theorem QueuesKept.after {s t u : State} (h : QueuesKept u t) (hu : u.queues = s.queues) : QueuesKept s t :=
  .trans (queuesKept_of_queues hu) h

theorem QueuesKept.laws {s t : State} (h : QueuesKept s t) (hs : QueueLaws s) : QueueLaws t := by
  rw [queueLaws_iff] at hs ⊢
  obtain ⟨hegress, hreplies⟩ := hs
  exact ⟨h.egress hegress, hreplies.sublist h.replies⟩

/-- A state with both queues empty. -/
theorem queuesKept_of_empty {s t : State} (hegress : t.link.egress = []) (hreplies : t.portB.queue = []) : QueuesKept s t :=
  ⟨fun _ => by rw [hegress]; exact ⟨Nat.zero_le _, Nat.zero_le _⟩, by rw [hreplies]; exact List.nil_sublist _⟩

theorem Presented.queues {s t : State} (h : Presented s t) : t.queues = s.queues := by
  rw [h.rest]
  rfl

theorem Presented.queuesKept {s t : State} (h : Presented s t) : QueuesKept s t := queuesKept_of_queues h.queues

/-- A reaction reaches the queues by accepted offers alone (R166, R176). -/
theorem closedEvents_queuesKept : ClosedEvents QueuesKept where
  refl := .refl
  trans := .trans
  egress _ _ _ hq := ⟨fun hs => egressAccept_bounded hs hq, .refl _⟩
  record _ _ _ _ _ := queuesKept_of_queues rfl
  choices _ _ := queuesKept_of_queues rfl
  severe _ := queuesKept_of_queues rfl
  target _ _ := queuesKept_of_queues rfl
  evaluate s i _ := (presented_evaluateTelltale s i).queuesKept
  seen _ _ := queuesKept_of_queues rfl
  press s := (presented_press s).queuesKept
  activity _ _ := queuesKept_of_queues rfl
  token _ _ _ _ _ := queuesKept_of_queues rfl
  tally _ _ _ _ := queuesKept_of_queues rfl
  utc _ _ := queuesKept_of_queues rfl
  selection _ _ := queuesKept_of_queues rfl
  slot _ _ _ _ _ := queuesKept_of_queues rfl

section
variable (s : State)

theorem raise_queuesKept (c : FaultClass) (d : FaultDetail) : QueuesKept s (raise c d s) :=
  closedEvents_queuesKept.toClosed.raise c d s

theorem offer_queuesKept (r : EgressRecord) : QueuesKept s (offer r s) := closedEvents_queuesKept.toClosed.offer r s

theorem publishSevere_queuesKept : QueuesKept s (publishSevere s) := closedEvents_queuesKept.toClosed.publishSevere s

theorem whole_queuesKept {f : State → Change} (hf : ∀ s, Presented s (f s).state) : QueuesKept s (whole f s) :=
  closedEvents_queuesKept.toClosed.whole (fun s => (hf s).queuesKept) s

theorem queuesKept_foldl {α : Type} {f : State → α → State} (hf : ∀ s a, QueuesKept s (f s a)) (l : List α) :
    QueuesKept s (l.foldl f s) := closedEvents_queuesKept.toClosed.foldl hf l s

theorem writeSelection_queuesKept : QueuesKept s (writeSelection s) := closedEvents_queuesKept.writeSelection s

theorem writeRemaining_queuesKept : QueuesKept s (writeRemaining s) := closedEvents_queuesKept.writeRemaining s

theorem writeIgnition_queuesKept : QueuesKept s (writeIgnition s) :=
  (closedEvents_queuesKept.toClosed.writeDerived 126 (by decide) _ s).after rfl

theorem decodedEvent_queuesKept (c : SlotChange) (k : Fin 120) : QueuesKept s (decodedEvent c k s) :=
  closedEvents_queuesKept.decodedEvent c k s

/-! ### Updates outside the queues -/

@[simp] theorem setPlausibility_queues (t : Timer) : (s.setPlausibility t).queues = s.queues := rfl
@[simp] theorem setCrew_queues (c : Crew) : (s.setCrew c).queues = s.queues := rfl
@[simp] theorem setBulbCheck_queues (t : Timer) : (s.setBulbCheck t).queues = s.queues := rfl
@[simp] theorem reportBulbEnd_queues : s.reportBulbEnd.queues = s.queues := rfl
@[simp] theorem setChannel_queues (ch : Fin 6) (c : Channel) : (s.setChannel ch c).queues = s.queues := rfl
@[simp] theorem startSettle_queues : s.startSettle.queues = s.queues := rfl

/-! ### Signals, speed and crew -/

theorem goStale_queuesKept (k : Fin 120) : QueuesKept s (goStale k s) := by
  have hstale := (decodedEvent_queuesKept ((s.setQuality k .stale).setSlotTimers k none none) .quality k).after (s := s) rfl
  unfold goStale
  dsimp only
  split
  · exact hstale.trans (raise_queuesKept _ _ _)
  · exact hstale

theorem goHeld_queuesKept (k : Fin 120) : QueuesKept s (goHeld k s) := by
  unfold goHeld
  dsimp only
  split
  · exact goStale_queuesKept s k
  · exact (decodedEvent_queuesKept _ .quality k).after rfl

theorem runMapEntry_queuesKept (f : Frame) (m : Fin 192) : QueuesKept s (runMapEntry f m s) := by
  unfold runMapEntry codeUpdate valueUpdate
  dsimp only
  split
  · split
    · exact raise_queuesKept s _ _
    · split <;> exact (decodedEvent_queuesKept _ _ _).after rfl
  · exact .refl s

theorem runMapRange_queuesKept (f : Frame) (first count : Nat) : QueuesKept s (runMapRange f first count s) := by
  refine queuesKept_foldl s (fun s m => ?_) _
  split
  · exact runMapEntry_queuesKept s f m
  · exact .refl s

theorem forwardFrame_queuesKept (i : Fin 96) (f : Frame) : QueuesKept s (forwardFrame i f s) := by
  unfold forwardFrame
  split
  · split
    · exact .refl s
    · exact offer_queuesKept s _
    · split
      · exact .refl s
      · split
        · next hq => exact ⟨fun hs => egressAccept_bounded hs hq, .refl _⟩
        · exact offer_queuesKept s _
  · exact .refl s

theorem sampleSpeed_queuesKept : QueuesKept s (sampleSpeed s) := by
  unfold sampleSpeed
  dsimp only
  split
  · split
    · split
      · exact (raise_queuesKept _ _ _).after rfl
      · exact queuesKept_of_queues rfl
    · exact queuesKept_of_queues rfl
  · exact queuesKept_of_queues rfl

theorem plausibilityTicked_queuesKept : QueuesKept s (plausibilityTicked s) :=
  ((sampleSpeed_queuesKept _).after (setPlausibility_queues s _)).trans (writeSelection_queuesKept _)

theorem advanceSnapshot_queuesKept : QueuesKept s (advanceSnapshot s) := by
  unfold advanceSnapshot
  dsimp only
  split
  · exact queuesKept_of_queues rfl
  · split
    · exact (offer_queuesKept s s.snapshot).same rfl
    · exact queuesKept_of_queues rfl

theorem accountingTick_queuesKept : QueuesKept s (accountingTick s) :=
  ((writeRemaining_queuesKept _).after (setCrew_queues s _)).trans (advanceSnapshot_queuesKept _)

/-! ### Telltales, lamps and the chime -/

theorem eachTelltale_queuesKept {f : State → Fin 64 → Change} (hf : ∀ s i, Presented s (f s i).state) :
    QueuesKept s (eachTelltale f s) := queuesKept_foldl s (fun s i => whole_queuesKept s fun s => hf s i) _

theorem freshTelltales_queuesKept (before : PartState) : QueuesKept s (freshTelltales before s) := by
  refine eachTelltale_queuesKept s fun s i => ?_
  split
  · exact presented_evaluateFresh s i
  · exact .refl s

theorem lampFails_queuesKept (ch : Fin 32) (l : LampState) (c : FaultClass) : QueuesKept s (lampFails ch l c s) := by
  have hraised : QueuesKept s (raiseItem c ch.val (s.setLamp ch l)) := (raise_queuesKept _ _ _).after rfl
  refine hraised.trans (queuesKept_foldl _ (fun s i => ?_) _)
  dsimp only
  split
  · exact whole_queuesKept s fun s => (moving_presented i).offerPresentation s i .backup _
  · exact .refl s

theorem telltaleWritten_queuesKept (i : Fin 64) (lampBefore : Option (Fin 32)) :
    QueuesKept s (telltaleWritten i lampBefore s) := by
  have hoff : QueuesKept s (whole (fun s => ((s.setCondition i false).telltaleOff i).andThen fun s =>
      s.recomputeNamed lampBefore) s) := whole_queuesKept s fun s =>
    ((presented_setCondition s i false).trans ((moving_presented i).telltaleOff _)).trans (presented_recomputeNamed _ _)
  unfold telltaleWritten
  dsimp only
  split
  · exact hoff.trans (whole_queuesKept _ fun s => presented_evaluateFresh s i)
  · exact hoff

theorem resetTelltales_queuesKept : QueuesKept s (resetTelltales s) := by
  have hcleared : QueuesKept s ((eachTelltale State.telltaleCleared s).mapLamps LampState.clear) :=
    (eachTelltale_queuesKept s presented_telltaleCleared).trans (presented_mapLamps _ _).queuesKept
  unfold resetTelltales
  refine (hcleared.trans (eachTelltale_queuesKept _ fun s i => ?_)).trans (presented_recomputeLamps _).queuesKept
  split
  · exact presented_evaluateFresh s i
  · exact .refl s

theorem endBulbCheck_queuesKept : QueuesKept s s.endBulbCheck :=
  (presented_recomputeLamps _).queuesKept.after (setBulbCheck_queues s none)

theorem startBulbCheck_queuesKept : QueuesKept s s.startBulbCheck := by
  have hlamps : ∀ x : Timer, QueuesKept s (((s.mapLamps LampState.release).setBulbCheck x).recomputeLamps) := fun x =>
    (presented_mapLamps s _).queuesKept.trans ((presented_recomputeLamps _).queuesKept.after (setBulbCheck_queues _ x))
  unfold State.startBulbCheck
  dsimp only
  split
  · exact (hlamps none).same (reportBulbEnd_queues _)
  · exact hlamps _

theorem chimeOnEnds_queuesKept : QueuesKept s s.chimeOnEnds := by
  unfold State.chimeOnEnds
  split <;> exact queuesKept_of_queues rfl

theorem chimeOffEnds_queuesKept : QueuesKept s s.chimeOffEnds := by
  unfold State.chimeOffEnds
  split
  · exact (presented_completeBurst s _).queuesKept
  all_goals exact .refl s

theorem chimeFails_queuesKept : QueuesKept s (chimeFails s) := by
  unfold chimeFails
  split
  · exact (raise_queuesKept (s.setLoad .open) _ _).after rfl
  all_goals exact .refl s

theorem chimeRecovers_queuesKept : QueuesKept s s.chimeRecovers := by
  unfold State.chimeRecovers
  split <;> exact queuesKept_of_queues rfl

/-! ### Gauges -/

theorem reportChanges_queues (before : State) : (s.reportChanges before).queues = s.queues := by
  unfold State.reportChanges
  split <;> rfl

theorem startFilterTick_queues : s.startFilterTick.queues = s.queues := by
  unfold State.startFilterTick
  split <;> rfl

theorem tickChannel_queuesKept (ch : Fin 6) : QueuesKept s (tickChannel ch s) := by
  unfold tickChannel
  split
  · unfold tickHoming
    dsimp only
    split
    · exact ((raise_queuesKept _ _ _).after (setChannel_queues s ch _)).same (setChannel_queues _ ch _)
    · exact queuesKept_of_queues rfl
  · exact queuesKept_of_queues rfl
  · exact queuesKept_of_queues rfl
  all_goals exact .refl s

theorem stallReported_queuesKept (ch : Fin 6) : QueuesKept s (stallReported ch s) := by
  have htaken : QueuesKept s (takeStall ch s) := by
    unfold takeStall
    split
    · exact queuesKept_of_queues rfl
    · exact (raise_queuesKept s _ _).same rfl
    · exact (raise_queuesKept s _ _).same rfl
    all_goals exact .refl s
  unfold stallReported
  split
  · exact htaken.same rfl
  · exact .refl s

/-! ### Moves of the part (R152 to R162) -/

theorem Quieted.queuesKept {s t : State} (h : Quieted s t) : QueuesKept s t :=
  queuesKept_of_empty (by rw [h.link]) (by rw [h.portB])

theorem warmStart_queuesKept : QueuesKept s s.warmStart := by
  have hquieted := (warmStart_spec s).toQuieted
  exact queuesKept_of_empty (by rw [hquieted.link]) (by rw [hquieted.portB])

theorem conclude_queuesKept : QueuesKept s (conclude s) := by
  have h := conclude_spec s
  unfold Concluded at h
  split at h
  · rw [h]; exact queuesKept_of_queues rfl
  · split at h
    · exact h.toQuieted.queuesKept
    · rw [h]; exact .refl s

theorem filterTicked_queuesKept : QueuesKept s (filterTicked s) := by
  have hworked : QueuesKept s (tickChannels (s.setFilterTick (some Config.filterInterval))) :=
    (queuesKept_foldl _ (fun s ch => tickChannel_queuesKept s ch) _).after rfl
  exact (hworked.same (reportChanges_queues _ s)).trans (conclude_queuesKept _)

theorem homingEntry_queuesKept : QueuesKept s (homingEntry s) := by
  have hbegun : QueuesKept s s.timeHomingEntry.gaugesHomingEntry :=
    queuesKept_of_queues (startFilterTick_queues _)
  exact ((hbegun.trans (startBulbCheck_queuesKept _)).trans (freshTelltales_queuesKept _ _)).same
    (setPlausibility_queues _ _)

theorem standbyEntry_queuesKept : QueuesKept s (standbyEntry s) := by
  have hbegun : QueuesKept s ((s.timeStandbyEntry.setSilence .cold).speedStandby).gaugesStandbyEntry :=
    queuesKept_of_queues (startFilterTick_queues _)
  unfold standbyEntry telltalesStandbyEntry
  exact ((hbegun.trans (eachTelltale_queuesKept _ presented_telltaleStandby)).trans
    (freshTelltales_queuesKept _ _)).trans (endBulbCheck_queuesKept _)

theorem enterByLevel_queuesKept : QueuesKept s (enterByLevel s) := by
  unfold enterByLevel
  split
  · exact homingEntry_queuesKept s
  · exact standbyEntry_queuesKept s

theorem wakingEntry_queuesKept : QueuesKept s (wakingEntry s) := by
  have hcredit : QueuesKept s (wakeCredit (s.setPart .waking)) :=
    (writeRemaining_queuesKept ((s.setPart .waking).creditCrew _)).after rfl
  exact (hcredit.trans (writeIgnition_queuesKept _)).same (startSettle_queues _)

theorem startPart_queuesKept : QueuesKept s (startPart s) := by
  unfold startPart
  split
  · exact (enterByLevel_queuesKept _).after rfl
  · exact .refl s

theorem takeIgnitionOn_queuesKept : QueuesKept s (takeIgnitionOn s) := by
  unfold takeIgnitionOn
  split
  · exact .refl s
  · split
    · exact wakingEntry_queuesKept s
    · exact ((writeIgnition_queuesKept s).trans (homingEntry_queuesKept _)).trans (conclude_queuesKept _)
    all_goals exact writeIgnition_queuesKept s

theorem takeIgnitionOff_queuesKept : QueuesKept s (takeIgnitionOff s) := by
  unfold takeIgnitionOff
  split
  · exact .refl s
  · cases s.time.part with
    | homing | run =>
      exact ((writeIgnition_queuesKept s).trans (standbyEntry_queuesKept _)).trans (conclude_queuesKept _)
    | unconfigured | waking | standby => exact writeIgnition_queuesKept s
    | sleep => exact .refl s

/-! ### Section resets and cleared faults -/

theorem resetPresentation_queuesKept : QueuesKept s (resetPresentation s) := by
  have hcleared : QueuesKept s s.presentationCleared := queuesKept_of_queues (by
    simp only [State.queues, State.presentationCleared, State.forgetHeld])
  unfold resetPresentation
  split
  · exact hcleared
  · exact hcleared.trans (offer_queuesKept _ _)

theorem resetSection_queuesKept (x : Section) : QueuesKept s (resetSection x s) := by
  cases x with
  | intake => rw [resetSection, resetIntake_eq]; exact queuesKept_of_queues rfl
  | signals => exact queuesKept_foldl s (fun s k => (decodedEvent_queuesKept (s.setUnknown k 65535) .quality k).after rfl) _
  | speed => exact (writeSelection_queuesKept s.relearn).after rfl
  | gauges => exact queuesKept_of_queues (reportChanges_queues _ s)
  | telltales => exact resetTelltales_queuesKept s
  | presentation => exact resetPresentation_queuesKept s
  | crew =>
    have hwritten : QueuesKept s (writeRemaining s.crewEmptied) := (writeRemaining_queuesKept _).after rfl
    rw [resetSection, resetCrewSection_eq]
    exact hwritten.trans (offer_queuesKept _ _)
  | faults => exact (publishSevere_queuesKept { s with faults := .cold }).after rfl

theorem clearFaultClasses_queuesKept (classes : Word16) (service : Bool) :
    QueuesKept s (clearFaultClasses classes service s) := by
  unfold clearFaultClasses
  dsimp only
  split
  · exact queuesKept_of_queues rfl
  · exact (publishSevere_queuesKept _).after rfl

/-! ### Entry writes -/

theorem writeSystemConfig_queuesKept (e : SystemConfig) (w : Written) : QueuesKept s (writeSystemConfig e w s) := by
  have hset : QueuesKept s (if w.covers 5 then (s.setTables { s.tables with system := e }).resetDetector
      else s.setTables { s.tables with system := e }) := by split <;> exact queuesKept_of_queues rfl
  unfold writeSystemConfig
  dsimp only
  split
  · exact hset.trans ((writeSelection_queuesKept (State.relearn _)).after rfl)
  · exact hset

end

theorem accept_queuesKept {α : Type} {o : Option α} {ok : α → Bool} {write : α → State} {s u : State}
    (h : accept o ok write = .ok u) (hw : ∀ e, QueuesKept s (write e)) : QueuesKept s u := by
  unfold accept at h
  split at h
  · cases h
  · split at h <;> cases h
    exact hw _

/-- The effect in use of a write reaches the queues as every reaction does. -/
theorem EntryWritten.queuesKept {s u : State} (h : EntryWritten s u) : QueuesKept s u := by
  obtain ⟨t, k, l, w, h⟩ := h
  unfold writeEntry at h
  cases t with
  | intake => dsimp only at h; split at h; exacts [(nomatch h), accept_queuesKept h fun _ => queuesKept_of_queues rfl]
  | map => dsimp only at h; split at h; exacts [(nomatch h), accept_queuesKept h fun _ => queuesKept_of_queues rfl]
  | slotConfig =>
    dsimp only at h; split at h
    exacts [(nomatch h), accept_queuesKept h fun _ => (decodedEvent_queuesKept _ .quality _).after rfl]
  | curve => dsimp only at h; split at h; exacts [(nomatch h), queuesKept_of_queues (of_acceptCurve h fun _ => rfl)]
  | gauge => dsimp only at h; split at h; exacts [(nomatch h), accept_queuesKept h fun _ => queuesKept_of_queues rfl]
  | telltale =>
    dsimp only at h; split at h
    exacts [(nomatch h), accept_queuesKept h fun _ => (telltaleWritten_queuesKept (s.setTables _) _ _).after rfl]
  | chime =>
    dsimp only at h; split at h
    exacts [(nomatch h), accept_queuesKept h fun _ => (presented_choose _).queuesKept.after rfl]
  | crewConfig =>
    dsimp only at h; split at h
    exacts [(nomatch h), accept_queuesKept h fun _ => (writeRemaining_queuesKept _).after rfl]
  | systemConfig =>
    dsimp only at h; split at h
    exacts [(nomatch h), accept_queuesKept h fun e => writeSystemConfig_queuesKept s e w]
  | faultPolicy =>
    dsimp only at h; split at h
    exacts [(nomatch h), accept_queuesKept h fun _ => (publishSevere_queuesKept _).after rfl]

end Sys2Proof.Machine
end

section
/-! PROOFS. Every step keeps the bounds of the two queues (R176, R184). -/

namespace Sys2Proof.Machine

/-! ### Management requests and transfers -/

section
variable (s : State)

theorem reply_queuesKept (code : Byte) (tag : Word16) (r : ReplyStatus) (data : List Byte) :
    QueuesKept s (reply code tag r data s) := offer_queuesKept s _

theorem refuse_queuesKept (code : Byte) (tag : Word16) (r : ReplyStatus) : QueuesKept s (refuse code tag r s) :=
  (raise_queuesKept s _ _).trans (reply_queuesKept _ code tag r [])

theorem answerWrite_queuesKept (code : Byte) (tag : Word16) {r : Except ReplyStatus State}
    (hr : ∀ u, r = .ok u → EntryWritten s u) : QueuesKept s (answerWrite code tag r s) := by
  cases r with
  | error e => exact refuse_queuesKept s code tag e
  | ok u => exact (hr u rfl).queuesKept.trans (reply_queuesKept u code tag .ok [])

theorem answerRead_queuesKept (code : Byte) (tag : Word16) (r : Except ReplyStatus (List Byte)) :
    QueuesKept s (answerRead code tag r s) := by
  cases r with
  | error e => exact refuse_queuesKept s code tag e
  | ok l => exact reply_queuesKept s code tag .ok l

theorem requestLoad_queuesKept (tag : Word16) (table index : Byte) (entry : List Byte) :
    QueuesKept s (requestLoad tag table index entry s) := answerWrite_queuesKept s 1 tag fun _ => loadEntry_written

theorem requestSetField_queuesKept (tag : Word16) (table index field : Byte) (value : Word32) :
    QueuesKept s (requestSetField tag table index field value s) := by
  refine answerWrite_queuesKept s 3 tag fun u h => ?_
  split at h
  · cases h
  · exact namedField_written h

theorem requestReset_queuesKept (tag : Word16) (x : Section) : QueuesKept s (requestReset tag x s) :=
  (resetSection_queuesKept s x).trans (reply_queuesKept _ 7 tag .ok [])

theorem requestClearFaults_queuesKept (tag classes : Word16) : QueuesKept s (requestClearFaults tag classes s) :=
  (clearFaultClasses_queuesKept s classes false).trans (reply_queuesKept _ 6 tag _ _)

theorem requestStart_queuesKept (tag : Word16) : QueuesKept s (requestStart tag s) :=
  (startPart_queuesKept s).trans (reply_queuesKept _ 8 tag .ok [])

theorem requestWarmReset_queuesKept (tag : Word16) : QueuesKept s (requestWarmReset tag s) :=
  .trans (reply_queuesKept s 9 tag .ok []) (warmStart_queuesKept _)

theorem dispatch_queuesKept (code : Byte) (tag : Word16) (args : List Byte) : QueuesKept s (dispatch code tag args s) := by
  unfold dispatch
  split
  · exact requestLoad_queuesKept s tag _ _ _
  · exact answerRead_queuesKept s 2 tag _
  · exact requestSetField_queuesKept s tag _ _ _ _
  · exact answerRead_queuesKept s 4 tag _
  · exact answerRead_queuesKept s 5 tag _
  · exact requestClearFaults_queuesKept s tag _
  · split
    · exact refuse_queuesKept s 7 tag .range
    · exact requestReset_queuesKept s tag _
  · exact requestStart_queuesKept s tag
  · exact requestWarmReset_queuesKept s tag
  · exact refuse_queuesKept s code tag .range

theorem sendDownstream_queuesKept : QueuesKept s s.sendDownstream := by
  unfold State.sendDownstream
  split
  · exact queuesKept_of_queues rfl
  · next hq => exact ⟨fun hs => hs.sublist (by rw [hq]; exact List.sublist_cons_self _ _), .refl _⟩

theorem transfer_queuesKept (u : List Byte) : QueuesKept s (transfer u s) := by
  refine (sendDownstream_queuesKept s).trans ?_
  unfold transfer handleUpstream handlePayload
  split
  · split
    · exact .refl _
    · split
      · exact dispatch_queuesKept _ _ _ _
      all_goals exact refuse_queuesKept _ _ _ _
  · exact raise_queuesKept _ _ _

/-! ### Port B's transmitter (R184) -/

theorem sendReply_queuesKept : QueuesKept s s.sendReply := by
  unfold State.sendReply
  split <;> exact queuesKept_of_queues rfl

theorem replySent_queuesKept : QueuesKept s s.replySent := by
  unfold State.replySent
  split
  · exact .refl s
  · split
    · exact ⟨id, List.tail_sublist _⟩
    · exact queuesKept_of_queues rfl

theorem replyNotSent_queuesKept : QueuesKept s s.replyNotSent := by
  unfold State.replyNotSent
  split <;> exact queuesKept_of_queues rfl

theorem replyExpired_queuesKept (place : Nat) : QueuesKept s (s.replyExpired place) := by
  unfold State.replyExpired
  split
  · exact .refl s
  · split
    · exact ⟨id, List.eraseIdx_sublist ..⟩
    · exact .refl s

/-! ### Service requests (R181 to R184) -/

/-- A reply frame is placed after an operation that began with a free place (R181). -/
theorem QueuesKept.placed {s u : State} (h : QueuesKept s u) (hfree : s.portB.queue.length < 4) (f : ReplyFrame)
    (hs : QueueLaws s) : QueueLaws (u.placeReply f) := by
  obtain ⟨hegress, hreplies⟩ := (queueLaws_iff u).1 (h.laws hs)
  refine (queueLaws_iff _).2 ⟨hegress, ?_, fun q hq => ?_⟩
  · have hlength := h.replies.length_le
    simp only [State.placeReply, State.setReplies, List.length_append, List.length_singleton]
    omega
  · rcases List.mem_append.1 hq with hold | hnew
    · exact hreplies.2 q hold
    · rw [List.mem_singleton.1 hnew]

/-- A busy request places no frame, and any other begins with a free place (R181). -/
theorem unlessBusy_queueLaws {handle : State → State}
    (h : s.portB.queue.length < 4 → QueueLaws s → QueueLaws (handle s)) (hs : QueueLaws s) :
    QueueLaws (unlessBusy s handle) := by
  unfold unlessBusy
  split
  · exact (raise_queuesKept s _ _).laws hs
  · next hfree => exact h (not_le.1 hfree) hs

theorem refuseService_queueLaws (a : ReplyAddress) (code : Byte) (r : ReplyStatus) (hfree : s.portB.queue.length < 4)
    (hs : QueueLaws s) : QueueLaws (refuseService a code r s) := (raise_queuesKept s _ _).placed hfree _ hs

theorem serviceSetField_queueLaws (a : ReplyAddress) (table index field : Byte) (value : Word32) (hs : QueueLaws s) :
    QueueLaws (serviceSetField a table index field value s) := by
  refine unlessBusy_queueLaws s (fun hfree hs => ?_) hs
  split
  · exact refuseService_queueLaws s a 3 _ hfree hs
  · next hw => exact (serviceWrite_written hw).queuesKept.placed hfree _ hs

theorem serviceReadField_queueLaws (a : ReplyAddress) (table index field : Byte) (hs : QueueLaws s) :
    QueueLaws (serviceReadField a table index field s) := by
  refine unlessBusy_queueLaws s (fun hfree hs => ?_) hs
  split
  · exact refuseService_queueLaws s a 4 _ hfree hs
  · exact (QueuesKept.refl s).placed hfree _ hs

theorem serviceClearFaults_queueLaws (a : ReplyAddress) (classes : Word16) (hs : QueueLaws s) :
    QueueLaws (serviceClearFaults a classes s) :=
  unlessBusy_queueLaws s (fun hfree hs => (clearFaultClasses_queuesKept s classes true).placed hfree _ hs) hs

theorem serviceReadFaults_queueLaws (a : ReplyAddress) (hs : QueueLaws s) : QueueLaws (serviceReadFaults a s) :=
  unlessBusy_queueLaws s (fun hfree hs => (QueuesKept.refl s).placed hfree _ hs) hs

theorem serviceFrame_queueLaws (a : ReplyAddress) (data : List Byte) (hs : QueueLaws s) :
    QueueLaws (serviceFrame a data s) := by
  unfold serviceFrame
  split
  · exact serviceSetField_queueLaws s a _ _ _ _ hs
  · exact serviceReadField_queueLaws s a _ _ _ hs
  · exact serviceClearFaults_queueLaws s a _ hs
  · exact serviceReadFaults_queueLaws s a hs
  all_goals exact unlessBusy_queueLaws s (refuseService_queueLaws s a _ _) hs

theorem frameArrived_queueLaws (f : Frame) (hs : QueueLaws s) : QueueLaws (frameArrived f s) := by
  have hseen : QueuesKept s (s.matchedFrame f.port) := queuesKept_of_queues (by rw [matchedFrame_eq]; rfl)
  unfold frameArrived actOnFrame
  split
  · exact hs
  · split
    · exact hs
    · dsimp only
      split
      · exact ((hseen.trans (runMapRange_queuesKept _ f _ _)).trans (forwardFrame_queuesKept _ _ f)).laws hs
      · exact serviceFrame_queueLaws _ _ _ (hseen.laws hs)

/-- One ms brings every queued frame nearer its expiry (R146, R184). -/
theorem advanceMs_queueLaws (hs : QueueLaws s) : QueueLaws s.advanceMs := by
  obtain ⟨hegress, hlength, hlifetime⟩ := (queueLaws_iff s).1 hs
  refine (queueLaws_iff _).2 ⟨hegress, by simpa [State.advanceMs] using hlength, fun q hq => ?_⟩
  obtain ⟨x, hx, rfl⟩ := List.mem_map.1 hq
  exact (Nat.sub_le _ _).trans (hlifetime x hx)

end

/-! ### Every command -/

section
variable {f : State → State} {s t : State}

theorem onAwake_queueLaws (h : onAwake f s = .next t) (hf : QueueLaws s → QueueLaws (f s)) (hs : QueueLaws s) :
    QueueLaws t := by
  cases h
  split
  · exact hf hs
  · exact hs

/-- A command of an awake part that keeps the queues. -/
theorem onAwake_queuesKept (h : onAwake f s = .next t) (hf : QueuesKept s (f s)) : QueueLaws s → QueueLaws t :=
  onAwake_queueLaws h hf.laws

/-- The same for one that acts only on a condition. -/
theorem onAwake_queuesKept_if {p : State → Bool} (h : onAwake (fun s => if p s = true then f s else s) s = .next t)
    (hf : QueuesKept s (f s)) : QueueLaws s → QueueLaws t := onAwake_queuesKept h (by split; exacts [hf, .refl s])

end

/-- Every command keeps the bounds: those that place a reply frame because they begin with a free place, the ms counter because it only
shortens lifetimes, every other command because it reaches the queues by accepted offers and removals. -/
theorem exec_queueLaws {c : Instr} {s t : State} (h : exec c s = .next t) : QueueLaws s → QueueLaws t := by
  unfold exec at h
  cases c with
  | coldStart => cases h; exact ((queuesKept_of_empty (s := s) rfl rfl).trans (raise_queuesKept _ _ _)).laws
  | keepAliveRemoval => cases h; exact QueuesKept.laws (queuesKept_of_empty rfl rfl)
  | resetInputAssert => cases h; exact QueuesKept.laws (queuesKept_of_queues rfl)
  | resetInputRelease =>
    cases h
    refine QueuesKept.laws ?_
    split
    · split
      · exact (warmStart_queuesKept { s with resetHeld := false }).after rfl
      · exact queuesKept_of_queues rfl
    · exact .refl s
  | ignitionSenseChange level => cases h; split <;> exact QueuesKept.laws (queuesKept_of_queues rfl)
  | ignitionOn =>
    cases h; split; exacts [QueuesKept.laws ((takeIgnitionOn_queuesKept (s.setIgnition true)).after rfl), id]
  | ignitionOff =>
    cases h; split; exacts [QueuesKept.laws ((takeIgnitionOff_queuesKept (s.setIgnition false)).after rfl), id]
  | portBFrameStart => cases h; split; exacts [(wakingEntry_queuesKept s).laws, id]
  | monotonicAdvance =>
    cases h
    refine QueuesKept.laws ?_
    split
    · split
      · exact (accountingTick_queuesKept s.advanceSeconds).after rfl
      · exact queuesKept_of_queues rfl
    · exact .refl s
  | linkTransfer u =>
    cases h
    refine QueuesKept.laws ?_
    split
    · split
      · exact (transfer_queuesKept s u).trans (conclude_queuesKept _)
      · exact queuesKept_of_queues rfl
    · exact .refl s
  | frameArrival f =>
    exact onAwake_queueLaws h fun hs => (conclude_queuesKept _).laws (frameArrived_queueLaws s f hs)
  | load tag table index entry =>
    exact onAwake_queuesKept h ((requestLoad_queuesKept s tag _ _ _).trans (conclude_queuesKept _))
  | setField tag table index field value =>
    exact onAwake_queuesKept h ((requestSetField_queuesKept s tag _ _ _ _).trans (conclude_queuesKept _))
  | read tag table index => exact onAwake_queuesKept h (answerRead_queuesKept s 2 tag _)
  | readField tag table index field => exact onAwake_queuesKept h (answerRead_queuesKept s 4 tag _)
  | state tag target index => exact onAwake_queuesKept h (answerRead_queuesKept s 5 tag _)
  | clearFaults tag classes => exact onAwake_queuesKept h (requestClearFaults_queuesKept s tag classes)
  | intakeSectionReset tag => exact onAwake_queuesKept h (requestReset_queuesKept s tag .intake)
  | signalsSectionReset tag => exact onAwake_queuesKept h (requestReset_queuesKept s tag .signals)
  | speedSectionReset tag => exact onAwake_queuesKept h (requestReset_queuesKept s tag .speed)
  | gaugesSectionReset tag =>
    exact onAwake_queuesKept h ((requestReset_queuesKept s tag .gauges).trans (conclude_queuesKept _))
  | telltalesSectionReset tag => exact onAwake_queuesKept h (requestReset_queuesKept s tag .telltales)
  | presentationSectionReset tag => exact onAwake_queuesKept h (requestReset_queuesKept s tag .presentation)
  | crewSectionReset tag => exact onAwake_queuesKept h (requestReset_queuesKept s tag .crew)
  | faultsSectionReset tag => exact onAwake_queuesKept h (requestReset_queuesKept s tag .faults)
  | start tag => exact onAwake_queuesKept h ((requestStart_queuesKept s tag).trans (conclude_queuesKept _))
  | warmReset tag => exact onAwake_queuesKept h (requestWarmReset_queuesKept s tag)
  | serviceSetField a table index field value => exact onAwake_queueLaws h (serviceSetField_queueLaws s a _ _ _ _)
  | serviceReadField a table index field => exact onAwake_queueLaws h (serviceReadField_queueLaws s a _ _ _)
  | serviceClearFaults a classes => exact onAwake_queueLaws h (serviceClearFaults_queueLaws s a classes)
  | readFaults a => exact onAwake_queueLaws h (serviceReadFaults_queueLaws s a)
  | silenceExpiry p =>
    exact onAwake_queuesKept_if h ((raise_queuesKept (s.openEpisode p) _ _).after (by cases p <;> rfl))
  | holdExpiry k => exact onAwake_queuesKept_if h (goHeld_queuesKept s k)
  | staleExpiry k => exact onAwake_queuesKept_if h (goStale_queuesKept s k)
  | plausibilityTick => exact onAwake_queuesKept_if h (plausibilityTicked_queuesKept s)
  | filterTick => exact onAwake_queuesKept_if h (filterTicked_queuesKept s)
  | stallReport ch => exact onAwake_queuesKept h ((stallReported_queuesKept s ch).trans (conclude_queuesKept _))
  | onDebounceExpiry i => exact onAwake_queuesKept_if h (whole_queuesKept s fun s => (moving_presented i).telltaleOn s)
  | offDebounceExpiry i =>
    exact onAwake_queuesKept_if h (whole_queuesKept s fun s => (moving_presented i).telltaleFallen s)
  | lampNoCurrent ch => exact onAwake_queuesKept_if h (lampFails_queuesKept s ch _ _)
  | lampCurrentPresent ch => exact onAwake_queuesKept_if h (queuesKept_of_queues rfl)
  | lampOverCurrent ch => exact onAwake_queuesKept_if h (lampFails_queuesKept s ch _ _)
  | bulbCheckExpiry =>
    exact onAwake_queuesKept_if h (((endBulbCheck_queuesKept s).same (reportBulbEnd_queues _)).trans (conclude_queuesKept _))
  | chimeOnExpiry => exact onAwake_queuesKept h (chimeOnEnds_queuesKept s)
  | chimeOffExpiry => exact onAwake_queuesKept h (chimeOffEnds_queuesKept s)
  | chimeNoCurrent => exact onAwake_queuesKept h (chimeFails_queuesKept s)
  | chimeCurrentPresent => exact onAwake_queuesKept h (chimeRecovers_queuesKept s)
  | settleExpiry => exact onAwake_queuesKept_if h ((enterByLevel_queuesKept s).trans (conclude_queuesKept _))
  | quietExpiry => exact onAwake_queuesKept_if h ((conclude_queuesKept (s.setQuiet .elapsed)).after rfl)
  | replyFrameSend => exact onAwake_queuesKept h (sendReply_queuesKept s)
  | replyFrameSent => exact onAwake_queuesKept h (replySent_queuesKept s)
  | replyFrameNotSent => exact onAwake_queuesKept h (replyNotSent_queuesKept s)
  | replyExpiry place => exact onAwake_queuesKept h (replyExpired_queuesKept s _)
  | msCounterAdvance => exact onAwake_queueLaws h (advanceMs_queueLaws s)

/-- Settles O53: an idle step changes nothing, and a command keeps the bounds by `exec_queueLaws`. -/
theorem stepsKeepTheQueueBounds : Obligations.StepsKeepTheQueueBounds := by
  intro s t hs h
  unfold step at h
  split at h
  · cases h; exact hs
  · exact exec_queueLaws h (QueuesKept.laws (s := s) (queuesKept_of_queues rfl) hs)

end Sys2Proof.Machine
end

section
/-! PROOFS. Port B: service requests, their checks in order, and reply frames (R181 to R184, R190). -/

namespace Sys2Proof.Machine

/-! ### Service requests that find four frames queued, or room (R181) -/

theorem unlessBusy_busy {s : State} (h : 4 ≤ s.portB.queue.length) (handle : State → State) :
    unlessBusy s handle = raiseRefused .busy s := if_pos h

/-- A service request to which the queue leaves no place (R181). -/
theorem exec_busy {c : Instr} {s : State} {handle : State → State} (hs : s.awake = true) (hfull : 4 ≤ s.portB.queue.length)
    (hc : exec c s = onAwake (fun s => unlessBusy s handle) s) :
    ∃ t, exec c s = .next t ∧ Raised s .mgmtRefused (.item ReplyStatus.busy.code) t :=
  ⟨_, hc.trans (onAwake_of_awake hs), by rw [unlessBusy_busy hfull]; exact raise_spec _ _ s⟩

/-- A refused service request: MGMT_REFUSED with the status, then the reply frame with the status alone (R181). -/
theorem refuseService_refused (reply : ReplyAddress) (code : Byte) (r : ReplyStatus) (s : State) :
    ∃ u, Raised s .mgmtRefused (.item r.code) u ∧
      refuseService reply code r s = u.replyPlaced reply [replyHead code r] :=
  ⟨_, raise_spec _ _ s, placeReply_replyFrame ..⟩

/-! ### Reads (R183, R190) -/

/-- READ_FAULTS' data as R190 lays them out. -/
theorem report_eq (f : Faults) : f.report = statusBytes f.status ++
    [((match f.capture with
      | none => 0x10
      | some k => BitVec.ofNat 8 k.faultClass.number.val) : Byte) ||| (if f.overflow = true then 0x20 else 0)] ++
    wordBytes (match f.capture with
      | none => 0
      | some k => k.stamp.mono) := by
  unfold Faults.report
  cases f.capture <;> simp

theorem size_le_of_entryBytes {s : State} {t : TableId} {k : Nat} (h : s.entryBytes t k = none) : t.size ≤ k :=
  Nat.not_lt.1 fun hk => by
    rw [← entryBytes_isSome s, h] at hk
    cases hk

section
variable {reply : ReplyAddress} {table index field : Byte} {s : State}

theorem serviceReadField_refused {r : ReplyStatus} (hfree : s.portB.queue.length < 4)
    (h : s.nameField table index field = .error r) :
    ∃ u, Raised s .mgmtRefused (.item r.code) u ∧
      serviceReadField reply table index field s = u.replyPlaced reply [replyHead 4 r] := by
  unfold serviceReadField State.readField
  rw [unlessBusy_free hfree, h]
  exact refuseService_refused reply 4 r s

theorem serviceReadField_answered {f : NamedField} (hfree : s.portB.queue.length < 4)
    (h : s.nameField table index field = .ok f) :
    serviceReadField reply table index field s =
      s.replyPlaced reply (replyHead 4 .ok :: wordBytes (f.layout.value f.entry)) := by
  unfold serviceReadField State.readField
  rw [unlessBusy_free hfree, h]
  exact placeReply_data ..

end

/-- Settles O48: a full queue is BUSY for each request; else the read answers by the check that fails first, or with what stands. -/
theorem serviceReadsAnswerUnlessBusy : Obligations.ServiceReadsAnswerUnlessBusy := by
  intro reply table index field value classes s hs
  refine ⟨fun hfull c hc => ?_, fun hfree => ⟨⟨_, onAwake_of_awake hs, ?_⟩, _, onAwake_of_awake hs, ?_⟩⟩
  · simp only [List.mem_cons, List.not_mem_nil, or_false] at hc
    rcases hc with rfl | rfl | rfl | rfl <;> exact exec_busy hs hfull rfl
  · intro refused
    cases htable : byteEnum tableCodes table with
    | none => exact serviceReadField_refused hfree (nameField_badTable htable)
    | some id =>
      dsimp only
      cases hentry : s.entryBytes id index.toNat with
      | none => exact serviceReadField_refused hfree (nameField_badIndex htable (size_le_of_entryBytes hentry))
      | some l =>
        dsimp only
        cases hfield : id.fields[field.toNat]? with
        | none =>
          exact serviceReadField_refused hfree (nameField_badField htable hentry (List.getElem?_eq_none_iff.1 hfield))
        | some f => exact serviceReadField_answered hfree (nameField_named htable hentry hfield)
  · unfold serviceReadFaults
    rw [unlessBusy_free hfree, report_eq]
    exact placeReply_data ..

/-! ### SET_FIELD (R182) -/

/-- What SERVICE authority may write is what check 5 permits (R177, R182). -/
theorem servicePermits_iff {s : State} {f : NamedField} (hfield : f.table.fields[f.id]? = some f.layout) :
    s.servicePermits f = true ↔ s.serviceMay f.table f.index f.id := by
  obtain ⟨t, k, id, layout, l⟩ := f
  have hid : id < t.fields.length := (List.getElem?_eq_some_iff.1 hfield).1
  cases t with
  | curve =>
    have hid : id < 18 := hid
    simp [State.servicePermits, State.serviceMay]
    omega
  | map =>
    rcases Nat.lt_or_ge k 192 with hk | hk
    · obtain ⟨i, rfl⟩ : ∃ i : Fin 192, i.val = k := ⟨⟨k, hk⟩, rfl⟩
      simp [State.servicePermits, State.serviceMay, Fin.val_inj]
    · have hnone : ∀ i : Fin 192, i.val ≠ k := fun i hi => by omega
      simp [State.servicePermits, State.serviceMay, natIndex_of_le hk, hnone]
  | _ => simp [State.servicePermits, State.serviceMay]

section
variable {reply : ReplyAddress} {table index field : Byte} {value : Word32} {s : State}

/-- A SERVICE SET_FIELD whose checks or write fail with a status (R181, R182). -/
theorem serviceSetField_refused {r : ReplyStatus} (hs : s.awake = true) (hfree : s.portB.queue.length < 4)
    (h : serviceWrite table index field value s = .error r) :
    ∃ u t, exec (.serviceSetField reply table index field value) s = .next t ∧
      Raised s .mgmtRefused (.item r.code) u ∧ t = u.replyPlaced reply [replyHead 3 r] := by
  obtain ⟨u, hraised, hplaced⟩ := refuseService_refused reply 3 r s
  refine ⟨u, _, onAwake_of_awake hs, hraised, ?_⟩
  unfold serviceSetField
  rw [unlessBusy_free hfree, h]
  exact hplaced

/-- A SERVICE SET_FIELD whose write is accepted (R182). -/
theorem serviceSetField_written {u : State} (hs : s.awake = true) (hfree : s.portB.queue.length < 4)
    (h : serviceWrite table index field value s = .ok u) :
    exec (.serviceSetField reply table index field value) s = .next (u.replyPlaced reply [replyHead 3 .ok]) := by
  refine (onAwake_of_awake hs).trans (congrArg _ ?_)
  unfold serviceSetField
  rw [unlessBusy_free hfree, h]
  exact placeReply_replyFrame ..

theorem serviceWrite_unnamed {r : ReplyStatus} (h : s.nameField table index field = .error r) :
    serviceWrite table index field value s = .error r := by
  unfold serviceWrite
  rw [h]

/-- Check 5 (R177, R182). -/
theorem serviceWrite_notPermitted {f : NamedField} (h : s.nameField table index field = .ok f)
    (hpermits : s.servicePermits f = false) : serviceWrite table index field value s = .error .notPermitted := by
  simp [serviceWrite, h, hpermits]

/-- The workshop condition (R182). -/
theorem serviceWrite_notStationary {f : NamedField} (h : s.nameField table index field = .ok f)
    (hpermits : s.servicePermits f = true) (hworkshop : s.workshopCondition = false) :
    serviceWrite table index field value s = .error .notStationary := by
  simp [serviceWrite, h, hpermits, hworkshop]

/-- Past these checks it is the host's write (R182). -/
theorem serviceWrite_passed {f : NamedField} (h : s.nameField table index field = .ok f)
    (hpermits : s.servicePermits f = true) (hworkshop : s.workshopCondition = true) :
    serviceWrite table index field value s = f.write value s := by
  simp [serviceWrite, h, hpermits, hworkshop]

end

/-- Check 6 of a named field's write: what does not fit is RANGE, and a block's refusal has its own status (R177). -/
theorem namedField_write_bad {f : NamedField} {value : Word32} {s : State} (hindex : f.index < f.table.size)
    (h : f.layout.fits value = false ∨ entryGood f.table (f.layout.splice f.entry value) = false) :
    f.write value s = .error
      (if f.layout.fits value = true then entryStatus f.table (f.layout.splice f.entry value) else .range) := by
  unfold NamedField.write
  split
  · next hfits =>
    have hbad := h.resolve_left (by rw [hfits]; decide)
    exact writeEntry_bad _ s hindex hbad
  · rfl

theorem namedField_write_good {f : NamedField} {value : Word32} (s : State) (hindex : f.index < f.table.size)
    (hfits : f.layout.fits value = true) (hgood : entryGood f.table (f.layout.splice f.entry value) = true) :
    ∃ u, f.write value s = .ok u ∧ EntryTaken s f.table f.index (f.layout.splice f.entry value) (.field f.id) u := by
  obtain ⟨u, hwritten, htaken⟩ := writeEntry_good (.field f.id) s hindex hgood
  exact ⟨u, by rw [NamedField.write, if_pos hfits, hwritten], htaken⟩

/-- Settles O49: the checks in their order by the lemmas of `serviceWrite`, then the host's write of the named field. -/
theorem serviceSetFieldPassesItsChecksInOrder : Obligations.ServiceSetFieldPassesItsChecksInOrder := by
  intro reply table index field value s hs hfree refused
  have hrefused : ∀ r, serviceWrite table index field value s = .error r → refused r :=
    fun r => serviceSetField_refused hs hfree
  refine ⟨fun htable => hrefused _ (serviceWrite_unnamed (nameField_badTable htable)), fun id htable =>
    ⟨fun hindex => hrefused _ (serviceWrite_unnamed (nameField_badIndex htable hindex)), fun l hentry =>
    ⟨fun hfield => hrefused _ (serviceWrite_unnamed (nameField_badField htable hentry hfield)), fun f hfield => ?_⟩⟩⟩
  have hnamed := nameField_named htable hentry hfield
  have hpermits := servicePermits_iff (s := s) (f := ⟨id, index.toNat, field.toNat, f, l⟩) hfield
  have hindex := lt_of_entryBytes hentry
  refine ⟨fun hmay => hrefused _ (serviceWrite_notPermitted hnamed (Bool.eq_false_iff.2 (mt hpermits.1 hmay))),
    fun hmay hworkshop => hrefused _ (serviceWrite_notStationary hnamed (hpermits.2 hmay) hworkshop),
    fun hmay hworkshop => ?_⟩
  have hpassed := serviceWrite_passed (value := value) hnamed (hpermits.2 hmay) hworkshop
  refine ⟨fun hbad => hrefused _ (hpassed.trans (namedField_write_bad hindex hbad)), fun hfits hgood => ?_⟩
  obtain ⟨u, hwritten, htaken⟩ :=
    namedField_write_good (f := ⟨id, index.toNat, field.toNat, f, l⟩) s hindex hfits hgood
  exact ⟨u, _, serviceSetField_written hs hfree (hpassed.trans hwritten), htaken, rfl⟩

/-! ### Reply frames (R184) -/

section
variable {s : State}

theorem sendReply_head {q : QueuedReply} {rest : List QueuedReply} (ht : s.portB.transmit = .idle)
    (hq : s.portB.queue = q :: rest) : s.sendReply = s.setTransmit (.sending q.frame true) := by
  unfold State.sendReply
  rw [ht, hq]

theorem sendReply_nothing (h : s.portB.transmit ≠ .idle ∨ s.portB.queue = []) : s.sendReply = s := by
  unfold State.sendReply
  split
  · next ht hq => exact absurd h (by simp [ht, hq])
  · rfl
  · rfl

theorem replySent_sending {f : ReplyFrame} {atHead : Bool} (ht : s.portB.transmit = .sending f atHead) :
    s.replySent = (if atHead then s.setReplies s.portB.queue.tail else s).setTransmit .idle := by
  unfold State.replySent
  rw [ht]

theorem replySent_idle (ht : s.portB.transmit = .idle) : s.replySent = s := by
  unfold State.replySent
  rw [ht]

theorem replyNotSent_sending {f : ReplyFrame} {atHead : Bool} (ht : s.portB.transmit = .sending f atHead) :
    s.replyNotSent = s.setTransmit .idle := by
  unfold State.replyNotSent
  rw [ht]

theorem replyNotSent_idle (ht : s.portB.transmit = .idle) : s.replyNotSent = s := by
  unfold State.replyNotSent
  rw [ht]

theorem replyExpired_due {place : Nat} {q : QueuedReply} (hq : s.portB.queue[place]? = some q) (hdue : q.left = 0) :
    s.replyExpired place =
      (s.setReplies (s.portB.queue.eraseIdx place)).setTransmit (s.portB.transmit.expire place) := by
  unfold State.replyExpired
  rw [hq]
  exact if_pos hdue

theorem replyExpired_notDue {place : Nat} (h : ∀ q, s.portB.queue[place]? = some q → q.left ≠ 0) :
    s.replyExpired place = s := by
  unfold State.replyExpired
  split
  · rfl
  · next hq => exact if_neg (h _ hq)

end

/-- An expired head is no longer the frame that port B sends (R184). -/
theorem expire_eq (t : PortTransmit) (place : Fin 4) : t.expire place.val =
    match t with
    | .sending f b => .sending f (b && !decide (place = 0))
    | .idle => .idle := by
  have hhead : (place.val == 0) = decide (place = 0) := by rw [Bool.eq_iff_iff]; simp
  unfold PortTransmit.expire
  cases t with
  | idle => rfl
  | sending f b => simp only [hhead]

/-- Settles O51: each event of the transmitter by its equations, an expiry by `replyExpired_due` and `expire_eq`. -/
theorem replyFramesAreSentOrExpire : Obligations.ReplyFramesAreSentOrExpire := by
  intro s hs
  have run : ∀ {c : Instr} {f : State → State} {t : State}, exec c s = onAwake f s → f s = t → exec c s = .next t :=
    fun hc hf => hc.trans (by rw [onAwake_of_awake hs, hf])
  refine ⟨fun q rest ht hq => run rfl (sendReply_head ht hq), fun h => run rfl (sendReply_nothing h),
    fun f ht => run rfl (replySent_sending ht), fun f ht => run rfl (replySent_sending ht),
    fun f b ht => run rfl (replyNotSent_sending ht),
    fun ht => ⟨run rfl (replySent_idle ht), run rfl (replyNotSent_idle ht)⟩, fun place =>
    ⟨fun q hq hdue => run (f := fun s => s.replyExpired place.val) rfl ((replyExpired_due hq hdue).trans ?_),
      fun h => run (f := fun s => s.replyExpired place.val) rfl (replyExpired_notDue h)⟩⟩
  rw [expire_eq]
  rfl

end Sys2Proof.Machine
end

section
/-! PROOFS. Bytes in order: the number that bytes carry, the bytes that a number fills, and the link record around a payload (R175, R185,
R186). -/

namespace Sys2Proof.Machine

open Sys2Proof.Laws (natBytes_length)

/-! ### Numbers in bytes (R185) -/

theorem bytesNat_natBytes (w n : Nat) : bytesNat (natBytes w n) = n % 2 ^ (8 * w) := by
  induction w generalizing n with
  | zero => simp [natBytes, bytesNat, Nat.mod_one]
  | succ w ih =>
    rw [natBytes, bytesNat, ih, BitVec.toNat_ofNat, show 8 * (w + 1) = 8 + 8 * w from by omega, Nat.pow_add, Nat.mod_mul]

theorem bytesNat_lt (l : List Byte) : bytesNat l < 2 ^ (8 * l.length) := by
  induction l with
  | nil => simp [bytesNat]
  | cons b l ih =>
    have hb := b.isLt
    rw [bytesNat, List.length_cons, show 8 * (l.length + 1) = 8 * l.length + 8 from by omega, Nat.pow_add]
    omega

theorem natBytes_bytesNat (l : List Byte) : natBytes l.length (bytesNat l) = l := by
  induction l with
  | nil => rfl
  | cons b l ih =>
    have hb := b.isLt
    have hlow : BitVec.ofNat 8 (b.toNat + 256 * bytesNat l) = b := by
      apply BitVec.eq_of_toNat_eq
      rw [BitVec.toNat_ofNat]
      omega
    have hhigh : (b.toNat + 256 * bytesNat l) / 256 = bytesNat l := by omega
    rw [bytesNat, List.length_cons, natBytes, hlow, hhigh, ih]

/-- The number at the offset at which a number's bytes stand. -/
theorem numAt_of_bytes {l : List Byte} {i w n : Nat} (h : (l.drop i).take w = natBytes w n) :
    numAt l i w = n % 2 ^ (8 * w) := by
  rw [numAt, h, bytesNat_natBytes]

theorem wordAt_of_bytes {l : List Byte} {i : Nat} {x : Word32} (h : (l.drop i).take 4 = wordBytes x) : wordAt l i = x := by
  rw [wordAt, numAt_of_bytes h, Nat.mod_eq_of_lt x.isLt, BitVec.ofNat_toNat, BitVec.setWidth_eq]

theorem byteAt_add (l : List Byte) (i j : Nat) : byteAt l (i + j) = byteAt (l.drop i) j := by
  simp [byteAt, List.getD]

theorem numAt_add (l : List Byte) (i j w : Nat) : numAt l (i + j) w = numAt (l.drop i) j w := by
  rw [numAt, numAt, List.drop_drop]

theorem wordAt_add (l : List Byte) (i j : Nat) : wordAt l (i + j) = wordAt (l.drop i) j := by
  rw [wordAt, numAt_add, wordAt]

theorem ofNat_bytesNat_natBytes {w : Nat} (x : BitVec (8 * w)) : BitVec.ofNat (8 * w) (bytesNat (natBytes w x.toNat)) = x := by
  rw [bytesNat_natBytes, Nat.mod_eq_of_lt x.isLt, BitVec.ofNat_toNat, BitVec.setWidth_eq]

/-! ### The link record (R175, R186) -/

/-- The bytes of a link record that its check covers: kind, payload length, payload, zeros. -/
def linkBody (kind : Byte) (payload : List Byte) : List Byte :=
  kind :: BitVec.ofNat 8 payload.length :: (payload ++ List.replicate (60 - payload.length) 0)

/-- The check's two bytes, the high one first (R175). -/
def checkBytes (c : Word16) : List Byte := [(c >>> 8).setWidth 8, c.setWidth 8]

theorem linkRecord_eq (kind : Byte) (payload : List Byte) :
    linkRecord kind payload = linkBody kind payload ++ checkBytes (crc16 (linkBody kind payload)) := rfl

theorem checkBytes_joined (c : Word16) : (c >>> 8).setWidth 8 ++ c.setWidth 8 = c := by
  apply BitVec.eq_of_toNat_eq
  have hc := c.isLt
  rw [toNat_append_byte, BitVec.toNat_setWidth, BitVec.toNat_setWidth, BitVec.toNat_ushiftRight, Nat.shiftRight_eq_div_pow]
  omega

section
variable {kind : Byte} {payload : List Byte} (h : payload.length ≤ 60)
include h

theorem linkBody_length : (linkBody kind payload).length = 62 := by
  simp only [linkBody, List.length_cons, List.length_append, List.length_replicate]
  omega

theorem linkRecord_length : (linkRecord kind payload).length = 64 := by
  rw [linkRecord_eq, List.length_append, linkBody_length h]
  rfl

theorem linkRecord_take_body : (linkRecord kind payload).take 62 = linkBody kind payload := by
  rw [linkRecord_eq, List.take_left' (linkBody_length h)]

theorem linkRecord_payloadLength : (byteAt (linkRecord kind payload) 1).toNat = payload.length := by
  change (BitVec.ofNat 8 payload.length).toNat = payload.length
  rw [BitVec.toNat_ofNat]
  omega

theorem byteAt_linkRecord_check {j : Nat} : byteAt (linkRecord kind payload) (62 + j) =
    byteAt (checkBytes (crc16 (linkBody kind payload))) j := by
  unfold byteAt
  rw [linkRecord_eq, List.getD_append_right _ _ _ _ (by rw [linkBody_length h]; omega), linkBody_length h]
  congr 1
  omega

/-- The check stands behind the bytes it covers, its high byte first (R175). -/
theorem linkRecord_check :
    byteAt (linkRecord kind payload) 62 ++ byteAt (linkRecord kind payload) 63 = crc16 ((linkRecord kind payload).take 62) := by
  rw [linkRecord_take_body h, byteAt_linkRecord_check h (j := 0), byteAt_linkRecord_check h (j := 1)]
  exact checkBytes_joined _

end

theorem linkRecord_drop (kind : Byte) (payload : List Byte) : (linkRecord kind payload).drop 2 =
    payload ++ (List.replicate (60 - payload.length) 0 ++ checkBytes (crc16 (linkBody kind payload))) := by
  rw [linkRecord_eq, linkBody]
  simp

/-- The payload stands behind kind and length (R186). -/
theorem linkRecord_payload (kind : Byte) (payload : List Byte) :
    ((linkRecord kind payload).drop 2).take payload.length = payload := by
  rw [linkRecord_drop, List.take_left]

/-- The bytes between payload and check are zeros (R186). -/
theorem linkRecord_zeros {kind : Byte} {payload : List Byte} (h : payload.length ≤ 60) {j : Nat} (hj : 2 + payload.length ≤ j)
    (hlast : j < 62) : byteAt (linkRecord kind payload) j = 0 := by
  obtain ⟨i, rfl⟩ : ∃ i, j = 2 + i := ⟨j - 2, by omega⟩
  rw [byteAt_add, linkRecord_drop]
  unfold byteAt
  rw [List.getD_append_right _ _ _ _ (by omega), List.getD_append _ _ _ _ (by rw [List.length_replicate]; omega)]
  rw [List.getD_eq_getElem _ _ (by rw [List.length_replicate]; omega), List.getElem_replicate]

/-! ### The upstream record's checks (R175) -/

theorem upstreamPasses_iff (u : List Byte) : upstreamPasses u = true ↔ upstreamGood u := by
  have hcheck : BitVec.ofNat 16 (256 * (byteAt u 62).toNat + (byteAt u 63).toNat) = byteAt u 62 ++ byteAt u 63 := by
    apply BitVec.eq_of_toNat_eq
    rw [toNat_append_byte, BitVec.toNat_ofNat]
    omega
  unfold upstreamPasses upstreamGood
  rw [hcheck]
  simp only [Bool.and_eq_true, Bool.or_eq_true, beq_iff_eq, decide_eq_true_eq, RecordKind.code, and_assoc]

/-- A link record of either upstream kind passes its checks (R175). -/
theorem upstreamGood_linkRecord {kind : Byte} {payload : List Byte} (hkind : kind = 0x00 ∨ kind = 0x01)
    (h : payload.length ≤ 60) : upstreamGood (linkRecord kind payload) :=
  ⟨(linkRecord_check h).symm, hkind, by rw [linkRecord_payloadLength h]; exact h⟩

end Sys2Proof.Machine
end

section
/-! PROOFS. Transfers on the display link: the downstream record, the upstream record's checks, and the request that it carries (R173 to
R175, R177, R180, R187). -/

namespace Sys2Proof.Machine

/-! ### A transfer in an awake part (R173, R175) -/

theorem sendDownstream_eq (s : State) : s.sendDownstream = s.downstreamSent := by
  obtain ⟨_, _, _, _, _, _, _, _, _, _, _, _, _, ⟨egress, _⟩, _⟩ := s
  cases egress <;> rfl

theorem keepAlive_of_awake {s : State} (h : s.awake = true) : s.keepAlive = true := by
  simp only [State.awake, Bool.and_eq_true] at h
  exact h.1.1

theorem exec_linkTransfer {s : State} (hs : s.awake = true) (u : List Byte) :
    exec (.linkTransfer u) s = .next (conclude (handleUpstream u s.downstreamSent)) := by
  rw [← sendDownstream_eq]
  change Host.Outcome.next (if s.keepAlive then (if s.awake then conclude (transfer u s) else s.transferUnserved) else s) = _
  rw [if_pos (keepAlive_of_awake hs), if_pos hs]
  rfl

section
variable {u : List Byte} (s : State)

theorem handleUpstream_empty (hgood : upstreamGood u) (hkind : byteAt u 0 = 0) : handleUpstream u s = s := by
  unfold handleUpstream
  rw [if_pos ((upstreamPasses_iff u).2 hgood)]
  exact if_pos hkind

theorem handleUpstream_bad (hbad : ¬ upstreamGood u) : handleUpstream u s = raise .linkCheck (.item (byteAt u 0)) s :=
  if_neg (mt (upstreamPasses_iff u).1 hbad)

theorem handleUpstream_request (hgood : upstreamGood u) (hkind : byteAt u 0 = 1) :
    handleUpstream u s = handlePayload ((u.drop 2).take (byteAt u 1).toNat) s := by
  unfold handleUpstream
  rw [if_pos ((upstreamPasses_iff u).2 hgood)]
  exact if_neg (by rw [hkind]; decide)

end

/-! ### A payload that carries no request (R177, R187) -/

theorem byteEnum_none_iff {α : Type} (values : List α) (b : Byte) : byteEnum values b = none ↔ values.length ≤ b.toNat :=
  List.getElem?_eq_none_iff

/-- A code that is not known on the link, or arguments too short for it, is RANGE (R177, check 1). -/
theorem dispatch_unknown {code : Byte} {args : List Byte} (h : ¬ requestKnown code args) (tag : Word16) (s : State) :
    dispatch code tag args s = refuse code tag .range s := by
  have hcode : ∀ n : Byte, code.toNat = n.toNat → code = n := fun _ => BitVec.eq_of_toNat_eq
  simp only [requestKnown, not_or, not_and] at h
  obtain ⟨h1, h2, h3, h4, h5, h6, h7, h8, h9⟩ := h
  unfold dispatch
  split
  case h_1 hn => exact absurd (by simp) (h1 (hcode 1 hn))
  case h_2 hn => exact absurd (by simp) (h2 (hcode 2 hn))
  case h_3 hn => exact absurd (by simp) (h3 (hcode 3 hn))
  case h_4 hn => exact absurd (by simp) (h4 (hcode 4 hn))
  case h_5 hn => exact absurd (by simp) (h5 (hcode 5 hn))
  case h_6 hn => exact absurd (by simp) (h6 (hcode 6 hn))
  case h_7 x rest hn =>
    have h7 := h7 (hcode 7 hn)
    cases hx : byteEnum sectionCodes x with
    | none => rw [hcode 7 hn]
    | some y =>
      have hlt : x.toNat < 8 := Nat.lt_of_not_le fun hle => by
        rw [(byteEnum_none_iff sectionCodes x).2 hle] at hx
        cases hx
      exact absurd ⟨x, rest, rfl, hlt⟩ h7
  case h_8 hn => exact absurd (hcode 8 hn) h8
  case h_9 hn => exact absurd (hcode 9 hn) h9
  · rfl

theorem ready_iff (s : State) : s.ready = true ↔ s.awake = true ∧ s.link.egress ≠ [] := by
  simp [State.ready]

/-- Settles O41: a transfer is the downstream record, then `handleUpstream` by its cases, then the end of the event. -/
theorem transferSendsTheHeadAndChecksTheRecord : Obligations.TransferSendsTheHeadAndChecksTheRecord := by
  refine ⟨fun r s hs => ⟨fun hgood hkind => ⟨_, exec_linkTransfer hs r, ?_⟩,
    fun hbad => ⟨_, _, exec_linkTransfer hs r, ?_, conclude_spec _⟩, ?_⟩, fun s => ?_⟩
  · rw [handleUpstream_empty _ hgood hkind]
    exact conclude_spec _
  · rw [handleUpstream_bad _ hbad]
    exact raise_spec _ _ _
  · intro hgood hkind payload refused
    have hrefused : ∀ code tag, handlePayload payload s.downstreamSent = refuse code tag .range s.downstreamSent →
        refused code tag := fun code tag h =>
      ⟨_, _, exec_linkTransfer hs r, by rw [handleUpstream_request _ hgood hkind, h]; exact refuse_refused .., conclude_spec _⟩
    refine ⟨fun hp => hrefused _ _ (by rw [hp]; rfl), fun code hp => hrefused _ _ (by rw [hp]; rfl),
      fun code t0 hp => hrefused _ _ (by rw [hp]; rfl), fun code t0 t1 args hp hunknown => hrefused _ _ ?_⟩
    rw [hp, ← bytesNat_two]
    exact dispatch_unknown hunknown _ _
  · refine ⟨fun hs => by simp [ready_iff, hs], fun hs => ?_⟩
    rw [Bool.eq_false_iff, Ne, ready_iff, hs]
    exact fun h => absurd h.1 (by decide)

/-! ### A payload that carries a request (R187) -/

/-- Code and tag, then the arguments (R187). -/
theorem handlePayload_carried (code : Byte) (tag : Word16) (args : List Byte) (s : State) :
    handlePayload (code :: natBytes 2 tag.toNat ++ args) s = dispatch code tag args s := by
  change dispatch code (BitVec.ofNat 16 (bytesNat (natBytes 2 tag.toNat))) args s = _
  rw [ofNat_bytesNat_natBytes (w := 2) tag]

theorem handlePayload_setField (tag : Word16) (table index field : Byte) (value : Word32) (s : State) :
    handlePayload (3 :: natBytes 2 tag.toNat ++ [table, index, field] ++ wordBytes value) s =
      requestSetField tag table index field value s := by
  rw [List.append_assoc, handlePayload_carried]
  change requestSetField tag table index field (wordAt (wordBytes value) 0) s = _
  rw [wordAt_of_bytes rfl]

theorem handlePayload_clearFaults (tag classes : Word16) (s : State) :
    handlePayload (6 :: natBytes 2 tag.toNat ++ natBytes 2 classes.toNat) s = requestClearFaults tag classes s := by
  rw [handlePayload_carried]
  change requestClearFaults tag (BitVec.ofNat 16 (bytesNat (natBytes 2 classes.toNat))) s = _
  rw [ofNat_bytesNat_natBytes (w := 2) classes]

/-- The end of an event that has left no move undone (R156, R158). -/
theorem conclude_of_settled {s : State} (h : Settled s) : conclude s = s := by
  have hs := conclude_spec s
  unfold Concluded at hs
  rw [if_neg fun ⟨hp, hmove⟩ => h.homing hp hmove, if_neg fun ⟨hp, hmove⟩ => h.standby hp hmove] at hs
  exact hs

/-- A payload that carries a request does what the request does as a command of its own, the end of its event included. -/
theorem exec_carried {c : Instr} {l : List Byte} {x : State} (hx : x.awake = true) (hsettled : Settled x)
    (hl : requestPayload c = some l) : exec c x = .next (conclude (handlePayload l x)) := by
  have whole : ∀ {f : State → State}, exec c x = onAwake (fun s => conclude (f s)) x → handlePayload l x = f x →
      exec c x = .next (conclude (handlePayload l x)) :=
    fun {f} hc hf => by rw [hc, onAwake_of_awake hx, hf]
  have standing : ∀ {f : State → State}, exec c x = onAwake f x → handlePayload l x = f x → Settled (f x) →
      exec c x = .next (conclude (handlePayload l x)) :=
    fun {f} hc hf h => by rw [hc, onAwake_of_awake hx, hf, conclude_of_settled h]
  have reset : ∀ {tag : Word16} {y : Section}, y ≠ .gauges → exec c x = onAwake (requestReset tag y) x →
      handlePayload l x = requestReset tag y x → exec c x = .next (conclude (handlePayload l x)) :=
    fun hy hc hf => standing hc hf (hsettled.of_footing (requestReset_footing x _ hy))
  cases c with
  | load tag table index entry =>
    cases hl
    exact whole (f := requestLoad tag table index entry) rfl (by rw [List.append_assoc, handlePayload_carried]; rfl)
  | read tag table index =>
    cases hl
    exact standing (f := requestRead tag table index) rfl (handlePayload_carried ..)
      (hsettled.of_footing (answerRead_footing x 2 tag _))
  | setField tag table index field value =>
    cases hl
    exact whole (f := requestSetField tag table index field value) rfl (handlePayload_setField ..)
  | readField tag table index field =>
    cases hl
    exact standing (f := requestReadField tag table index field) rfl (handlePayload_carried ..)
      (hsettled.of_footing (answerRead_footing x 4 tag _))
  | state tag target index =>
    cases hl
    exact standing (f := requestState tag target index) rfl (handlePayload_carried ..)
      (hsettled.of_footing (answerRead_footing x 5 tag _))
  | clearFaults tag classes =>
    cases hl
    exact standing (f := requestClearFaults tag classes) rfl (handlePayload_clearFaults ..)
      (hsettled.of_footing (requestClearFaults_footing x tag classes))
  | intakeSectionReset tag =>
    cases hl
    exact reset (y := .intake) (by decide) rfl (handlePayload_carried ..)
  | signalsSectionReset tag =>
    cases hl
    exact reset (y := .signals) (by decide) rfl (handlePayload_carried ..)
  | speedSectionReset tag =>
    cases hl
    exact reset (y := .speed) (by decide) rfl (handlePayload_carried ..)
  | gaugesSectionReset tag =>
    cases hl
    exact whole (f := requestReset tag .gauges) rfl (handlePayload_carried ..)
  | telltalesSectionReset tag =>
    cases hl
    exact reset (y := .telltales) (by decide) rfl (handlePayload_carried ..)
  | presentationSectionReset tag =>
    cases hl
    exact reset (y := .presentation) (by decide) rfl (handlePayload_carried ..)
  | crewSectionReset tag =>
    cases hl
    exact reset (y := .crew) (by decide) rfl (handlePayload_carried ..)
  | faultsSectionReset tag =>
    cases hl
    exact reset (y := .faults) (by decide) rfl (handlePayload_carried ..)
  | start tag =>
    cases hl
    exact whole (f := requestStart tag) rfl (handlePayload_carried 8 tag [] x)
  | warmReset tag =>
    cases hl
    exact standing (f := requestWarmReset tag) rfl (handlePayload_carried 9 tag [] x) (warmStart_settled _)
  | _ => cases hl

/-- A request fits the payload of a link record (R186, R187). -/
theorem requestPayload_length {c : Instr} {l : List Byte} (hwell : c.wellFormed = true) (hl : requestPayload c = some l) :
    l.length ≤ 60 := by
  cases c with
  | load tag table index entry => exact (Laws.Shape.load tag table index entry hwell l hl).2
  | _ => cases hl <;> simp [Laws.natBytes_length, wordBytes]

/-- Settles O42: the record passes its checks, its payload is the request's, and `exec_carried` runs it after the downstream record. -/
theorem transferRunsTheRequestItCarries : Obligations.TransferRunsTheRequestItCarries := by
  intro c l s hs hsettled hwell hl
  have hlength := requestPayload_length hwell hl
  have hsent : Settled s.downstreamSent := hsettled.of_footing rfl
  have hcarried : exec c s.downstreamSent = .next (conclude (handlePayload l s.downstreamSent)) :=
    exec_carried hs hsent hl
  rw [exec_linkTransfer hs, handleUpstream_request _ (upstreamGood_linkRecord (.inr rfl) hlength) rfl,
    linkRecord_payloadLength hlength, linkRecord_payload, hcarried]

end Sys2Proof.Machine
end

section
/-! PROOFS. The records sent downstream: each kind's payload at its offsets, within the link record (R175, R185 to R188). -/

namespace Sys2Proof.Machine

open Sys2Proof.Laws (natBytes_length)

/-! ### Items of several records (R185, R188) -/

theorem setNat_foldl {n : Nat} (f : Fin n → Bool) (l : List (Fin n)) (a : Nat) :
    l.foldl (fun acc i => if f i then acc + 2 ^ i.val else acc) a =
      a + (l.map fun i => if f i then 2 ^ i.val else 0).sum := by
  induction l generalizing a with
  | nil => rfl
  | cons i l ih =>
    rw [List.foldl_cons, ih, List.map_cons, List.sum_cons]
    split <;> omega

theorem setNat_eq_ofBits {n : Nat} (f : Fin n → Bool) : setNat f = Nat.ofBits f := by
  have hsum : ∀ {n : Nat} (f : Fin n → Bool), setNat f = ((List.finRange n).map fun i => if f i then 2 ^ i.val else 0).sum :=
    fun f => by rw [setNat, setNat_foldl, Nat.zero_add]
  induction n with
  | zero => rfl
  | succ n ih =>
    have hdouble : (fun i : Fin n => if f i.succ then 2 ^ i.succ.val else 0) =
        fun i : Fin n => 2 * if f i.succ then 2 ^ i.val else 0 := by
      funext i
      split
      · rw [Fin.val_succ, Nat.pow_succ, Nat.mul_comm]
      · rfl
    have hhead : (if f 0 then 2 ^ (0 : Fin (n + 1)).val else 0) = (f 0).toNat := by cases f 0 <;> rfl
    rw [Nat.ofBits_succ, ← ih, hsum, hsum, List.finRange_succ, List.map_cons, List.sum_cons, List.map_map, hhead]
    change _ + ((List.finRange n).map fun i : Fin n => if f i.succ then 2 ^ i.succ.val else 0).sum = _
    rw [hdouble, List.sum_map_mul_left, Nat.add_comm]
    rfl

/-- A set of places in bytes: bit n stands for place n (R187). -/
theorem testBit_set {n w : Nat} {f : Fin n → Bool} {l : List Byte} {offset : Nat} (hn : n ≤ 8 * w)
    (h : (l.drop offset).take w = natBytes w (setNat f)) (i : Fin n) : (numAt l offset w).testBit i.val = f i := by
  have hi : i.val < 8 * w := by omega
  rw [numAt_of_bytes h, Nat.testBit_mod_two_pow, setNat_eq_ofBits, Nat.testBit_ofBits_lt f i.val i.isLt]
  simp [hi]

theorem enumByte_port (p : Port) : enumByte portCodes p = match p with | .a => 0 | .b => 1 := by cases p <;> rfl

theorem enumByte_crewPosition (x : CrewPosition) : enumByte crewPositionCodes x = match x with | .driver => 0 | .coDriver => 1 := by
  cases x <;> rfl

theorem enumByte_tallyCounter (c : TallyCounter) : enumByte tallyCounterCodes c = match c with | .continuous => 0 | .daily => 1 := by
  cases c <;> rfl

/-- A frame id's five bytes: kind, then number (R188). -/
def idBytes (id : FrameId) : List Byte := enumByte idKindCodes (frameIdKind id) :: wordBytes (frameIdNumber id)

theorem idAt_of_drop {l rest : List Byte} {offset : Nat} {id : FrameId} (h : l.drop offset = idBytes id ++ rest) :
    idAt l offset id := by
  have hkind : byteAt l offset = enumByte idKindCodes (frameIdKind id) := by
    rw [← Nat.add_zero offset, byteAt_add, h]; rfl
  have hnumber : wordAt l (offset + 1) = frameIdNumber id := by
    rw [wordAt_add, h]; exact wordAt_of_bytes rfl
  cases id with
  | standard n => exact ⟨hkind, hnumber⟩
  | extended n => exact ⟨hkind, hnumber⟩

/-- A detail, laid out by class, where its bytes stand (R188). -/
theorem detailAt_of_drop {l rest : List Byte} {offset : Nat} {d : FaultDetail} (h : l.drop offset = d.bytes ++ rest) :
    detailAt l offset d d.bytes.length := by
  have hfirst : byteAt l offset = byteAt (d.bytes ++ rest) 0 := by rw [← h, ← byteAt_add, Nat.add_zero]
  cases d with
  | item v => exact ⟨rfl, hfirst⟩
  | frameShort p id m =>
    refine ⟨rfl, hfirst.trans (enumByte_port p), idAt_of_drop (rest := BitVec.ofNat 8 m :: rest) ?_, ?_⟩
    · rw [← List.drop_drop, h]; rfl
    · rw [byteAt_add, h]; rfl
  | sum n =>
    refine ⟨rfl, ?_⟩
    rw [← Nat.add_zero offset, numAt_add, h]
    exact numAt_of_bytes rfl
  | tally x c own s =>
    refine ⟨rfl, hfirst.trans (enumByte_crewPosition x), ?_, ?_, ?_⟩
    · rw [byteAt_add, h]; exact enumByte_tallyCounter c
    · rw [numAt_add, h]; exact numAt_of_bytes rfl
    · rw [numAt_add, h]; exact numAt_of_bytes rfl
  | tacho x v =>
    refine ⟨rfl, hfirst.trans (enumByte_crewPosition x), ?_⟩
    rw [wordAt_add, h]; exact wordAt_of_bytes rfl

theorem detail_length (d : FaultDetail) : d.bytes.length ≤ 10 := by
  cases d <;> simp [FaultDetail.bytes, wordBytes, natBytes_length]

theorem utcBytes_length (u : Option Word32) : (utcBytes u).length = 5 := by cases u <;> rfl

theorem presentationBytes_length (p : Option Presentation) : (presentationBytes p).length = 5 := by cases p <;> rfl

/-! ### The payloads (R187, R188) -/

/-- A position of a CREW_SNAPSHOT where its twelve bytes stand (R188). -/
theorem snapshotLayout_of_drop {l rest : List Byte} {offset : Nat} {x : SnapshotPosition} (h : l.drop offset = x.bytes ++ rest) :
    SnapshotLayout x l offset := by
  have hbyte : ∀ j, byteAt l (offset + j) = byteAt (x.bytes ++ rest) j := fun j => by rw [byteAt_add, h]
  refine ⟨hbyte 0, ?_, hbyte 5, ⟨?_, ?_⟩, hbyte 10, hbyte 11⟩
  · rw [wordAt_add, h]; exact wordAt_of_bytes rfl
  · rw [numAt_add, h]; exact numAt_of_bytes rfl
  · rw [numAt_add, h]; exact numAt_of_bytes rfl

/-- The detail stands last in a NOTICE's payload (R188). -/
theorem notice_drop (c : FaultClass) (d : FaultDetail) (stamp : Stamp) (status : Vector Bool 16) (overflow : Bool) :
    ∃ rest, (EgressRecord.notice c d stamp status overflow).bytes.drop 15 = d.bytes ++ rest := by
  obtain ⟨mono, utc⟩ := stamp
  rw [show 15 = 2 + 13 from rfl, ← List.drop_drop, EgressRecord.bytes, linkRecord_drop]
  cases utc <;> exact ⟨_, rfl⟩

theorem notice_layout (c : FaultClass) (d : FaultDetail) (stamp : Stamp) (status : Vector Bool 16) (overflow : Bool) :
    payloadAt (EgressRecord.notice c d stamp status overflow).bytes (.notice c d stamp status overflow)
      (EgressRecord.notice c d stamp status overflow).payload.length := by
  obtain ⟨mono, utc⟩ := stamp
  have hlength : (EgressRecord.notice c d ⟨mono, utc⟩ status overflow).payload.length = 13 + d.bytes.length := by
    simp only [EgressRecord.payload, List.length_append, utcBytes_length, wordBytes, statusBytes, natBytes_length]
    rfl
  rw [hlength]
  obtain ⟨rest, hrest⟩ := notice_drop c d ⟨mono, utc⟩ status overflow
  have hdetail := detailAt_of_drop hrest
  cases utc with
  | none => exact ⟨rfl, rfl, wordAt_of_bytes rfl, rfl, wordAt_of_bytes (x := 0) rfl, testBit_set (by decide) rfl, rfl, _, rfl, hdetail⟩
  | some u => exact ⟨rfl, rfl, wordAt_of_bytes rfl, rfl, wordAt_of_bytes rfl, testBit_set (by decide) rfl, rfl, _, rfl, hdetail⟩

theorem present_layout (current : Option Presentation) (depth ring : Nat) :
    payloadAt (EgressRecord.present current depth ring).bytes (.present current depth ring) 7 := by
  cases current with
  | none => exact ⟨rfl, rfl, fun _ => rfl, nofun, numAt_of_bytes rfl, numAt_of_bytes rfl⟩
  | some p =>
    refine ⟨rfl, rfl, nofun, fun q hq => ?_, numAt_of_bytes rfl, numAt_of_bytes rfl⟩
    cases hq
    exact ⟨rfl, numAt_of_bytes rfl, numAt_of_bytes rfl, rfl⟩

theorem forward_layout (entry : Fin 96) (port : Port) (id : FrameId) {data : List Byte} (h : data.length ≤ 8) :
    payloadAt (EgressRecord.forward entry port id data).bytes (.forward entry port id data)
      (EgressRecord.forward entry port id data).payload.length := by
  have hcount : numAt (EgressRecord.forward entry port id data).bytes 9 1 = data.length := by
    rw [numAt_of_bytes (n := data.length) rfl, Nat.mod_eq_of_lt (by omega)]
  refine ⟨rfl, ?_, rfl, enumByte_port port, idAt_of_drop rfl, hcount, ?_⟩
  · rw [Nat.add_comm]; rfl
  · rw [show 10 = 2 + 8 from rfl, ← List.drop_drop, EgressRecord.bytes, linkRecord_drop]
    exact List.take_left

theorem reply_layout (code : Byte) (tag : Word16) (status : ReplyStatus) (data : List Byte) :
    payloadAt (EgressRecord.reply code tag status data).bytes (.reply code tag status data)
      (EgressRecord.reply code tag status data).payload.length := by
  refine ⟨rfl, ?_, rfl, ?_, rfl, ?_⟩
  · rw [Nat.add_comm]; rfl
  · rw [numAt_of_bytes (n := tag.toNat) rfl, Nat.mod_eq_of_lt tag.isLt]
  · rw [show 6 = 2 + 4 from rfl, ← List.drop_drop, EgressRecord.bytes, linkRecord_drop]
    exact List.take_left

theorem crewSnapshot_layout (mono : Word32) (driver coDriver : SnapshotPosition) :
    payloadAt (EgressRecord.crewSnapshot mono driver coDriver).bytes (.crewSnapshot mono driver coDriver) 28 :=
  ⟨rfl, rfl, wordAt_of_bytes rfl, snapshotLayout_of_drop rfl, snapshotLayout_of_drop rfl⟩

/-! ### The records (R175, R186) -/

/-- Every payload fits the link record's 60 bytes, a FORWARD's and a REPLY's when their data do (R186 to R188). -/
theorem payload_length {r : EgressRecord} (hforward : ∀ entry port id data, r = .forward entry port id data → data.length ≤ 8)
    (hreply : ∀ code tag status data, r = .reply code tag status data → data.length ≤ 56) : r.payload.length ≤ 60 := by
  cases r with
  | forward entry port id data =>
    have := hforward _ _ _ _ rfl
    simp only [EgressRecord.payload, List.length_append, List.length_cons, List.length_nil, wordBytes, natBytes_length]
    omega
  | present current depth ring =>
    simp [EgressRecord.payload, presentationBytes_length]
  | notice c d stamp status overflow =>
    have := detail_length d
    simp only [EgressRecord.payload, List.length_append, List.length_cons, List.length_nil, utcBytes_length, wordBytes, statusBytes,
      natBytes_length]
    omega
  | reply code tag status data =>
    have := hreply _ _ _ _ rfl
    simp only [EgressRecord.payload, List.length_append, List.length_cons, List.length_nil, natBytes_length]
    omega
  | crewSnapshot mono driver coDriver => simp [EgressRecord.payload, SnapshotPosition.bytes, wordBytes, natBytes_length]

theorem payloadAt_bytes {r : EgressRecord} (hforward : ∀ entry port id data, r = .forward entry port id data → data.length ≤ 8) :
    payloadAt r.bytes r r.payload.length := by
  cases r with
  | forward entry port id data => exact forward_layout entry port id (hforward _ _ _ _ rfl)
  | present current depth ring =>
    have hlength : (EgressRecord.present current depth ring).payload.length = 7 := by
      simp [EgressRecord.payload, presentationBytes_length]
    rw [hlength]
    exact present_layout current depth ring
  | notice c d stamp status overflow => exact notice_layout c d stamp status overflow
  | reply code tag status data => exact reply_layout code tag status data
  | crewSnapshot mono driver coDriver => exact crewSnapshot_layout mono driver coDriver

/-- Settles O60: the frame of every record by the lemmas of `linkRecord`, its payload by its kind's layout. -/
theorem downstreamRecordsCarryTheirLayout : Obligations.DownstreamRecordsCarryTheirLayout := by
  refine ⟨fun r hforward hreply => ?_, linkRecord_length (Nat.zero_le _), fun j hj => ?_, linkRecord_check (Nat.zero_le _)⟩
  · have hfits := payload_length hforward hreply
    have hlength : (byteAt r.bytes 1).toNat = r.payload.length := linkRecord_payloadLength hfits
    refine ⟨linkRecord_length hfits, ?_, fun j hj hlast => ?_, linkRecord_check hfits⟩
    · rw [hlength]
      exact payloadAt_bytes hforward
    · rw [hlength] at hj
      exact linkRecord_zeros hfits hj hlast
  · match j with
    | 0 => rfl
    | 1 => rfl
    | j + 2 => exact linkRecord_zeros (Nat.zero_le _) (by rw [List.length_nil]; omega) hj

end Sys2Proof.Machine
end

section
/-! PROOFS. Table entries as bytes: what an entry read from bytes is written back as, and READ after LOAD (R178, R185, R191). -/

namespace Sys2Proof.Machine

/-! ### Items written back (R185) -/

/-- The bytes from an offset, one by one. -/
def bytesFrom (l : List Byte) (i w : Nat) : List Byte := (List.range' i w).map (byteAt l)

theorem take_drop_eq_bytesFrom {l : List Byte} {i w : Nat} (h : i + w ≤ l.length) : (l.drop i).take w = bytesFrom l i w := by
  refine List.ext_getElem (by simp [bytesFrom]; omega) fun j hj _ => ?_
  rw [List.length_take, List.length_drop] at hj
  have hbyte : byteAt l (i + j) = l[i + j] := List.getD_eq_getElem l 0 (by omega)
  simp [bytesFrom, hbyte]

theorem eq_bytesFrom (l : List Byte) : l = bytesFrom l 0 l.length := by
  rw [← take_drop_eq_bytesFrom (by omega), List.drop_zero, List.take_length]

theorem natBytes_numAt {l : List Byte} {i w : Nat} (h : i + w ≤ l.length) : natBytes w (numAt l i w) = bytesFrom l i w := by
  have hlength : ((l.drop i).take w).length = w := by rw [List.length_take, List.length_drop]; omega
  have hback := natBytes_bytesNat ((l.drop i).take w)
  rw [hlength] at hback
  rw [numAt, hback, take_drop_eq_bytesFrom h]

theorem numAt_lt (l : List Byte) (i w : Nat) : numAt l i w < 2 ^ (8 * w) :=
  (bytesNat_lt _).trans_le (Nat.pow_le_pow_right (by decide) (Nat.mul_le_mul_left 8 (List.length_take_le ..)))

theorem toNat_ofNat_numAt (l : List Byte) (i w : Nat) : (BitVec.ofNat (8 * w) (numAt l i w)).toNat = numAt l i w := by
  rw [BitVec.toNat_ofNat, Nat.mod_eq_of_lt (numAt_lt l i w)]

theorem wordBytes_wordAt {l : List Byte} {i : Nat} (h : i + 4 ≤ l.length) : wordBytes (wordAt l i) = bytesFrom l i 4 := by
  rw [wordBytes, wordAt, toNat_ofNat_numAt l i 4, natBytes_numAt h]

theorem ofNat_toNat_byte (b : Byte) : BitVec.ofNat 8 b.toNat = b := by rw [BitVec.ofNat_toNat, BitVec.setWidth_eq]

theorem flagByte_of_byteFlag {b : Byte} {x : Bool} (h : byteFlag b = some x) : flagByte x = b := by
  unfold byteFlag at h
  split at h
  · next hb => cases h; exact hb.symm
  · split at h
    · next hb => cases h; exact hb.symm
    · cases h

theorem enumByte_of_byteEnum {α : Type} [DecidableEq α] {values : List α} (hv : values.Nodup) {b : Byte} {x : α}
    (h : byteEnum values b = some x) : enumByte values x = b := by
  obtain ⟨hb, hx⟩ := List.getElem?_eq_some_iff.1 h
  rw [enumByte, ← hx, hv.idxOf_getElem, ofNat_toNat_byte]

theorem ofNat_of_byteIndex {n : Nat} {b : Byte} {k : Fin n} (h : byteIndex n b = some k) : BitVec.ofNat 8 k.val = b := by
  unfold byteIndex at h
  split at h
  · cases h; exact ofNat_toNat_byte b
  · cases h

theorem noneByte_of_byteNone {n : Nat} {b : Byte} {k : Option (Fin n)} (h : byteNone n b = some k) : noneByte k = b := by
  unfold byteNone at h
  split at h
  · next hb => cases h; exact hb.symm
  · obtain ⟨i, hi, rfl⟩ := Option.map_eq_some_iff.1 h
    exact ofNat_of_byteIndex hi

/-! ### Entries written back, table by table (R191) -/

section
variable {l : List Byte}

/-- Bytes that are `l` one by one. -/
theorem eq_of_bytesFrom {m : List Byte} {n : Nat} (hl : l.length = n) (h : m = bytesFrom l 0 n) : m = l := by
  rw [h, ← hl, ← eq_bytesFrom]

theorem IntakeEntry.bytes_ofBytes {e : IntakeEntry} (hl : l.length = 19) (h : IntakeEntry.ofBytes l = some e) : e.bytes = l := by
  simp only [IntakeEntry.ofBytes, Option.bind_eq_bind, Option.bind_eq_some_iff, Option.pure_def, Option.some.injEq] at h
  obtain ⟨valid, hvalid, ports, hports, kind, hkind, action, haction, mode, hmode, rfl⟩ := h
  refine eq_of_bytesFrom hl ?_
  simp (disch := omega) only [IntakeEntry.bytes, flagByte_of_byteFlag hvalid, enumByte_of_byteEnum (by decide) hports,
    enumByte_of_byteEnum (by decide) hkind, enumByte_of_byteEnum (by decide) haction, enumByte_of_byteEnum (by decide) hmode,
    wordBytes_wordAt, ofNat_toNat_byte]
  rfl

theorem MapEntry.bytes_ofBytes {e : MapEntry} (hl : l.length = 20) (h : MapEntry.ofBytes l = some e) : e.bytes = l := by
  simp only [MapEntry.ofBytes, Option.bind_eq_bind, Option.bind_eq_some_iff, Option.pure_def, Option.some.injEq] at h
  obtain ⟨valid, hvalid, s0, h0, s1, h1, s2, h2, s3, h3, signed, hsigned, codes, hcodes, rounding, hrounding, slot, hslot,
    calibration, hcalibration, rfl⟩ := h
  have hfactor : natBytes 2 (BitVec.ofNat 16 (numAt l 10 2)).toNat = bytesFrom l 10 2 := by
    rw [toNat_ofNat_numAt l 10 2, natBytes_numAt (by omega)]
  refine eq_of_bytesFrom hl ?_
  simp (disch := omega) only [MapEntry.bytes, flagByte_of_byteFlag hvalid, flagByte_of_byteFlag hsigned,
    flagByte_of_byteFlag hcodes, flagByte_of_byteFlag hcalibration, enumByte_of_byteEnum (by decide) hrounding,
    ofNat_of_byteIndex hslot, hfactor, wordBytes_wordAt, ofNat_toNat_byte]
  simp only [Vector.getElem_mk, List.getElem_toArray, List.getElem_cons_zero, List.getElem_cons_succ, ofNat_of_byteIndex h0,
    ofNat_of_byteIndex h1, ofNat_of_byteIndex h2, ofNat_of_byteIndex h3]
  rfl

theorem SlotConfig.bytes_ofBytes {e : SlotConfig} (hl : l.length = 13) (h : SlotConfig.ofBytes l = some e) : e.bytes = l := by
  simp only [SlotConfig.ofBytes, Option.bind_eq_bind, Option.bind_eq_some_iff, Option.pure_def, Option.some.injEq] at h
  obtain ⟨watch, hwatch, rfl⟩ := h
  refine eq_of_bytesFrom hl ?_
  simp (disch := omega) only [SlotConfig.bytes, flagByte_of_byteFlag hwatch, wordBytes_wordAt, natBytes_numAt]
  rfl

theorem CurvePoint.bytes_ofBytes {i : Nat} (h : i + 6 ≤ l.length) : (CurvePoint.ofBytes l i).bytes = bytesFrom l i 6 := by
  simp (disch := omega) only [CurvePoint.bytes, CurvePoint.ofBytes, wordBytes_wordAt, natBytes_numAt]
  rfl

theorem Curve.bytes_ofBytes {e : Curve} (hl : l.length = 50) (h : Curve.ofBytes l = some e) : e.bytes = l := by
  simp only [Curve.ofBytes, Option.bind_eq_bind, Option.bind_eq_some_iff, Option.pure_def, Option.some.injEq] at h
  obtain ⟨valid, hvalid, rfl⟩ := h
  have hpoint : ∀ i : Fin 8, (CurvePoint.ofBytes l (2 + 6 * i.val)).bytes = bytesFrom l (2 + 6 * i.val) 6 :=
    fun i => CurvePoint.bytes_ofBytes (by omega)
  refine eq_of_bytesFrom hl ?_
  simp only [Curve.bytes, flagByte_of_byteFlag hvalid, ofNat_toNat_byte, Fin.getElem_fin, Vector.getElem_ofFn, hpoint]
  rfl

theorem GaugeEntry.bytes_ofBytes {e : GaugeEntry} (hl : l.length = 10) (h : GaugeEntry.ofBytes l = some e) : e.bytes = l := by
  simp only [GaugeEntry.ofBytes, Option.bind_eq_bind, Option.bind_eq_some_iff, Option.pure_def, Option.some.injEq] at h
  obtain ⟨valid, hvalid, source, hsource, curve, hcurve, policy, hpolicy, rfl⟩ := h
  refine eq_of_bytesFrom hl ?_
  simp (disch := omega) only [GaugeEntry.bytes, flagByte_of_byteFlag hvalid, ofNat_of_byteIndex hsource, ofNat_of_byteIndex hcurve,
    enumByte_of_byteEnum (by decide) hpolicy, ofNat_toNat_byte, natBytes_numAt]
  rfl

theorem TelltaleEntry.bytes_ofBytes {e : TelltaleEntry} (hl : l.length = 26) (h : TelltaleEntry.ofBytes l = some e) :
    e.bytes = l := by
  simp only [TelltaleEntry.ofBytes, Option.bind_eq_bind, Option.bind_eq_some_iff, Option.pure_def, Option.some.injEq] at h
  obtain ⟨valid, hvalid, source, hsource, op, hop, policy, hpolicy, lamp, hlamp, mode, hmode, latch, hlatch, ack, hack,
    chime, hchime, standby, hstandby, bulb, hbulb, rfl⟩ := h
  refine eq_of_bytesFrom hl ?_
  simp (disch := omega) only [TelltaleEntry.bytes, flagByte_of_byteFlag hvalid, flagByte_of_byteFlag hack,
    flagByte_of_byteFlag hstandby, flagByte_of_byteFlag hbulb, ofNat_of_byteIndex hsource, noneByte_of_byteNone hlamp,
    noneByte_of_byteNone hchime, enumByte_of_byteEnum (by decide) hop, enumByte_of_byteEnum (by decide) hpolicy,
    enumByte_of_byteEnum (by decide) hmode, enumByte_of_byteEnum (by decide) hlatch, ofNat_toNat_byte, wordBytes_wordAt,
    natBytes_numAt]
  rfl

theorem ChimePattern.bytes_ofBytes {e : ChimePattern} (hl : l.length = 5) (h : ChimePattern.ofBytes l = some e) : e.bytes = l := by
  simp only [ChimePattern.ofBytes, Option.some.injEq] at h
  subst h
  have htenth : ∀ n : Nat, 10 * n / 10 = n := fun n => Nat.mul_div_cancel_left n (by decide)
  refine eq_of_bytesFrom hl ?_
  simp only [ChimePattern.bytes, htenth, ofNat_toNat_byte]
  rfl

theorem CrewInputs.bytes_ofBytes {e : CrewInputs} {i : Nat} (h : CrewInputs.ofBytes l i = some e) : e.bytes = bytesFrom l i 4 := by
  simp only [CrewInputs.ofBytes, Option.bind_eq_bind, Option.bind_eq_some_iff, Option.pure_def, Option.some.injEq] at h
  obtain ⟨activity, hactivity, token, htoken, continuous, hcontinuous, daily, hdaily, rfl⟩ := h
  simp only [CrewInputs.bytes, noneByte_of_byteNone hactivity, noneByte_of_byteNone htoken, noneByte_of_byteNone hcontinuous,
    noneByte_of_byteNone hdaily]
  rfl

theorem CrewConfig.bytes_ofBytes {e : CrewConfig} (hl : l.length = 42) (h : CrewConfig.ofBytes l = some e) : e.bytes = l := by
  simp only [CrewConfig.ofBytes, Option.bind_eq_bind, Option.bind_eq_some_iff, Option.pure_def, Option.some.injEq] at h
  obtain ⟨driver, hdriver, coDriver, hcoDriver, time, htime, silent, hsilent, rfl⟩ := h
  refine eq_of_bytesFrom hl ?_
  simp (disch := omega) only [CrewConfig.bytes, CrewInputs.bytes_ofBytes hdriver, CrewInputs.bytes_ofBytes hcoDriver,
    noneByte_of_byteNone htime, enumByte_of_byteEnum (by decide) hsilent, natBytes_numAt]
  rfl

theorem SystemConfig.bytes_ofBytes {e : SystemConfig} (hl : l.length = 20) (h : SystemConfig.ofBytes l = some e) : e.bytes = l := by
  simp only [SystemConfig.ofBytes, Option.bind_eq_bind, Option.bind_eq_some_iff, Option.pure_def, Option.some.injEq] at h
  obtain ⟨primary, hprimary, secondary, hsecondary, ack, hack, brake, hbrake, rfl⟩ := h
  refine eq_of_bytesFrom hl ?_
  simp (disch := omega) only [SystemConfig.bytes, noneByte_of_byteNone hprimary, noneByte_of_byteNone hsecondary,
    noneByte_of_byteNone hack, noneByte_of_byteNone hbrake, natBytes_numAt]
  rfl

theorem FaultPolicy.bytes_ofBytes {e : FaultPolicy} (hl : l.length = 3) (h : FaultPolicy.ofBytes l = some e) : e.bytes = l := by
  simp only [FaultPolicy.ofBytes, Option.bind_eq_bind, Option.bind_eq_some_iff, Option.pure_def, Option.some.injEq] at h
  obtain ⟨masked, hmasked, severity, hseverity, clearable, hclearable, rfl⟩ := h
  refine eq_of_bytesFrom hl ?_
  simp only [FaultPolicy.bytes, flagByte_of_byteFlag hmasked, flagByte_of_byteFlag hclearable,
    enumByte_of_byteEnum (by decide) hseverity]
  rfl

end

/-! ### READ after LOAD (R178) -/

/-- What an operation that writes no table leaves of the entries. -/
theorem entryBytes_congr {s t : State} (h : t.tables = s.tables) (id : TableId) (k : Nat) :
    t.entryBytes id k = s.entryBytes id k := by
  cases id <;> simp only [State.entryBytes, h]

/-- An accepted entry stands in its table with the bytes that it was written from. -/
theorem EntryTaken.entryBytes {s u : State} {id : TableId} {k : Nat} {l : List Byte} {w : Written}
    (hl : l.length = id.entryLength) (h : EntryTaken s id k l w u) : u.entryBytes id k = some l := by
  cases id with
  | intake =>
    obtain ⟨i, e, rfl, he, rfl⟩ := h
    simp [State.entryBytes, e.bytes_ofBytes hl he]
  | map =>
    obtain ⟨i, e, rfl, he, rfl⟩ := h
    simp [State.entryBytes, e.bytes_ofBytes hl he]
  | slotConfig =>
    obtain ⟨i, e, rfl, he, rfl⟩ := h
    simp [State.entryBytes, e.bytes_ofBytes hl he]
  | curve =>
    obtain ⟨i, e, rfl, he, rfl⟩ := h
    simp [State.entryBytes, e.bytes_ofBytes hl he]
  | gauge =>
    obtain ⟨i, e, rfl, he, rfl⟩ := h
    simp [State.entryBytes, State.gaugesReported, e.bytes_ofBytes hl he]
  | telltale =>
    obtain ⟨i, e, rfl, he, -, hreact, -⟩ := h
    simp [State.entryBytes, hreact.tables, e.bytes_ofBytes hl he]
  | chime =>
    obtain ⟨i, e, rfl, he, rfl⟩ := h
    simp [State.entryBytes, (presented_choose _).reacted.tables, e.bytes_ofBytes hl he]
  | crewConfig =>
    obtain ⟨e, rfl, he, -, hreact⟩ := h
    have htables : u.tables = { s.tables with crew := e } := hreact.tables
    simp [State.entryBytes, htables, e.bytes_ofBytes hl he, natIndex]
  | systemConfig =>
    obtain ⟨e, v, rfl, he, rfl, hu⟩ := h
    have htables : u.tables = { s.tables with system := e } := by
      split at hu
      · exact hu.rest.tables
      · rw [hu]
    simp [State.entryBytes, htables, e.bytes_ofBytes hl he, natIndex]
  | faultPolicy =>
    obtain ⟨i, e, rfl, he, -, hreact⟩ := h
    simp [State.entryBytes, hreact.tables, e.bytes_ofBytes hl he]

/-- Settles O46: the accepted entry stands with its bytes by `EntryTaken.entryBytes`, neither REPLY nor the end of the event writes a
table, and READ answers with what stands. -/
theorem readReturnsWhatLoadWrote : Obligations.ReadReturnsWhatLoadWrote := by
  intro tag again table index entry id s t hs htable hindex hlength hgood hload ht
  obtain ⟨u, hwritten, htaken⟩ := writeEntry_good .all s hindex hgood
  have htables : t.tables = u.tables := by
    rw [exec_load hs, loadEntry_write htable hindex hlength, hwritten] at hload
    cases hload
    rw [conclude_tables, answerWrite, reply_tables]
  have hstands : t.entryBytes id index.toNat = some (entry.take id.entryLength) :=
    (entryBytes_congr htables id _).trans (htaken.entryBytes (List.length_take_of_le hlength))
  refine ⟨_, onAwake_of_awake ht, ?_⟩
  unfold requestRead State.readEntry
  rw [htable]
  dsimp only
  rw [hstands]
  exact offer_spec _ _

end Sys2Proof.Machine
end

section
/-! PROOFS. Only the host writes beyond the calibration fields (R177, R182): a permitted service write replaces the y of a curve point, or
the factor or offset of a map entry, and no other command writes a table. -/

namespace Sys2Proof.Machine

/-! ### Curves and map entries read back (R185, R191) -/

theorem byteFlag_flagByte (b : Bool) : byteFlag (flagByte b) = some b := by cases b <;> rfl

theorem byteIndex_ofNat {n : Nat} (hn : n ≤ 256) (k : Fin n) : byteIndex n (BitVec.ofNat 8 k.val) = some k := by
  have hk : (BitVec.ofNat 8 k.val).toNat = k.val := by
    rw [BitVec.toNat_ofNat]
    exact Nat.mod_eq_of_lt (k.isLt.trans_le hn)
  simp [byteIndex, hk]

theorem toNat_ofNat_byte {n : Nat} (h : n < 256) : (BitVec.ofNat 8 n).toNat = n := by
  rw [BitVec.toNat_ofNat]
  exact Nat.mod_eq_of_lt h

theorem natBytes_mod (w n : Nat) : natBytes w (n % 2 ^ (8 * w)) = natBytes w n := by
  have hback := natBytes_bytesNat (natBytes w n)
  rw [Laws.natBytes_length, bytesNat_natBytes] at hback
  exact hback

theorem MapEntry.ofBytes_bytes {e : MapEntry} (h : e.ok = true) : MapEntry.ofBytes e.bytes = some e := by
  simp only [MapEntry.ok, Bool.and_eq_true, decide_eq_true_eq] at h
  obtain ⟨⟨⟨⟨⟨⟨⟨-, hgather⟩, hoffset⟩, -⟩, hlength⟩, -⟩, -⟩, hshift⟩ := h
  have hvalid : byteFlag (byteAt e.bytes 0) = some e.valid := byteFlag_flagByte _
  have hsigned : byteFlag (byteAt e.bytes 8) = some e.signed := byteFlag_flagByte _
  have hcodes : byteFlag (byteAt e.bytes 9) = some e.naCodes := byteFlag_flagByte _
  have hcalibration : byteFlag (byteAt e.bytes 19) = some e.calibration := byteFlag_flagByte _
  have h0 : byteIndex 8 (byteAt e.bytes 2) = some e.selectors[0] := byteIndex_ofNat (by decide) _
  have h1 : byteIndex 8 (byteAt e.bytes 3) = some e.selectors[1] := byteIndex_ofNat (by decide) _
  have h2 : byteIndex 8 (byteAt e.bytes 4) = some e.selectors[2] := byteIndex_ofNat (by decide) _
  have h3 : byteIndex 8 (byteAt e.bytes 5) = some e.selectors[3] := byteIndex_ofNat (by decide) _
  have hslot : byteIndex 120 (byteAt e.bytes 18) = some e.destination := byteIndex_ofNat (by decide) _
  have hrounding : byteEnum roundingCodes (byteAt e.bytes 17) = some e.rounding := by
    change byteEnum roundingCodes (enumByte roundingCodes e.rounding) = some e.rounding
    cases e.rounding <;> rfl
  have hselectors : #v[e.selectors[0], e.selectors[1], e.selectors[2], e.selectors[3]] = e.selectors := by
    refine Vector.ext fun i hi => ?_
    match i with
    | 0 | 1 | 2 | 3 => rfl
  have hfactor : numAt e.bytes 10 2 = e.factor.toNat := by
    rw [numAt_of_bytes (n := e.factor.toNat) rfl, Nat.mod_eq_of_lt e.factor.isLt]
  have hnumber : wordAt e.bytes 13 = e.offset := wordAt_of_bytes rfl
  have hcount : (byteAt e.bytes 1).toNat = e.gatherCount := toNat_ofNat_byte (by omega)
  have hbit : (byteAt e.bytes 6).toNat = e.bitOffset := toNat_ofNat_byte (by omega)
  have hbits : (byteAt e.bytes 7).toNat = e.bitLength := toNat_ofNat_byte (by omega)
  have hright : (byteAt e.bytes 12).toNat = e.shift := toNat_ofNat_byte (by omega)
  simp only [MapEntry.ofBytes, hvalid, hsigned, hcodes, hcalibration, h0, h1, h2, h3, hslot, hrounding, hselectors, hfactor, hnumber,
    hcount, hbit, hbits, hright, BitVec.ofNat_toNat, BitVec.setWidth_eq, Option.bind_eq_bind, Option.bind_some, Option.pure_def]

/-- The six bytes of a point stand where its place in the entry is. -/
theorem curve_point_bytes (c : Curve) (j : Fin 8) : (c.bytes.drop (2 + 6 * j.val)).take 6 = (c.points[j]).bytes := by
  fin_cases j <;> rfl

theorem CurvePoint.ofBytes_of_bytes {l : List Byte} {i : Nat} {p : CurvePoint} (h : (l.drop i).take 6 = p.bytes)
    (hy : p.y < 65536) : CurvePoint.ofBytes l i = p := by
  have hx : wordAt l i = p.x := wordAt_of_bytes (by
    rw [show 4 = min 4 6 from rfl, ← List.take_take, h]; rfl)
  have hhigh : numAt l (i + 4) 2 = p.y := by
    rw [numAt_of_bytes (n := p.y) (by rw [← List.drop_drop, show 2 = 6 - 4 from rfl, ← List.drop_take, h]; rfl)]
    exact Nat.mod_eq_of_lt hy
  rw [CurvePoint.ofBytes, hx, hhigh]

theorem Curve.ofBytes_bytes {c : Curve} (hcount : c.pointCount < 256) (hy : ∀ j : Fin 8, (c.points[j]).y < 65536) :
    Curve.ofBytes c.bytes = some c := by
  have hvalid : byteFlag (byteAt c.bytes 0) = some c.valid := byteFlag_flagByte _
  have hn : (byteAt c.bytes 1).toNat = c.pointCount := toNat_ofNat_byte hcount
  have hpoints : (Vector.ofFn fun j : Fin 8 => CurvePoint.ofBytes c.bytes (2 + 6 * j.val)) = c.points := by
    refine Vector.ext fun j hj => ?_
    rw [Vector.getElem_ofFn]
    exact CurvePoint.ofBytes_of_bytes (curve_point_bytes c ⟨j, hj⟩) (hy ⟨j, hj⟩)
  simp only [Curve.ofBytes, hvalid, hn, hpoints, Option.bind_eq_bind, Option.bind_some, Option.pure_def]

/-! ### One field replaced (R178, R182) -/

/-- A curve with the y of one point replaced. -/
def Curve.withY (c : Curve) (j : Fin 8) (y : Nat) : Curve :=
  { c with points := c.points.set j { c.points[j] with y := y } }

theorem map_splice_factor (e : MapEntry) (value : Word32) :
    FieldLayout.splice ⟨10, 2, true⟩ e.bytes value = MapEntry.bytes { e with factor := BitVec.ofNat 16 value.toNat } := by
  have hfactor : natBytes 2 (BitVec.ofNat 16 value.toNat).toNat = natBytes 2 value.toNat := by
    rw [BitVec.toNat_ofNat]
    exact natBytes_mod 2 value.toNat
  simp only [MapEntry.bytes, hfactor]
  rfl

theorem map_splice_offset (e : MapEntry) (value : Word32) :
    FieldLayout.splice ⟨13, 4, true⟩ e.bytes value = MapEntry.bytes { e with offset := value } := rfl

theorem curve_splice_y (c : Curve) (j : Fin 8) (value : Word32) :
    FieldLayout.splice ⟨6 + 6 * j.val, 2, false⟩ c.bytes value = (c.withY j value.toNat).bytes := by
  have hpoint : ∀ i : Fin 8, (c.withY j value.toNat).points[i] =
      if j = i then { c.points[j] with y := value.toNat } else c.points[i] := fun i => by
    simp only [Curve.withY, Fin.getElem_fin, Vector.getElem_set, Fin.ext_iff]
  unfold Curve.bytes
  simp only [hpoint]
  fin_cases j <;> rfl

/-- The fields that SERVICE authority may write of a curve: the y of a point (R182, R191). -/
theorem curve_field_y {id : Nat} {f : FieldLayout} (hid : id ∈ [3, 5, 7, 9, 11, 13, 15, 17])
    (hf : TableId.curve.fields[id]? = some f) : ∃ j : Fin 8, f = ⟨6 + 6 * j.val, 2, false⟩ := by
  have hplace : ∀ j : Fin 8, TableId.curve.fields[3 + 2 * j.val]? = some ⟨6 + 6 * j.val, 2, false⟩ := by decide
  obtain ⟨j, rfl⟩ : ∃ j : Fin 8, id = 3 + 2 * j.val := by
    simp only [List.mem_cons, List.not_mem_nil, or_false] at hid
    exact ⟨⟨(id - 3) / 2, by omega⟩, by simp only; omega⟩
  exact ⟨j, Option.some.inj (hf.symm.trans (hplace j))⟩

theorem nameField_stands {s : State} {table index field : Byte} {f : NamedField} (h : s.nameField table index field = .ok f) :
    s.entryBytes f.table f.index = some f.entry ∧ f.table.fields[f.id]? = some f.layout := by
  unfold State.nameField at h
  split at h
  · cases h
  · split at h
    · cases h
    · next hentry =>
      split at h
      · cases h
      · next hfield => cases h; exact ⟨hentry, hfield⟩

/-- A named field's write that is accepted fits its width and takes the entry with the field replaced (R177, R178). -/
theorem namedField_write_taken {f : NamedField} {value : Word32} {s u : State} (hindex : f.index < f.table.size)
    (h : f.write value s = .ok u) :
    f.layout.fits value = true ∧ EntryTaken s f.table f.index (f.layout.splice f.entry value) (.field f.id) u := by
  by_cases hbad : f.layout.fits value = false ∨ entryGood f.table (f.layout.splice f.entry value) = false
  · rw [namedField_write_bad hindex hbad] at h
    cases h
  · simp only [not_or, Bool.not_eq_false] at hbad
    obtain ⟨v, hv, htaken⟩ := namedField_write_good s hindex hbad.1 hbad.2
    cases hv.symm.trans h
    exact ⟨hbad.1, htaken⟩

/-- A write of the y of a curve point changes it alone (R182). -/
theorem calibrationOnly_curve {s u : State} {k : Nat} {f : FieldLayout} {l : List Byte} {value : Word32} {w : Written}
    (hs : Tables.ok s.tables) (hl : s.entryBytes .curve k = some l) {j : Fin 8} (hf : f = ⟨6 + 6 * j.val, 2, false⟩)
    (hfits : f.fits value = true) (h : EntryTaken s .curve k (f.splice l value) w u) : CalibrationOnly s.tables u.tables := by
  obtain ⟨i, e, rfl, he, rfl⟩ := h
  obtain ⟨-, -, -, hcurve, -⟩ := hs
  obtain ⟨hrange, -⟩ := hcurve i
  simp only [Curve.inRange, Bool.and_eq_true, decide_eq_true_eq, List.all_eq_true] at hrange
  obtain ⟨⟨-, hcount⟩, hy⟩ := hrange
  subst hf
  have hvalue : value.toNat < 65536 := of_decide_eq_true hfits
  obtain rfl : (s.tables.curve[i]).bytes = l := by simpa [State.entryBytes] using hl
  rw [curve_splice_y, Curve.ofBytes_bytes (by change (s.tables.curve[i]).pointCount < 256; omega)] at he
  · cases he
    exact .inr (.inl ⟨i, j, value.toNat, fun c hc p hp => by subst hc hp; rfl⟩)
  · intro n
    have hn := hy n (List.mem_finRange n)
    simp only [Curve.withY, Fin.getElem_fin, Vector.getElem_set] at hn ⊢
    split
    · exact hvalue
    · omega

/-- A write of the factor or the offset of a calibration map entry changes it alone (R182). -/
theorem calibrationOnly_map {s u : State} {k id : Nat} {f : FieldLayout} {l : List Byte} {value : Word32} {w : Written}
    (hs : Tables.ok s.tables) (hl : s.entryBytes .map k = some l) (hf : TableId.map.fields[id]? = some f) (hid : id ∈ [10, 12])
    (hcalibration : ∃ i : Fin 192, i.val = k ∧ (s.tables.map[i]).calibration = true)
    (h : EntryTaken s .map k (f.splice l value) w u) : CalibrationOnly s.tables u.tables := by
  obtain ⟨i, e, rfl, he, rfl⟩ := h
  obtain ⟨i', hi', hflag⟩ := hcalibration
  obtain rfl := Fin.ext hi'
  obtain ⟨-, hmap, -⟩ := hs
  obtain rfl : (s.tables.map[i']).bytes = l := by simpa [State.entryBytes] using hl
  refine .inr (.inr ⟨i', fun x hx => ?_⟩)
  subst hx
  refine ⟨hflag, ?_⟩
  simp only [List.mem_cons, List.not_mem_nil, or_false] at hid
  rcases hid with rfl | rfl
  · cases hf
    rw [map_splice_factor, MapEntry.ofBytes_bytes (e := { s.tables.map[i'] with factor := BitVec.ofNat 16 value.toNat })
      (hmap i')] at he
    cases he
    exact .inl ⟨_, rfl⟩
  · cases hf
    rw [map_splice_offset, MapEntry.ofBytes_bytes (e := { s.tables.map[i'] with offset := value }) (hmap i')] at he
    cases he
    exact .inr ⟨_, rfl⟩

/-! ### What a command may change of the tables -/

/-- The tables stand but for a calibration field, and that only under the workshop condition (R182). -/
def Calibrated (s t : State) : Prop :=
  CalibrationOnly s.tables t.tables ∧ (t.tables ≠ s.tables → s.workshopCondition = true)

theorem calibrated_of_tables {s t : State} (h : t.tables = s.tables) : Calibrated s t :=
  ⟨.inl h, fun hne => absurd h hne⟩

/-- An operation that writes no table, after one that may. -/
theorem Calibrated.same {s t u : State} (h : Calibrated s t) (hu : u.tables = t.tables) : Calibrated s u := by
  unfold Calibrated
  rw [hu]
  exact h

theorem serviceWrite_calibrated {table index field : Byte} {value : Word32} {s u : State} (hs : Tables.ok s.tables)
    (h : serviceWrite table index field value s = .ok u) : Calibrated s u := by
  unfold serviceWrite at h
  split at h
  · cases h
  · next f hnamed =>
    split at h
    · next hpermits =>
      split at h
      · next hworkshop =>
        obtain ⟨hentry, hfield⟩ := nameField_stands hnamed
        obtain ⟨hfits, htaken⟩ := namedField_write_taken (nameField_index hnamed) h
        have hmay := (servicePermits_iff hfield).1 hpermits
        obtain ⟨t, k, id, layout, l⟩ := f
        refine ⟨?_, fun _ => hworkshop⟩
        rcases hmay with ⟨ht, hid⟩ | ⟨ht, hid, hcalibration⟩
        · cases ht
          obtain ⟨j, hj⟩ := curve_field_y hid hfield
          exact calibrationOnly_curve hs hentry hj hfits htaken
        · cases ht
          exact calibrationOnly_map hs hentry hfield hid hcalibration htaken
      · cases h
    · cases h

section
variable (s : State)

theorem serviceSetField_calibrated (hs : Tables.ok s.tables) (a : ReplyAddress) (table index field : Byte) (value : Word32) :
    Calibrated s (serviceSetField a table index field value s) := by
  unfold serviceSetField unlessBusy
  split
  · exact calibrated_of_tables (raiseRefused_tables ..)
  · dsimp only
    split
    · exact calibrated_of_tables (refuseService_tables ..)
    · next hw => exact (serviceWrite_calibrated hs hw).same (placeReply_tables ..)

theorem serviceFrame_calibrated (hs : Tables.ok s.tables) (a : ReplyAddress) (data : List Byte) :
    Calibrated s (serviceFrame a data s) := by
  unfold serviceFrame
  split
  · exact serviceSetField_calibrated s hs a _ _ _ _
  · exact calibrated_of_tables (serviceReadField_tables ..)
  · exact calibrated_of_tables (serviceClearFaults_tables ..)
  · exact calibrated_of_tables (serviceReadFaults_tables ..)
  all_goals exact calibrated_of_tables (serviceMalformed_tables ..)

/-- A frame reaches the tables by a MANAGE entry alone; what the match itself changes is no part of the workshop condition (R7, R11). -/
theorem frameArrived_calibrated (hs : Tables.ok s.tables) (f : Frame) : Calibrated s (frameArrived f s) := by
  unfold frameArrived actOnFrame
  split
  · exact calibrated_of_tables rfl
  · split
    · exact calibrated_of_tables rfl
    · dsimp only
      split
      · exact calibrated_of_tables (by simp)
      · rw [matchedFrame_eq]
        exact serviceFrame_calibrated (s.frameSeen f.port) hs _ _

end

section
variable {f : State → State} {s t : State}

theorem onAwake_calibrated (h : onAwake f s = .next t) (hf : Calibrated s (f s)) : Calibrated s t := by
  cases h
  split
  · exact hf
  · exact calibrated_of_tables rfl

/-- A command of an awake part that writes no table. -/
theorem onAwake_unwritten (h : onAwake f s = .next t) (hf : (f s).tables = s.tables) : Calibrated s t :=
  onAwake_calibrated h (calibrated_of_tables hf)

/-- The same for one that acts only on a condition. -/
theorem onAwake_unwritten_if {p : State → Bool} (h : onAwake (fun s => if p s = true then f s else s) s = .next t)
    (hf : (f s).tables = s.tables) : Calibrated s t := onAwake_unwritten h (by split; exacts [hf, rfl])

end

/-- Settles O50: a service SET_FIELD, of its own or in a frame, writes at most a calibration field, and no other command that the
statement speaks of writes a table. -/
theorem onlyTheHostWritesBeyondCalibration : Obligations.OnlyTheHostWritesBeyondCalibration := by
  intro c s t hs h hload hset hlink hcold hremoval
  change Calibrated s t
  unfold exec at h
  cases c with
  | coldStart => exact absurd rfl hcold
  | keepAliveRemoval => exact absurd rfl hremoval
  | linkTransfer u => exact absurd rfl (hlink _)
  | load tag table index entry => exact absurd rfl (hload _ _ _ _)
  | setField tag table index field value => exact absurd rfl (hset _ _ _ _ _)
  | serviceSetField a table index field value => exact onAwake_calibrated h (serviceSetField_calibrated s hs ..)
  | frameArrival f => exact onAwake_calibrated h ((frameArrived_calibrated s hs f).same (conclude_tables _))
  | resetInputAssert => cases h; exact calibrated_of_tables rfl
  | resetInputRelease =>
    cases h
    refine calibrated_of_tables ?_
    split
    · split
      · exact warmStart_tables _
      · rfl
    · rfl
  | ignitionSenseChange level => cases h; split <;> exact calibrated_of_tables rfl
  | ignitionOn => cases h; exact calibrated_of_tables (by split; exacts [takeIgnitionOn_tables _, rfl])
  | ignitionOff => cases h; exact calibrated_of_tables (by split; exacts [takeIgnitionOff_tables _, rfl])
  | portBFrameStart => cases h; exact calibrated_of_tables (by split; exacts [wakingEntry_tables s, rfl])
  | monotonicAdvance =>
    cases h
    refine calibrated_of_tables ?_
    split
    · split
      · exact accountingTick_tables _
      · rfl
    · rfl
  | read tag table index => exact onAwake_unwritten h (answerRead_tables ..)
  | readField tag table index field => exact onAwake_unwritten h (answerRead_tables ..)
  | state tag target index => exact onAwake_unwritten h (answerRead_tables ..)
  | clearFaults tag classes => exact onAwake_unwritten h (requestClearFaults_tables ..)
  | gaugesSectionReset tag => exact onAwake_unwritten h ((conclude_tables _).trans (requestReset_tables ..))
  | intakeSectionReset | signalsSectionReset | speedSectionReset | telltalesSectionReset | presentationSectionReset
  | crewSectionReset | faultsSectionReset => exact onAwake_unwritten h (requestReset_tables ..)
  | start tag => exact onAwake_unwritten h ((conclude_tables _).trans (requestStart_tables ..))
  | warmReset tag => exact onAwake_unwritten h (requestWarmReset_tables ..)
  | serviceReadField a table index field => exact onAwake_unwritten h (serviceReadField_tables ..)
  | serviceClearFaults a classes => exact onAwake_unwritten h (serviceClearFaults_tables ..)
  | readFaults a => exact onAwake_unwritten h (serviceReadFaults_tables ..)
  | silenceExpiry p => exact onAwake_unwritten_if h (silenceExpired_tables ..)
  | holdExpiry k => exact onAwake_unwritten_if h (goHeld_tables ..)
  | staleExpiry k => exact onAwake_unwritten_if h (goStale_tables ..)
  | plausibilityTick => exact onAwake_unwritten_if h (plausibilityTicked_tables _)
  | filterTick => exact onAwake_unwritten_if h (filterTicked_tables _)
  | stallReport ch => exact onAwake_unwritten h ((conclude_tables _).trans (stallReported_tables ..))
  | onDebounceExpiry i => exact onAwake_unwritten_if h (telltaleOn_whole_tables ..)
  | offDebounceExpiry i => exact onAwake_unwritten_if h (telltaleFallen_whole_tables ..)
  | lampNoCurrent ch => exact onAwake_unwritten_if h (lampFails_tables ..)
  | lampCurrentPresent ch => exact onAwake_unwritten_if h (State.setLamp_tables ..)
  | lampOverCurrent ch => exact onAwake_unwritten_if h (lampFails_tables ..)
  | bulbCheckExpiry =>
    exact onAwake_unwritten_if h ((conclude_tables _).trans ((State.reportBulbEnd_tables _).trans (endBulbCheck_tables s)))
  | chimeOnExpiry => exact onAwake_unwritten h (chimeOnEnds_tables _)
  | chimeOffExpiry => exact onAwake_unwritten h (chimeOffEnds_tables _)
  | chimeNoCurrent => exact onAwake_unwritten h (chimeFails_tables _)
  | chimeCurrentPresent => exact onAwake_unwritten h (chimeRecovers_tables _)
  | settleExpiry => exact onAwake_unwritten_if h ((conclude_tables _).trans (enterByLevel_tables _))
  | quietExpiry => exact onAwake_unwritten_if h (conclude_tables _)
  | replyFrameSend => exact onAwake_unwritten h (sendReply_tables _)
  | replyFrameSent => exact onAwake_unwritten h (replySent_tables _)
  | replyFrameNotSent => exact onAwake_unwritten h (replyNotSent_tables _)
  | replyExpiry place => exact onAwake_unwritten h (replyExpired_tables ..)
  | msCounterAdvance => exact onAwake_unwritten h (advanceMs_tables s)

end Sys2Proof.Machine
end

section
/-! PROOFS. The data of STATE replies at their offsets (R179, R185, R189). -/

namespace Sys2Proof.Machine

open Sys2Proof.Laws (natBytes_length)

/-! ### Bytes behind a part of known length -/

theorem byteAt_append_left {a b : List Byte} {j : Nat} (h : j < a.length) : byteAt (a ++ b) j = byteAt a j :=
  List.getD_append _ _ _ _ h

theorem byteAt_zeros (n j : Nat) : byteAt (List.replicate n 0) j = 0 := by
  simp only [byteAt, List.getD, List.getElem?_replicate]
  split <;> rfl

/-! ### One object (R35, R55, R79, R88, R120) -/

theorem slot_layout (x : Slot) : SlotLayout x x.stateBytes :=
  ⟨rfl, wordAt_of_bytes rfl, rfl, rfl, numAt_of_bytes rfl⟩

theorem channel_layout (c : Channel) : ChannelLayout c c.stateBytes :=
  ⟨rfl, rfl, numAt_of_bytes rfl, numAt_of_bytes rfl, numAt_of_bytes rfl, numAt_of_bytes rfl, numAt_of_bytes rfl⟩

theorem telltale_layout (r : Telltale) : TelltaleLayout r r.stateBytes :=
  ⟨rfl, rfl, rfl, numAt_of_bytes rfl, rfl, rfl⟩

theorem lamp_layout (s : State) (ch : Fin 32) : LampLayout s ch (s.lampBytes ch) := by
  refine ⟨rfl, rfl, rfl, rfl, rfl, fun h => ?_, fun h => ?_⟩
  · change s.governingByte ch = 0xFE
    rw [State.governingByte, if_pos h]
  · change s.governingByte ch = _
    rw [State.governingByte, if_neg (by simp [h])]
    cases s.governing ch <;> rfl

theorem crewPlace_layout (x : Option CrewRecord) : CrewPlaceLayout x (crewPlaceBytes x) := by
  cases x with
  | none => exact ⟨rfl, fun _ => byteAt_zeros 27, nofun⟩
  | some r =>
    refine ⟨rfl, nofun, fun q hq => ?_⟩
    cases hq
    have hplace : r.place.code = match r.place with | .attached .driver => 0 | .attached .coDriver => 1 | .detached _ => 2 := by
      cases r.place with
      | attached x => cases x <;> rfl
      | detached t => rfl
    have hsince : r.place.since = match r.place with | .attached _ => 0 | .detached since => since := by
      cases r.place <;> rfl
    exact ⟨rfl, wordAt_of_bytes rfl, hplace, rfl, numAt_of_bytes rfl, numAt_of_bytes rfl, numAt_of_bytes rfl, rfl, rfl, rfl, rfl,
      (wordAt_of_bytes (x := r.place.since) rfl).trans hsince⟩

/-! ### Presentations and chime requests (R98, R114) -/

theorem indexBytes_length {places : Nat} {l : List Presentation} (h : l.length ≤ places) : (indexBytes places l).length = places := by
  simp only [indexBytes, List.length_append, List.length_map, List.length_replicate]
  omega

/-- A place's telltale index, 0xFF behind the last one (R189). -/
theorem byteAt_indexBytes {places j : Nat} (l : List Presentation) (hj : j < places) : byteAt (indexBytes places l) j =
    noneByte (l[j]?.map (·.telltale)) := by
  unfold byteAt indexBytes
  rcases Nat.lt_or_ge j l.length with h | h
  · rw [List.getD_append _ _ _ _ (by rw [List.length_map]; exact h), List.getElem?_eq_getElem h]
    simp [List.getD, h, noneByte]
  · rw [List.getD_append_right _ _ _ _ (by rw [List.length_map]; exact h), List.getElem?_eq_none h, List.length_map]
    simp only [List.getD, List.getElem?_replicate, if_pos (show j - l.length < places - l.length by omega)]
    rfl

theorem arbiter_length (a : Arbiter) : a.stateBytes.length = 5 := by cases a <;> rfl

/-- The bytes behind the two lists of places. -/
def Messages.chimeBytes (m : Messages) : List Byte :=
  m.arbiter.stateBytes ++ ([m.load.code, m.playingRemaining] ++ (m.requestSet .active ++ m.requestSet .spent))

theorem messages_bytes_eq (m : Messages) : m.stateBytes =
    presentationBytes m.current ++ ([BitVec.ofNat 8 m.stack.length, BitVec.ofNat 8 m.ring.length] ++
      (indexBytes 4 m.stack ++ (indexBytes 16 m.ring ++ m.chimeBytes))) := by
  simp only [Messages.stateBytes, Messages.chimeBytes, Config.stackPlaces, Config.ringPlaces, List.append_assoc]

theorem messages_drop_counts (m : Messages) : m.stateBytes.drop 5 =
    [BitVec.ofNat 8 m.stack.length, BitVec.ofNat 8 m.ring.length] ++
      (indexBytes 4 m.stack ++ (indexBytes 16 m.ring ++ m.chimeBytes)) := by
  rw [messages_bytes_eq, List.drop_left' (presentationBytes_length _)]

theorem messages_drop_stack (m : Messages) :
    m.stateBytes.drop 7 = indexBytes 4 m.stack ++ (indexBytes 16 m.ring ++ m.chimeBytes) := by
  rw [show 7 = 5 + 2 from rfl, ← List.drop_drop, messages_drop_counts]
  rfl

theorem messages_drop_ring {m : Messages} (hstack : m.stack.length ≤ 4) :
    m.stateBytes.drop 11 = indexBytes 16 m.ring ++ m.chimeBytes := by
  rw [show 11 = 7 + 4 from rfl, ← List.drop_drop, messages_drop_stack, List.drop_left' (indexBytes_length hstack)]

theorem messages_drop_chime {m : Messages} (hstack : m.stack.length ≤ 4) (hring : m.ring.length ≤ 16) :
    m.stateBytes.drop 27 = m.chimeBytes := by
  rw [show 27 = 11 + 16 from rfl, ← List.drop_drop, messages_drop_ring hstack, List.drop_left' (indexBytes_length hring)]

theorem chime_drop_load (m : Messages) :
    m.chimeBytes.drop 5 = [m.load.code, m.playingRemaining] ++ (m.requestSet .active ++ m.requestSet .spent) :=
  List.drop_left' (arbiter_length _)

theorem requestSet_iff {m : Messages} {st : RequestStatus} {l : List Byte} {offset : Nat}
    (h : (l.drop offset).take 8 = m.requestSet st) (i : Fin 64) :
    (numAt l offset 8).testBit i.val = true ↔ ∃ r, m.requests[i] = some r ∧ r.status = st := by
  rw [testBit_set (by decide) h i]
  cases m.requests[i] <;> simp

/-- A playing burst at its offsets (R114). -/
theorem playing_layout {m : Messages} {l : List Byte} (hl : l.drop 27 = m.chimeBytes) (t : Fin 64) (phase : ChimePhase)
    (left tone : Nat) : m.arbiter = .playing t phase left tone →
    byteAt l 27 = 1 ∧ byteAt l 28 = BitVec.ofNat 8 t.val ∧ (byteAt l 29 = match phase with | .on => 0 | .off => 1) ∧
      numAt l 30 2 = left % 2 ^ 16 ∧
      ∀ r, m.requests[t] = some r → numAt l 33 1 = (r.remaining.getD 0) % 2 ^ 8 := by
  intro h
  have hbyte : ∀ j, byteAt l (27 + j) = byteAt m.chimeBytes j := fun j => by rw [byteAt_add, hl]
  have hnum : ∀ j w, numAt l (27 + j) w = numAt m.chimeBytes j w := fun j w => by rw [numAt_add, hl]
  have hbytes : m.chimeBytes = (Arbiter.playing t phase left tone).stateBytes ++
      ([m.load.code, m.playingRemaining] ++ (m.requestSet .active ++ m.requestSet .spent)) := by
    rw [Messages.chimeBytes, h]
  rw [hbytes] at hbyte hnum
  refine ⟨hbyte 0, hbyte 1, (hbyte 2).trans (by cases phase <;> rfl), (hnum 3 2).trans (numAt_of_bytes rfl), fun r hr => (hnum 6 1).trans (numAt_of_bytes ?_)⟩
  have hremaining : m.playingRemaining = BitVec.ofNat 8 (r.remaining.getD 0) := by
    simp only [Messages.playingRemaining, h, hr]
  change _ = [BitVec.ofNat 8 (r.remaining.getD 0)]
  rw [← hremaining]
  rfl

theorem presentation_layout {m : Messages} (hstack : m.stack.length ≤ 4) (hring : m.ring.length ≤ 16) :
    PresentationLayout m m.stateBytes := by
  have hchime := messages_drop_chime hstack hring
  have hload : m.stateBytes.drop 32 = [m.load.code, m.playingRemaining] ++ (m.requestSet .active ++ m.requestSet .spent) := by
    rw [show 32 = 27 + 5 from rfl, ← List.drop_drop, hchime, chime_drop_load]
  constructor
  · have hsum := congrArg List.length (messages_bytes_eq m)
    simp only [Messages.chimeBytes, List.length_append, presentationBytes_length, indexBytes_length hstack, indexBytes_length hring,
      arbiter_length, Messages.requestSet, natBytes_length, List.length_cons, List.length_nil] at hsum
    exact hsum
  · intro h
    rw [messages_bytes_eq, h]
    rfl
  · intro p h
    rw [messages_bytes_eq, h]
    exact ⟨rfl, numAt_of_bytes rfl, numAt_of_bytes rfl, rfl⟩
  · constructor
    · rw [numAt_of_bytes (n := m.stack.length) (by rw [messages_drop_counts]; rfl)]
      exact Nat.mod_eq_of_lt (by omega)
    · rw [numAt_of_bytes (n := m.ring.length) (by rw [show 6 = 5 + 1 from rfl, ← List.drop_drop, messages_drop_counts]; rfl)]
      exact Nat.mod_eq_of_lt (by omega)
  · intro j hj
    rw [byteAt_add, messages_drop_stack, byteAt_append_left (by rw [indexBytes_length hstack]; exact hj), byteAt_indexBytes _ hj]
    cases m.stack[j]? <;> rfl
  · intro j hj
    rw [byteAt_add, messages_drop_ring hstack, byteAt_append_left (by rw [indexBytes_length hring]; exact hj), byteAt_indexBytes _ hj]
    cases m.ring[j]? <;> rfl
  · intro h
    refine ⟨by rw [hchime, Messages.chimeBytes, h]; rfl, ?_⟩
    rw [show 33 = 32 + 1 from rfl, byteAt_add, hload]
    change m.playingRemaining = 0
    simp only [Messages.playingRemaining, h]
  · exact playing_layout hchime
  · rw [← Nat.add_zero 32, byteAt_add, hload]
    cases m.load <;> rfl
  · exact requestSet_iff (by rw [show 34 = 32 + 2 from rfl, ← List.drop_drop, hload]; rfl)
  · exact requestSet_iff (by rw [show 42 = 32 + 10 from rfl, ← List.drop_drop, hload]; rfl)

/-! ### Speed arbitration (R42) -/

theorem held_length {r : PairRing} (h : r.count ≤ 8) : r.held.length = r.count := by
  unfold PairRing.held
  split
  · next hfull => rw [List.length_map, List.length_finRange, hfull]
  · rw [List.length_take, Vector.length_toList]
    omega

/-- The held pairs, oldest first (R42). -/
theorem held_getElem? {r : PairRing} {j : Fin 8} (hj : j.val < r.count) :
    r.held[j.val]? = some (if r.count = 8 then r.places[r.position + j] else r.places[j]) := by
  unfold PairRing.held
  split
  · simp
  · rw [List.getElem?_take_of_lt hj]
    simp

theorem narrowed_bounds (v : Word32) : -8388608 ≤ narrowed v ∧ narrowed v ≤ 8388607 := by
  unfold narrowed
  omega

/-- A pair value's three bytes in two's complement (R189). -/
theorem toInt_narrowBytes {l : List Byte} {i : Nat} {v : Word32} (h : (l.drop i).take 3 = narrowBytes v) :
    (BitVec.ofNat 24 (numAt l i 3)).toInt = narrowed v := by
  obtain ⟨hlow, hhigh⟩ := narrowed_bounds v
  have hnumber : numAt l i 3 = (narrowed v % 16777216).toNat := by
    rw [numAt_of_bytes h]
    refine Nat.mod_eq_of_lt ?_
    change (narrowed v % 16777216).toNat < 16777216
    omega
  have hword : BitVec.ofNat 24 (narrowed v % 16777216).toNat = BitVec.ofInt 24 (narrowed v) := by
    apply BitVec.eq_of_toNat_eq
    rw [BitVec.toNat_ofNat, BitVec.toNat_ofInt]
    change (narrowed v % 16777216).toNat % 16777216 = (narrowed v % 16777216).toNat
    omega
  rw [hnumber, hword, BitVec.toInt_ofInt]
  exact Int.bmod_eq_of_le (by omega) (by omega)

/-- A pair's six bytes (R189). -/
def pairBytes (p : Word32 × Word32) : List Byte := narrowBytes p.1 ++ narrowBytes p.2

theorem pairs_length (l : List (Word32 × Word32)) : (l.map pairBytes).flatten.length = 6 * l.length := by
  induction l with
  | nil => rfl
  | cons p l ih =>
    simp only [List.map_cons, List.flatten_cons, List.length_append, List.length_cons, ih, pairBytes, narrowBytes, natBytes_length]
    omega

/-- The pair at a place stands six bytes further on for each pair before it. -/
theorem pairs_drop {l : List (Word32 × Word32)} {j : Nat} {p : Word32 × Word32} (h : l[j]? = some p) (rest : List Byte) :
    ∃ more, ((l.map pairBytes).flatten ++ rest).drop (6 * j) = pairBytes p ++ more := by
  induction l generalizing j with
  | nil => simp at h
  | cons q l ih =>
    rw [List.map_cons, List.flatten_cons, List.append_assoc]
    cases j with
    | zero =>
      cases Option.some.inj h
      exact ⟨_, rfl⟩
    | succ j =>
      rw [show 6 * (j + 1) = 6 + 6 * j from by omega, ← List.drop_drop, List.drop_left' (by rfl)]
      exact ih h

theorem ring_bytes_eq (r : PairRing) : r.stateBytes =
    (r.held.map pairBytes).flatten ++ List.replicate (6 * (8 - r.held.length)) 0 := rfl

theorem speed_layout {x : Speed} (hcount : x.ring.count ≤ 8) : SpeedLayout x x.stateBytes := by
  have hring : x.stateBytes.drop 8 = x.ring.stateBytes := rfl
  have hpair : ∀ j : Fin 8, j.val < x.ring.count → ∃ more, x.stateBytes.drop (8 + 6 * j.val) =
      pairBytes (if x.ring.count = 8 then x.ring.places[x.ring.position + j] else x.ring.places[j]) ++ more := fun j hj => by
    rw [← List.drop_drop, hring, ring_bytes_eq]
    exact pairs_drop (held_getElem? hj) _
  constructor
  · simp only [Speed.stateBytes, List.length_append, List.length_cons, List.length_nil, natBytes_length, ring_bytes_eq, pairs_length,
      List.length_replicate, held_length hcount]
    omega
  · rfl
  · rfl
  · rw [numAt_of_bytes (n := x.ring.count) rfl]
    exact Nat.mod_eq_of_lt (by omega)
  · rfl
  · rw [numAt_of_bytes (n := min (x.ring.lastSum.getD 0) 4294967295) rfl]
    exact Nat.mod_eq_of_lt (by omega)
  · intro j hj p
    obtain ⟨more, hmore⟩ := hpair j hj
    refine ⟨toInt_narrowBytes (by rw [hmore]; rfl), toInt_narrowBytes ?_⟩
    rw [show 11 + 6 * j.val = (8 + 6 * j.val) + 3 from by omega, ← List.drop_drop, hmore]
    rfl
  · intro j hj
    obtain ⟨k, rfl⟩ : ∃ k, j = 8 + (6 * x.ring.count + k) := ⟨j - (8 + 6 * x.ring.count), by omega⟩
    rw [byteAt_add, hring, ring_bytes_eq, byteAt_add, List.drop_left' (by rw [pairs_length, held_length hcount]), byteAt_zeros]

/-! ### Faults and time (R151, R172) -/

theorem padded_length {l : List Byte} {n : Nat} (h : l.length ≤ n) : (l ++ List.replicate (n - l.length) 0).length = n := by
  rw [List.length_append, List.length_replicate]
  omega

theorem captureBytes_length (c : Option Capture) : (captureBytes c).length = 21 := by
  cases c with
  | none => rfl
  | some c =>
    simp only [captureBytes, List.length_append, List.length_cons, List.length_nil, List.length_replicate, wordBytes, natBytes_length,
      utcBytes_length]
    have := detail_length c.detail
    omega

/-- The bytes behind the capture. -/
def State.faultsTail (s : State) : List Byte :=
  [flagByte s.faults.overflow, (s.slot 127).value.setWidth 8] ++ (List.finRange 16).map fun c => (s.tables.policy[c]).stateByte

theorem faults_bytes_eq (s : State) : s.faultsBytes = statusBytes s.faults.status ++ (captureBytes s.faults.capture ++ s.faultsTail) := by
  simp only [State.faultsBytes, State.faultsTail, List.append_assoc]

theorem faults_drop_capture (s : State) : s.faultsBytes.drop 2 = captureBytes s.faults.capture ++ s.faultsTail := by
  rw [faults_bytes_eq]
  rfl

theorem faults_drop_tail (s : State) : s.faultsBytes.drop 23 = s.faultsTail := by
  rw [show 23 = 2 + 21 from rfl, ← List.drop_drop, faults_drop_capture, List.drop_left' (captureBytes_length _)]

/-- A capture at its offsets (R172). -/
theorem capture_layout {l rest : List Byte} {k : Capture} (hl : l.drop 2 = captureBytes (some k) ++ rest) :
    byteAt l 2 = 1 ∧ byteAt l 3 = BitVec.ofNat 8 k.faultClass.number.val ∧
      (∃ n, detailAt l 4 k.detail n ∧ ∀ j, 4 + n ≤ j → j < 14 → byteAt l j = 0) ∧ wordAt l 14 = k.stamp.mono ∧
      carries (byteAt l 18) k.stamp.utc.isSome ∧ wordAt l 19 = k.stamp.utc.getD 0 := by
  have hpadded := padded_length (detail_length k.detail)
  have hbyte : ∀ j, byteAt l (2 + j) = byteAt (captureBytes (some k) ++ rest) j := fun j => by rw [byteAt_add, hl]
  have hdetail : l.drop 4 = k.detail.bytes ++ (List.replicate (10 - k.detail.bytes.length) 0 ++
      (wordBytes k.stamp.mono ++ (utcBytes k.stamp.utc ++ rest))) := by
    rw [show 4 = 2 + 2 from rfl, ← List.drop_drop, hl]
    simp [captureBytes]
  have hstamp : l.drop 14 = wordBytes k.stamp.mono ++ (utcBytes k.stamp.utc ++ rest) := by
    rw [show 14 = 4 + 10 from rfl, ← List.drop_drop, hdetail, ← List.append_assoc, List.drop_left' hpadded]
  have hutc : l.drop 18 = utcBytes k.stamp.utc ++ rest := by
    rw [show 18 = 14 + 4 from rfl, ← List.drop_drop, hstamp]
    rfl
  refine ⟨hbyte 0, hbyte 1, ⟨_, detailAt_of_drop hdetail, fun j hj hlast => ?_⟩, wordAt_of_bytes (by rw [hstamp]; rfl), ?_, ?_⟩
  · obtain ⟨i, rfl⟩ : ∃ i, j = 4 + (k.detail.bytes.length + i) := ⟨j - (4 + k.detail.bytes.length), by omega⟩
    rw [byteAt_add, hdetail, byteAt_add, List.drop_left' rfl,
      byteAt_append_left (by rw [List.length_replicate]; omega), byteAt_zeros]
  · rw [← Nat.add_zero 18, byteAt_add, hutc]
    cases k.stamp.utc <;> rfl
  · rw [show 19 = 18 + 1 from rfl, wordAt_add, hutc]
    cases k.stamp.utc with
    | none => exact wordAt_of_bytes (x := 0) rfl
    | some u => exact wordAt_of_bytes rfl

theorem policy_bits (p : FaultPolicy) : (p.stateByte.getLsbD 0 = p.masked) ∧
    (p.stateByte.getLsbD 1 = decide (p.severity = .advisory)) ∧ (p.stateByte.getLsbD 2 = p.serviceClearable) ∧
    p.stateByte.toNat < 8 := by
  obtain ⟨masked, severity, clearable⟩ := p
  cases masked <;> cases severity <;> cases clearable <;> decide

theorem faults_layout (s : State) : FaultsLayout s s.faultsBytes := by
  have htail : ∀ j, byteAt s.faultsBytes (23 + j) = byteAt s.faultsTail j := fun j => by rw [byteAt_add, faults_drop_tail]
  constructor
  · rw [faults_bytes_eq, List.length_append, List.length_append, captureBytes_length]
    rfl
  · exact testBit_set (by decide) (by rw [faults_bytes_eq]; rfl)
  · intro h j hj hlast
    obtain ⟨i, rfl⟩ : ∃ i, j = 2 + i := ⟨j - 2, by omega⟩
    rw [byteAt_add, faults_drop_capture, byteAt_append_left (by rw [captureBytes_length]; omega), h]
    exact byteAt_zeros 21 i
  · exact fun k h => capture_layout (by rw [faults_drop_capture, h])
  · exact htail 0
  · exact htail 1
  · intro c
    have hpolicy : byteAt s.faultsBytes (25 + c.val) = (s.tables.policy[c]).stateByte := by
      rw [show 25 + c.val = 23 + (2 + c.val) from by omega, htail, byteAt_add]
      change byteAt ((List.finRange 16).map fun c => (s.tables.policy[c]).stateByte) c.val = _
      simp [byteAt, List.getD]
    rw [hpolicy]
    exact policy_bits _

theorem quiet_length (q : QuietTimer) : q.stateBytes.length = 3 := by cases q <;> rfl

theorem time_layout (x : TimeBase) : TimeLayout x x.stateBytes := by
  have hlength : x.stateBytes.length = 23 := by
    simp only [TimeBase.stateBytes, List.length_append, List.length_cons, List.length_nil, wordBytes, natBytes_length, quiet_length]
  obtain ⟨_, _, _, _, _, _, _, _, _, _, quiet, _, _, _⟩ := x
  cases quiet with
  | running left =>
    exact ⟨hlength, rfl, ⟨wordAt_of_bytes rfl, wordAt_of_bytes rfl, wordAt_of_bytes rfl⟩, rfl, rfl, rfl, numAt_of_bytes rfl, rfl,
      numAt_of_bytes rfl, rfl, rfl⟩
  | stopped | elapsed =>
    exact ⟨hlength, rfl, ⟨wordAt_of_bytes rfl, wordAt_of_bytes rfl, wordAt_of_bytes rfl⟩, rfl, rfl, rfl, numAt_of_bytes rfl, rfl,
      rfl, rfl, rfl⟩

end Sys2Proof.Machine
end

section
/-! PROOFS. READ, READ_FIELD and STATE: the checks in their order, and the answer with what stands (R177 to R179, R189). -/

namespace Sys2Proof.Machine

/-! ### Answers of requests that read (R177) -/

section
variable (code : Byte) (tag : Word16) {s : State} {r : Except ReplyStatus (List Byte)}

theorem answerRead_refused {e : ReplyStatus} (h : r = .error e) : Refused s code tag e (answerRead code tag r s) := by
  rw [h]
  exact refuse_refused code tag e s

theorem answerRead_offered {data : List Byte} (h : r = .ok data) :
    Offered s (.reply code tag .ok data) (answerRead code tag r s) := by
  rw [h]
  exact offer_spec _ _

end

theorem readEntry_answered (tag : Word16) (table index : Byte) (s : State) :
    match byteEnum tableCodes table with
    | none => Refused s 2 tag .badTable (requestRead tag table index s)
    | some id =>
      match s.entryBytes id index.toNat with
      | none => Refused s 2 tag .badIndex (requestRead tag table index s)
      | some l => Offered s (.reply 2 tag .ok l) (requestRead tag table index s) := by
  cases htable : byteEnum tableCodes table with
  | none => exact answerRead_refused 2 tag (by rw [State.readEntry, htable])
  | some id =>
    dsimp only
    cases hentry : s.entryBytes id index.toNat with
    | none => exact answerRead_refused 2 tag (by simp only [State.readEntry, htable, hentry])
    | some l => exact answerRead_offered 2 tag (by simp only [State.readEntry, htable, hentry])

theorem readField_answered (tag : Word16) (table index field : Byte) (s : State) :
    match byteEnum tableCodes table with
    | none => Refused s 4 tag .badTable (requestReadField tag table index field s)
    | some id =>
      match s.entryBytes id index.toNat with
      | none => Refused s 4 tag .badIndex (requestReadField tag table index field s)
      | some l =>
        match id.fields[field.toNat]? with
        | none => Refused s 4 tag .badField (requestReadField tag table index field s)
        | some f => Offered s (.reply 4 tag .ok (wordBytes (f.value l))) (requestReadField tag table index field s) := by
  have hrefused : ∀ {e}, s.nameField table index field = .error e → Refused s 4 tag e (requestReadField tag table index field s) :=
    fun h => answerRead_refused 4 tag (by simp only [State.readField, h])
  cases htable : byteEnum tableCodes table with
  | none => exact hrefused (nameField_badTable htable)
  | some id =>
    dsimp only
    cases hentry : s.entryBytes id index.toNat with
    | none => exact hrefused (nameField_badIndex htable (size_le_of_entryBytes hentry))
    | some l =>
      dsimp only
      cases hfield : id.fields[field.toNat]? with
      | none => exact hrefused (nameField_badField htable hentry (List.getElem?_eq_none_iff.1 hfield))
      | some f => exact answerRead_offered 4 tag (by simp only [State.readField, nameField_named htable hentry hfield])

/-! ### STATE targets (R179) -/

/-- A target with an index answers for the objects that it has (R179). -/
theorem indexed_answered {n k : Nat} {f : Fin n → List Byte} {lawful : Fin n → List Byte → Prop} (h : ∀ i, lawful i (f i)) :
    (n ≤ k → indexed n k f = .error .badIndex) ∧
      (k < n → ∃ l, indexed n k f = .ok l ∧ ∀ i : Fin n, i.val = k → lawful i l) := by
  refine ⟨fun hk => by rw [indexed, natIndex_of_le hk], fun hk => ?_⟩
  obtain ⟨i, rfl⟩ : ∃ i : Fin n, i.val = k := ⟨⟨k, hk⟩, rfl⟩
  exact ⟨f i, by rw [indexed, natIndex_val], fun j hj => Fin.ext hj ▸ h i⟩

/-- The data of a target that the request names (R179). -/
def State.targetData (s : State) (x : StateTarget) (index : Byte) : Except ReplyStatus (List Byte) :=
  match x with
  | .slot => indexed 128 index.toNat fun k => (s.slot k).stateBytes
  | .gauge => indexed 6 index.toNat fun ch => (s.gauges.channels[ch]).stateBytes
  | .telltale => indexed 64 index.toNat fun i => (s.telltales.records[i]).stateBytes
  | .lamp => indexed 32 index.toNat s.lampBytes
  | .presentation => .ok s.messages.stateBytes
  | .crew => indexed 4 index.toNat fun p => crewPlaceBytes s.crew.places[p]
  | .speed => .ok s.speed.stateBytes
  | .faults => .ok s.faultsBytes
  | .time => .ok s.time.stateBytes

theorem stateData_target {s : State} {table index : Byte} {x : StateTarget} (hx : byteEnum stateTargetCodes table = some x) :
    s.stateData table index = s.targetData x index := by
  rw [State.stateData, hx]
  cases x <;> rfl

/-- Settles O45: the three answers by the checks that fail first, the data of each target by its layout. -/
theorem readsAnswerWhatStands : Obligations.ReadsAnswerWhatStands := by
  intro tag table index field s hs
  refine ⟨⟨_, onAwake_of_awake hs, readEntry_answered tag table index s⟩,
    ⟨_, onAwake_of_awake hs, readField_answered tag table index field s⟩, ⟨_, onAwake_of_awake hs, ?_⟩, fun x hx => ?_, fun h => ?_⟩
  · cases hdata : s.stateData table index with
    | error r => exact answerRead_refused 5 tag hdata
    | ok data => exact answerRead_offered 5 tag hdata
  · have hdata : s.stateData table index = s.targetData x index := stateData_target hx
    simp only [hdata]
    cases x with
    | slot => exact indexed_answered fun _ => slot_layout _
    | gauge => exact indexed_answered fun _ => channel_layout _
    | telltale => exact indexed_answered fun _ => telltale_layout _
    | lamp => exact indexed_answered (lamp_layout s)
    | crew => exact indexed_answered fun _ => crewPlace_layout _
    | presentation => exact fun hstack hring => ⟨_, rfl, presentation_layout hstack hring⟩
    | speed => exact fun hcount => ⟨_, rfl, speed_layout hcount⟩
    | faults => exact ⟨_, rfl, faults_layout s⟩
    | time => exact ⟨_, rfl, time_layout _⟩
  · rw [State.stateData, h]

end Sys2Proof.Machine
end

section
/-! PROOFS. Every entry within its constraints is read back from its bytes, table by table (R185, R191): each item's byte or bytes stand at
its offset, and a number that its constraint bounds below the width of its field is carried whole. Signal Map and curve entries are
read back above, with what SERVICE authority writes of them. -/

namespace Sys2Proof.Machine

/-! ### Items read back (R185) -/

theorem byteEnum_enumByte {α : Type} [DecidableEq α] {values : List α} (hcodes : values.length ≤ 256) {x : α} (hx : x ∈ values) :
    byteEnum values (enumByte values x) = some x := by
  have hplace : values.idxOf x < values.length := List.idxOf_lt_length_of_mem hx
  rw [byteEnum, enumByte, toNat_ofNat_byte (by omega), List.getElem?_eq_getElem hplace, List.getElem_idxOf]

theorem byteNone_noneByte {n : Nat} (hn : n ≤ 255) (k : Option (Fin n)) : byteNone n (noneByte k) = some k := by
  cases k with
  | none => rfl
  | some i =>
    have hindex : BitVec.ofNat 8 i.val ≠ 0xFF := fun h => by
      have hvalue : (BitVec.ofNat 8 i.val).toNat = 255 := congrArg BitVec.toNat h
      rw [toNat_ofNat_byte (by omega)] at hvalue
      omega
    rw [noneByte, byteNone, if_neg hindex, byteIndex_ofNat (by omega), Option.map_some]

/-- A number below the width of its field, at the offset at which its bytes stand. -/
theorem numAt_of_lt {l : List Byte} {i w n : Nat} (h : (l.drop i).take w = natBytes w n) (hn : n < 2 ^ (8 * w)) :
    numAt l i w = n := by
  rw [numAt_of_bytes h, Nat.mod_eq_of_lt hn]

/-- A number that stands first from an offset, and what stands from the offset after it: how a row of numbers is read in turn. -/
theorem numAt_then {l m : List Byte} {i w n : Nat} (h : l.drop i = natBytes w n ++ m) (hn : n < 2 ^ (8 * w)) :
    numAt l i w = n ∧ l.drop (i + w) = m := by
  have hwidth : (natBytes w n).length = w := Laws.natBytes_length w n
  exact ⟨numAt_of_lt (by rw [h, List.take_left' hwidth]) hn, by rw [← List.drop_drop, h, List.drop_left' hwidth]⟩

/-! ### Entries read back (R191) -/

theorem IntakeEntry.ofBytes_bytes {e : IntakeEntry} (h : e.ok = true) : IntakeEntry.ofBytes e.bytes = some e := by
  simp only [IntakeEntry.ok, Bool.and_eq_true, decide_eq_true_eq] at h
  obtain ⟨⟨⟨⟨-, hfirst⟩, hcount⟩, -⟩, -⟩ := h
  have hvalid : byteFlag (byteAt e.bytes 0) = some e.valid := byteFlag_flagByte _
  have hports : byteEnum portSetCodes (byteAt e.bytes 1) = some e.ports :=
    byteEnum_enumByte (by decide) (by cases e.ports <;> decide)
  have hkind : byteEnum idKindCodes (byteAt e.bytes 2) = some e.idKind :=
    byteEnum_enumByte (by decide) (by cases e.idKind <;> decide)
  have haction : byteEnum actionCodes (byteAt e.bytes 11) = some e.action :=
    byteEnum_enumByte (by decide) (by cases e.action <;> decide)
  have hmode : byteEnum forwardModeCodes (byteAt e.bytes 14) = some e.forwardMode :=
    byteEnum_enumByte (by decide) (by cases e.forwardMode <;> decide)
  have hvalue : wordAt e.bytes 3 = e.idValue := wordAt_of_bytes rfl
  have hmask : wordAt e.bytes 7 = e.idMask := wordAt_of_bytes rfl
  have hreply : wordAt e.bytes 15 = e.replyId := wordAt_of_bytes rfl
  have hfirstByte : (byteAt e.bytes 12).toNat = e.mapFirst := toNat_ofNat_byte (by omega)
  have hcountByte : (byteAt e.bytes 13).toNat = e.mapCount := toNat_ofNat_byte (by omega)
  simp only [IntakeEntry.ofBytes, hvalid, hports, hkind, haction, hmode, hvalue, hmask, hreply, hfirstByte, hcountByte,
    Option.bind_eq_bind, Option.bind_some, Option.pure_def]

theorem SlotConfig.ofBytes_bytes {e : SlotConfig} (h : e.ok = true) : SlotConfig.ofBytes e.bytes = some e := by
  simp only [SlotConfig.ok, Bool.and_eq_true, decide_eq_true_eq] at h
  obtain ⟨⟨⟨-, hhold⟩, hstale⟩, -⟩ := h
  have hwatch : byteFlag (byteAt e.bytes 12) = some e.watch := byteFlag_flagByte _
  have hmin : wordAt e.bytes 0 = e.min := wordAt_of_bytes rfl
  have hmax : wordAt e.bytes 4 = e.max := wordAt_of_bytes rfl
  have hholdAt : numAt e.bytes 8 2 = e.holdTime := numAt_of_lt rfl (by omega)
  have hstaleAt : numAt e.bytes 10 2 = e.staleTime := numAt_of_lt rfl (by omega)
  simp only [SlotConfig.ofBytes, hwatch, hmin, hmax, hholdAt, hstaleAt, Option.bind_eq_bind, Option.bind_some, Option.pure_def]

/-- The range check alone bounds what the bytes carry of a curve; the order check has no part in it (R52). -/
theorem Curve.ofBytes_bytes_of_inRange {c : Curve} (h : c.inRange = true) : Curve.ofBytes c.bytes = some c := by
  simp only [Curve.inRange, Bool.and_eq_true, decide_eq_true_eq, List.all_eq_true, List.mem_finRange, true_implies] at h
  obtain ⟨⟨-, hcount⟩, hy⟩ := h
  exact Curve.ofBytes_bytes (by omega) fun j => (hy j).trans_lt (by decide)

theorem GaugeEntry.ofBytes_bytes {e : GaugeEntry} (h : e.ok = true) : GaugeEntry.ofBytes e.bytes = some e := by
  simp only [GaugeEntry.ok, Bool.and_eq_true, decide_eq_true_eq] at h
  obtain ⟨⟨⟨⟨⟨hdamping, -⟩, hvmax⟩, -⟩, hmax⟩, hpark⟩ := h
  have hvalid : byteFlag (byteAt e.bytes 0) = some e.valid := byteFlag_flagByte _
  have hsource : byteIndex 128 (byteAt e.bytes 1) = some e.source := byteIndex_ofNat (by decide) _
  have hcurve : byteIndex 12 (byteAt e.bytes 2) = some e.curve := byteIndex_ofNat (by decide) _
  have hpolicy : byteEnum stalePolicyCodes (byteAt e.bytes 9) = some e.stalePolicy :=
    byteEnum_enumByte (by decide) (by cases e.stalePolicy <;> decide)
  have hdampingByte : (byteAt e.bytes 3).toNat = e.damping := toNat_ofNat_byte (by omega)
  have hvmaxByte : (byteAt e.bytes 4).toNat = e.vmax := toNat_ofNat_byte (by omega)
  have hmaxAt : numAt e.bytes 5 2 = e.maxPos := numAt_of_lt rfl (by omega)
  have hparkAt : numAt e.bytes 7 2 = e.park := numAt_of_lt rfl (by omega)
  simp only [GaugeEntry.ofBytes, hvalid, hsource, hcurve, hpolicy, hdampingByte, hvmaxByte, hmaxAt, hparkAt, Option.bind_eq_bind,
    Option.bind_some, Option.pure_def]

theorem TelltaleEntry.ofBytes_bytes {e : TelltaleEntry} (h : e.ok = true) : TelltaleEntry.ofBytes e.bytes = some e := by
  simp only [TelltaleEntry.ok, Bool.and_eq_true, decide_eq_true_eq] at h
  obtain ⟨⟨⟨⟨⟨hhysteresis, hon⟩, hoff⟩, hpriority⟩, hmessage⟩, hbackup⟩ := h
  have hvalid : byteFlag (byteAt e.bytes 0) = some e.valid := byteFlag_flagByte _
  have hack : byteFlag (byteAt e.bytes 22) = some e.acknowledgeable := byteFlag_flagByte _
  have hstandby : byteFlag (byteAt e.bytes 24) = some e.standbyVisible := byteFlag_flagByte _
  have hbulb : byteFlag (byteAt e.bytes 25) = some e.bulbCheck := byteFlag_flagByte _
  have hsource : byteIndex 128 (byteAt e.bytes 1) = some e.source := byteIndex_ofNat (by decide) _
  have hlamp : byteNone 32 (byteAt e.bytes 14) = some e.lamp := byteNone_noneByte (by decide) _
  have hchime : byteNone 8 (byteAt e.bytes 23) = some e.chime := byteNone_noneByte (by decide) _
  have hop : byteEnum opCodes (byteAt e.bytes 2) = some e.op := byteEnum_enumByte (by decide) (by cases e.op <;> decide)
  have hpolicy : byteEnum unusablePolicyCodes (byteAt e.bytes 9) = some e.unusablePolicy :=
    byteEnum_enumByte (by decide) (by cases e.unusablePolicy <;> decide)
  have hmode : byteEnum lampModeCodes (byteAt e.bytes 15) = some e.lampMode :=
    byteEnum_enumByte (by decide) (by cases e.lampMode <;> decide)
  have hlatch : byteEnum latchCodes (byteAt e.bytes 16) = some e.latch :=
    byteEnum_enumByte (by decide) (by cases e.latch <;> decide)
  have hthreshold : wordAt e.bytes 3 = e.threshold := wordAt_of_bytes rfl
  have hhysteresisAt : numAt e.bytes 7 2 = e.hysteresis := numAt_of_lt rfl (by omega)
  have honAt : numAt e.bytes 10 2 = e.onDebounce := numAt_of_lt rfl (by omega)
  have hoffAt : numAt e.bytes 12 2 = e.offDebounce := numAt_of_lt rfl (by omega)
  have hpriorityByte : (byteAt e.bytes 17).toNat = e.priority := toNat_ofNat_byte (by omega)
  have hmessageAt : numAt e.bytes 18 2 = e.message := numAt_of_lt rfl (by omega)
  have hbackupAt : numAt e.bytes 20 2 = e.backup := numAt_of_lt rfl (by omega)
  simp only [TelltaleEntry.ofBytes, hvalid, hack, hstandby, hbulb, hsource, hlamp, hchime, hop, hpolicy, hmode, hlatch, hthreshold,
    hhysteresisAt, honAt, hoffAt, hpriorityByte, hmessageAt, hbackupAt, Option.bind_eq_bind, Option.bind_some, Option.pure_def]

/-- The times stand in units of 10 ms: that they are whole units is what lets them be read back (R108, R191). -/
theorem ChimePattern.ofBytes_bytes {e : ChimePattern} (h : e.ok = true) : ChimePattern.ofBytes e.bytes = some e := by
  simp only [ChimePattern.ok, Bool.and_eq_true, decide_eq_true_eq, beq_iff_eq] at h
  obtain ⟨⟨⟨⟨⟨⟨⟨⟨htone, -⟩, hon⟩, honUnit⟩, -⟩, hoff⟩, hoffUnit⟩, hrepeats⟩, hpriority⟩ := h
  have htime : ∀ t : Nat, t ≤ 2550 → t % 10 = 0 → 10 * (BitVec.ofNat 8 (t / 10)).toNat = t := fun t ht hunit => by
    rw [toNat_ofNat_byte (by omega), Nat.mul_div_cancel' (Nat.dvd_of_mod_eq_zero hunit)]
  have htoneByte : (byteAt e.bytes 0).toNat = e.tone := toNat_ofNat_byte (by omega)
  have honByte : 10 * (byteAt e.bytes 1).toNat = e.onTime := htime _ hon honUnit
  have hoffByte : 10 * (byteAt e.bytes 2).toNat = e.offTime := htime _ hoff hoffUnit
  have hrepeatsByte : (byteAt e.bytes 3).toNat = e.repeats := toNat_ofNat_byte (by omega)
  have hpriorityByte : (byteAt e.bytes 4).toNat = e.priority := toNat_ofNat_byte (by omega)
  simp only [ChimePattern.ofBytes, htoneByte, honByte, hoffByte, hrepeatsByte, hpriorityByte]

theorem CrewInputs.ofBytes_bytes {l : List Byte} {i : Nat} {e : CrewInputs} (h0 : byteAt l i = noneByte e.activity)
    (h1 : byteAt l (i + 1) = noneByte e.token) (h2 : byteAt l (i + 2) = noneByte e.tallyContinuous)
    (h3 : byteAt l (i + 3) = noneByte e.tallyDaily) : CrewInputs.ofBytes l i = some e := by
  have hslot : ∀ k : Option (Fin 120), byteNone 120 (noneByte k) = some k := byteNone_noneByte (by decide)
  simp only [CrewInputs.ofBytes, h0, h1, h2, h3, hslot, Option.bind_eq_bind, Option.bind_some, Option.pure_def]

/-- The numbers of Crew Config and the silent activity, in the order of their bytes. -/
def CrewConfig.numberBytes (e : CrewConfig) : List Byte :=
  natBytes 4 e.contLimit ++ (natBytes 4 e.dayLimit ++ (natBytes 4 e.breakPartA ++ (natBytes 4 e.breakPartB ++
    (natBytes 4 e.breakFull ++ (natBytes 4 e.dailyRest ++ (natBytes 2 e.tallyTolerance ++ (natBytes 4 e.detachedKeep ++
      (natBytes 2 e.snapshotInterval ++ [enumByte activityCodes e.silentActivity]))))))))

theorem CrewConfig.bytes_eq (e : CrewConfig) :
    e.bytes = e.driver.bytes ++ (e.coDriver.bytes ++ noneByte e.timeSlot :: e.numberBytes) := by
  simp only [CrewConfig.bytes, CrewConfig.numberBytes, List.append_assoc, List.cons_append, List.nil_append]

theorem CrewConfig.ofBytes_bytes {e : CrewConfig} (h : e.ok = true) : CrewConfig.ofBytes e.bytes = some e := by
  simp only [CrewConfig.ok, Bool.and_eq_true, decide_eq_true_eq] at h
  obtain ⟨⟨⟨⟨⟨⟨⟨⟨⟨⟨⟨⟨⟨⟨-, hcont⟩, -⟩, hday⟩, -⟩, hpartA⟩, hpartB⟩, hfull⟩, hrest⟩, htolerance⟩, hkeep⟩, hinterval⟩, -⟩, -⟩, -⟩ := h
  have hdriver : CrewInputs.ofBytes e.bytes 0 = some e.driver := by
    rw [e.bytes_eq]
    exact CrewInputs.ofBytes_bytes rfl rfl rfl rfl
  have hcoDriver : CrewInputs.ofBytes e.bytes 4 = some e.coDriver := by
    rw [e.bytes_eq]
    exact CrewInputs.ofBytes_bytes rfl rfl rfl rfl
  have htime : byteNone 120 (byteAt e.bytes 8) = some e.timeSlot := by
    rw [e.bytes_eq]
    exact byteNone_noneByte (by decide) _
  have hnumbers : e.bytes.drop 9 = e.numberBytes := by
    rw [e.bytes_eq]
    rfl
  obtain ⟨hcontAt, hfrom⟩ := numAt_then hnumbers (by omega)
  obtain ⟨hdayAt, hfrom⟩ := numAt_then hfrom (by omega)
  obtain ⟨hpartAAt, hfrom⟩ := numAt_then hfrom (by omega)
  obtain ⟨hpartBAt, hfrom⟩ := numAt_then hfrom (by omega)
  obtain ⟨hfullAt, hfrom⟩ := numAt_then hfrom (by omega)
  obtain ⟨hrestAt, hfrom⟩ := numAt_then hfrom (by omega)
  obtain ⟨htoleranceAt, hfrom⟩ := numAt_then hfrom (by omega)
  obtain ⟨hkeepAt, hfrom⟩ := numAt_then hfrom (by omega)
  obtain ⟨hintervalAt, hfrom⟩ := numAt_then hfrom (by omega)
  have hsilent : byteEnum activityCodes (byteAt e.bytes 41) = some e.silentActivity := by
    rw [show 41 = 41 + 0 from rfl, byteAt_add, hfrom]
    exact byteEnum_enumByte (by decide) (by cases e.silentActivity <;> decide)
  simp only [CrewConfig.ofBytes, hdriver, hcoDriver, htime, hsilent, hcontAt, hdayAt, hpartAAt, hpartBAt, hfullAt, hrestAt,
    htoleranceAt, hkeepAt, hintervalAt, Option.bind_eq_bind, Option.bind_some, Option.pure_def]

theorem SystemConfig.ofBytes_bytes {e : SystemConfig} (h : e.ok = true) : SystemConfig.ofBytes e.bytes = some e := by
  simp only [SystemConfig.ok, Bool.and_eq_true, decide_eq_true_eq] at h
  obtain ⟨⟨⟨⟨⟨⟨⟨hsilence, -⟩, -⟩, henter⟩, hleave⟩, hbulb⟩, hsettle⟩, hquiet⟩ := h
  have hprimary : byteNone 120 (byteAt e.bytes 2) = some e.primarySpeed := byteNone_noneByte (by decide) _
  have hsecondary : byteNone 120 (byteAt e.bytes 3) = some e.secondarySpeed := byteNone_noneByte (by decide) _
  have hack : byteNone 128 (byteAt e.bytes 12) = some e.ackSlot := byteNone_noneByte (by decide) _
  have hbrake : byteNone 128 (byteAt e.bytes 13) = some e.parkingBrake := byteNone_noneByte (by decide) _
  have hsilenceAt : numAt e.bytes 0 2 = e.portSilence := numAt_of_lt rfl (by omega)
  have henterAt : numAt e.bytes 4 4 = e.conflictEnter := numAt_of_lt rfl (by omega)
  have hleaveAt : numAt e.bytes 8 4 = e.conflictLeave := numAt_of_lt rfl (by omega)
  have hbulbAt : numAt e.bytes 14 2 = e.bulbCheck := numAt_of_lt rfl (by omega)
  have hsettleAt : numAt e.bytes 16 2 = e.wakeSettle := numAt_of_lt rfl (by omega)
  have hquietAt : numAt e.bytes 18 2 = e.quietTime := numAt_of_lt rfl (by omega)
  simp only [SystemConfig.ofBytes, hprimary, hsecondary, hack, hbrake, hsilenceAt, henterAt, hleaveAt, hbulbAt, hsettleAt, hquietAt,
    Option.bind_eq_bind, Option.bind_some, Option.pure_def]

/-- Every field is a flag or an enumeration, so that no constraint is needed (R164). -/
theorem FaultPolicy.ofBytes_bytes (e : FaultPolicy) : FaultPolicy.ofBytes e.bytes = some e := by
  have hmasked : byteFlag (byteAt e.bytes 0) = some e.masked := byteFlag_flagByte _
  have hseverity : byteEnum severityCodes (byteAt e.bytes 1) = some e.severity :=
    byteEnum_enumByte (by decide) (by cases e.severity <;> decide)
  have hclearable : byteFlag (byteAt e.bytes 2) = some e.serviceClearable := byteFlag_flagByte _
  simp only [FaultPolicy.ofBytes, hmasked, hseverity, hclearable, Option.bind_eq_bind, Option.bind_some, Option.pure_def]

/-- Settles O47: one round trip for each table. -/
theorem entryBytesReadBack : Obligations.EntryBytesReadBack :=
  ⟨fun _ => IntakeEntry.ofBytes_bytes, fun _ => MapEntry.ofBytes_bytes, fun _ => SlotConfig.ofBytes_bytes,
    fun _ => Curve.ofBytes_bytes_of_inRange, fun _ => GaugeEntry.ofBytes_bytes, fun _ => TelltaleEntry.ofBytes_bytes,
    fun _ => ChimePattern.ofBytes_bytes, fun _ => CrewConfig.ofBytes_bytes, fun _ => SystemConfig.ofBytes_bytes,
    FaultPolicy.ofBytes_bytes⟩

end Sys2Proof.Machine
end

section
/-! PROOFS. One step by the two forms of the queue: with no command waiting, and with a command at its front (assumption log
entry 1). -/

namespace Sys2Proof.Machine

section
variable {s : State}

theorem step_of_pending_nil (hqueue : s.pending = []) : step s = .next s := by
  rw [step, hqueue]

theorem step_of_pending_cons {c : Instr} {rest : List Instr} (hqueue : s.pending = c :: rest) :
    step s = exec c { s with pending := rest } := by
  rw [step, hqueue]

end

/-- Settles O1: the queue has a front command or is empty. With one, the command runs with the queue's rest, and the queue that held
it is overwritten. -/
theorem stepTakesTheFrontCommand : Obligations.StepTakesTheFrontCommand :=
  ⟨fun _ _ _ => step_of_pending_cons rfl, fun _ hqueue => step_of_pending_nil hqueue⟩

end Sys2Proof.Machine
end
